-- ==== Sys2Proof/Word.lean ====
section
/-!
DEFINITION. The word types of the LM-7 (R2).
-/

namespace Sys2Proof

/-- R2: a byte. -/
abbrev Byte := BitVec 8

/-- R2: a word, 32 bits; also one lane of a vector register (R21). -/
abbrev Word := BitVec 32

/-- A scalar register's value (R20). -/
abbrev DWord := BitVec 64

/-- A lane number, a physical lane position (R9). -/
abbrev Lane := Fin 32

/-- A vector register's image: 32 lanes (R21). -/
abbrev Lanes := Vector Word 32

/-- An exact real of the form m × 2^e, the form of every value the grid and the formats hold (R94, R109). -/
structure Dyadic where
  m : Int
  e : Int
deriving DecidableEq, Repr

end Sys2Proof
end

