-- ==== Sys2Proof/Config.lean ====
section
/-!
DEFINITION. What one implementation fixes, and the free values: constants without a body, of which nothing can be proved but
that they are what they are. Each is a value the spec leaves open; the assumption log names them.
-/

namespace Sys2Proof.Config

/-! ## Time (R38, R377) -/

/-- Cycles that pass in a step beyond the one every step takes, by the cycle count it starts at. -/
opaque stepCycles : Nat → Nat

/-- Nanoseconds of package global time that pass in a step, by the cycle count it starts at. -/
opaque stepNanos : Nat → Nat

/-- What the package adds to the global time of a region that arrives from another module (R396). -/
opaque migrationNanos : Nat → Nat

/-! ## Arithmetic (R110, R168) -/

/-- The result an approximate function returns, by function number, element type and operand bits; the machine uses it only
where it lies within the 2 ulp that R168 allows. -/
opaque approx : Nat → Nat → Nat → Nat

/-! ## Keys (R367, R368, R373-R375) -/

/-- The Trizor root public key in the boot ROM (R373): x, y. -/
opaque rootKey : Nat × Nat

/-- The module's identity private key (R375). -/
opaque identityKey : Nat

/-- The nonce of an identity signature, by the bytes signed. -/
opaque signingNonce : List Byte → Nat

/-- The keys a wrapped key holds, when it unwraps (R375). -/
opaque unwrapKey : Nat → Option Nat

/-- What a key id that the host has not loaded stands for (R375), as a number of the kind that loaded keys are. -/
opaque blankKey : Nat → Nat

/-- A byte of an attestation report that no field of R375 fills, by its place. -/
opaque reportByte : Nat → BitVec 8

/-- The nonce of a line's integrity tag (R368), by line. -/
opaque tagNonce : Nat → Nat

/-- What is read of an address that has no translation where the reader takes no fault: the constant path (R357), a copy's or a
stream's source whose translation the host removed after its check. -/
opaque lostByte : Nat → BitVec 8

/-! ## The translator (R384-R386) -/

/-- The native bytes the translator makes of a function, its stop bits apart: by the bytes of the Golierum section, the address of the
code object, by which the function's calls find their slots, and the function's number. -/
opaque translation : List Byte → Nat → Nat → List Byte

/-- The words of a function that are loop heads, by the section's bytes and the function's number (R384). -/
opaque loopHeads : List Byte → Nat → List Nat

/-- The masks of a safe point in a function's live-register map (R384): scalar, vector, predicate, MODE; by section, function, ordinal. -/
opaque liveMasks : List Byte → Nat → Nat → BitVec 201

/-- Where a kernel's constant bytes stand in the Golierum section: offset and length (R384 gives the section no layout). -/
opaque constantsPlace : List Byte → Nat → Nat × Nat

/-- How many functions a Golierum section makes (R385). -/
opaque functionCount : List Byte → Nat

/-- The first of the four scalar registers that a function's stub uses, but for the upper ones, and its array register (R385): code object
address, function number. -/
opaque stubScalar : Nat → Nat → Nat
opaque stubArray : Nat → Nat → BitVec 4

/-- The global address of the translator's request word (R385). -/
opaque requestWord : Nat

/-- Where the code heap begins in a region's address space and in physical memory. -/
opaque heapVirtual : Nat

/-- The physical base of the code heap. -/
opaque heapPhysical : Nat

/-- The global address of a translated function's slot (R385). -/
opaque slotAddress : Nat → Nat → Nat

/-- The address of a translated function's stub (R385). -/
opaque stubAddress : Nat → Nat → Nat

/-! ## The fabric (R387) -/

/-- Whether a flit's CHECK is right. -/
opaque flitCheckOk : BitVec 2048 → Bool

/-- The CHECK of bytes [239:0] of a flit that this module sends: the polynomial and the correcting code are not stated. -/
opaque flitCheck : BitVec 1920 → BitVec 128

/-- The PAYLOAD of a flit that this module sends, by destination, number and part of its message: how a payload holds a request, a row or
control is not stated. -/
opaque flitPayload : Nat → Nat → Nat → BitVec 1792

/-- This module's number in the pod (R387). -/
opaque moduleNumber : Nat

/-- The ports by which the pod's routes to a module begin (R388): every pair of modules has at least two paths. -/
opaque firstPath : Nat → Nat
/-- Which of the other fifteen ports the second of them begins by. -/
opaque secondPath : Nat → Nat
/-- And those beyond two. -/
opaque otherPaths : Nat → List Nat

/-! ## What the loader, the Monarch and devices do where the spec names no place -/

/-- Whether the repairs are applied and HBM4E and LPDDR train (R373 step 4), by the cycle count at power-on. -/
opaque trainingOk : Nat → Bool

/-- What a dump header names as the place of the warp that caused a halt ordered without any fault (R276): package core number and
core warp number, by launch and gang. The spec states none. -/
opaque haltPlace : Nat → Nat → BitVec 16 × BitVec 8

end Sys2Proof.Config
end

