-- ==== Sys2Proof/Syntax.lean ====
section
/-!
DEFINITION. Syntax of Phoune: `Instr`, one constructor for each row of the opcode table.

The first 249 constructors are the instructions that have a 32-bit word (R50); their arguments are the operand fields of the
word in the table's order and under the table's names, without the stop bit S, which changes nothing an instruction does (R50).
The last 109 are the part's steps that have no word: what an engine, the Monarch, a controller, a port or the host does, each
whole and indivisible (95, "What each step holds"). Such a step acts on what the state's `subject` names (State.lean).
The instructions with operands stand first: Lean's compiler wants the constructors that carry data among the first 244.
-/

namespace Sys2Proof

/-- The operations of the LM-7: one constructor per row of the opcode table. -/
inductive Instr where
  /-- `sadd` (R120). Adds two 64-bit scalars modulo 2^64 and derives the interval shadow of the sum. -/
  | sadd (d : BitVec 7) (a : BitVec 7) (b : BitVec 7)
  /-- `ssub` (R120). Subtracts two 64-bit scalars modulo 2^64 with interval shadow. -/
  | ssub (d : BitVec 7) (a : BitVec 7) (b : BitVec 7)
  /-- `smul` (R120). Multiplies two 64-bit scalars modulo 2^64 with interval shadow. -/
  | smul (d : BitVec 7) (a : BitVec 7) (b : BitVec 7)
  /-- `smulh` (R120). Writes the high 64 bits of the signed 128-bit product. -/
  | smulh (d : BitVec 7) (a : BitVec 7) (b : BitVec 7)
  /-- `smulhu` (R120). Writes the high 64 bits of the unsigned 128-bit product. -/
  | smulhu (d : BitVec 7) (a : BitVec 7) (b : BitVec 7)
  /-- `sand` (R120). Bitwise AND of two scalars. -/
  | sand (d : BitVec 7) (a : BitVec 7) (b : BitVec 7)
  /-- `sor` (R120). Bitwise OR of two scalars. -/
  | sor (d : BitVec 7) (a : BitVec 7) (b : BitVec 7)
  /-- `sxor` (R120). Bitwise XOR of two scalars. -/
  | sxor (d : BitVec 7) (a : BitVec 7) (b : BitVec 7)
  /-- `sshl` (R120). Shifts a scalar left by a register count modulo 64. -/
  | sshl (d : BitVec 7) (a : BitVec 7) (b : BitVec 7)
  /-- `sshr` (R120). Shifts a scalar right logically by a register count. -/
  | sshr (d : BitVec 7) (a : BitVec 7) (b : BitVec 7)
  /-- `ssra` (R120). Shifts a scalar right arithmetically by a register count. -/
  | ssra (d : BitVec 7) (a : BitVec 7) (b : BitVec 7)
  /-- `smin` (R120). Signed minimum of two scalars with interval shadow. -/
  | smin (d : BitVec 7) (a : BitVec 7) (b : BitVec 7)
  /-- `smax` (R120). Signed maximum of two scalars with interval shadow. -/
  | smax (d : BitVec 7) (a : BitVec 7) (b : BitVec 7)
  /-- `sminu` (R120). Unsigned minimum of two scalars. -/
  | sminu (d : BitVec 7) (a : BitVec 7) (b : BitVec 7)
  /-- `smaxu` (R120). Unsigned maximum of two scalars. -/
  | smaxu (d : BitVec 7) (a : BitVec 7) (b : BitVec 7)
  /-- `sdiv` (R93). Signed 64-bit division truncating toward zero, with divide-by-zero and overflow cases. -/
  | sdiv (d : BitVec 7) (a : BitVec 7) (b : BitVec 7)
  /-- `sdivu` (R93). Unsigned 64-bit division. -/
  | sdivu (d : BitVec 7) (a : BitVec 7) (b : BitVec 7)
  /-- `srem` (R93). Signed 64-bit remainder. -/
  | srem (d : BitVec 7) (a : BitVec 7) (b : BitVec 7)
  /-- `sremu` (R93). Unsigned 64-bit remainder. -/
  | sremu (d : BitVec 7) (a : BitVec 7) (b : BitVec 7)
  /-- `spopc` (R120). Counts the one bits of a scalar. -/
  | spopc (d : BitVec 7) (a : BitVec 7)
  /-- `sclz` (R120). Counts the leading zero bits of a scalar. -/
  | sclz (d : BitVec 7) (a : BitVec 7)
  /-- `sshli` (R120). Shifts a scalar left by a constant with shadow scaling. -/
  | sshli (d : BitVec 7) (a : BitVec 7) (n : BitVec 7)
  /-- `sshri` (R120). Shifts a scalar right logically by a constant. -/
  | sshri (d : BitVec 7) (a : BitVec 7) (n : BitVec 7)
  /-- `ssrai` (R120). Shifts a scalar right arithmetically by a constant. -/
  | ssrai (d : BitVec 7) (a : BitVec 7) (n : BitVec 7)
  /-- `sset.eq` (R120). Sets the destination to 1 if the operands are equal, else 0. -/
  | ssetEq (d : BitVec 7) (a : BitVec 7) (b : BitVec 7)
  /-- `sset.ne` (R120). Sets the destination to 1 if the operands differ. -/
  | ssetNe (d : BitVec 7) (a : BitVec 7) (b : BitVec 7)
  /-- `sset.lt` (R120). Sets the destination to 1 on signed less-than. -/
  | ssetLt (d : BitVec 7) (a : BitVec 7) (b : BitVec 7)
  /-- `sset.ge` (R120). Sets the destination to 1 on signed greater-or-equal. -/
  | ssetGe (d : BitVec 7) (a : BitVec 7) (b : BitVec 7)
  /-- `sset.ltu` (R120). Sets the destination to 1 on unsigned less-than. -/
  | ssetLtu (d : BitVec 7) (a : BitVec 7) (b : BitVec 7)
  /-- `sset.geu` (R120). Sets the destination to 1 on unsigned greater-or-equal. -/
  | ssetGeu (d : BitVec 7) (a : BitVec 7) (b : BitVec 7)
  /-- `saddi` (R120). Adds a signed 11-bit immediate to a scalar. -/
  | saddi (d : BitVec 7) (a : BitVec 7) (i : BitVec 11)
  /-- `sandi` (R120). ANDs a scalar with a sign-extended immediate. -/
  | sandi (d : BitVec 7) (a : BitVec 7) (i : BitVec 11)
  /-- `sori` (R120). ORs a scalar with a sign-extended immediate. -/
  | sori (d : BitVec 7) (a : BitVec 7) (i : BitVec 11)
  /-- `sxori` (R120). XORs a scalar with a sign-extended immediate. -/
  | sxori (d : BitVec 7) (a : BitVec 7) (i : BitVec 11)
  /-- `sli` (R120). Loads a sign-extended 18-bit immediate into a scalar with an exact shadow. -/
  | sli (d : BitVec 7) (i : BitVec 18)
  /-- `slih` (R60). Shifts a scalar left by 18 and inserts an unsigned 18-bit immediate. -/
  | slih (d : BitVec 7) (i : BitVec 18)
  /-- `iwiden.u` (R122). Raises the upper bound of a scalar shadow to 2^31-1. -/
  | iwidenUS (d : BitVec 7)
  /-- `iwiden.l` (R122). Lowers the lower bound of a scalar shadow to -2^31. -/
  | iwidenLS (d : BitVec 7)
  /-- `iwiden.b` (R122). Widens both bounds of a scalar shadow. -/
  | iwidenBS (d : BitVec 7)
  /-- `iwiden.u` (R122). Raises the upper bound of a vector shadow. -/
  | iwidenUV (d : BitVec 7)
  /-- `iwiden.l` (R122). Lowers the lower bound of a vector shadow. -/
  | iwidenLV (d : BitVec 7)
  /-- `iwiden.b` (R122). Widens both bounds of a vector shadow. -/
  | iwidenBV (d : BitVec 7)
  /-- `iclamp` (R123). Clamps a scalar into an interval packed in a scalar and sets the shadow to match. -/
  | iclampS (d : BitVec 7) (a : BitVec 7) (b : BitVec 7)
  /-- `iclamp` (R123). Clamps each active vector lane into an interval packed in a scalar. -/
  | iclampV (d : BitVec 7) (a : BitVec 7) (b : BitVec 7)
  /-- `ishq` (R124). Reads a scalar register's shadow into a scalar. -/
  | ishqS (d : BitVec 7) (a : BitVec 7)
  /-- `ishq` (R124). Reads a vector register's shadow into a scalar. -/
  | ishqV (d : BitVec 7) (a : BitVec 7)
  /-- `bcc.cc` (R125). Compares two scalars and branches the whole warp, refining both shadows on both paths. -/
  | bcc (a : BitVec 6) (b : BitVec 6) (c : BitVec 3) (o : BitVec 10)
  /-- `bcci.cc` (R125). Compares a scalar with an immediate and branches the whole warp, refining the shadow. -/
  | bcci (a : BitVec 6) (i : BitVec 6) (c : BitVec 3) (o : BitVec 10)
  /-- `jmp` (R129). Jumps by a 25-bit word offset. -/
  | jmp (o : BitVec 25)
  /-- `call` (R129). Writes the return address to s63 and jumps by a word offset. -/
  | call (o : BitVec 25)
  /-- `brp` (R130). Splits the active mask by a predicate, pushing a reconvergence entry. -/
  | brp (p : BitVec 3) (t : BitVec 11) (j : BitVec 11)
  /-- `bany` (R132). Branches the whole warp when any active lane's predicate bit is set. -/
  | bany (p : BitVec 3) (o : BitVec 11)
  /-- `ball` (R132). Branches the whole warp when all active lanes' predicate bits are set. -/
  | ball (p : BitVec 3) (o : BitVec 11)
  /-- `rep` (R136). Checks the following word and dispatches it n times with stepped fields, tracking progress in XREP. -/
  | rep (c : BitVec 6) (x : BitVec 3) (y : BitVec 3) (z : BitVec 3)
  /-- `jmpi` (R129). Jumps to the byte address in a scalar, with alignment and range checks. -/
  | jmpi (a : BitVec 7)
  /-- `calli` (R129). Writes the return address to s63 and jumps to the address in a scalar. -/
  | calli (a : BitVec 7)
  /-- `spawn` (R259). Reads a kernel header and starts one child warp on the same core if a slot is free, returning a status. -/
  | spawn (d : BitVec 7) (a : BitVec 7)
  /-- `spawn.w` (R259). Starts one child warp on the same core, waiting for a free slot. -/
  | spawnW (d : BitVec 7) (a : BitVec 7)
  /-- `launch` (R334). Releases and sends a launch record to the Monarch as an append request, returning its answer. -/
  | launch (d : BitVec 7) (a : BitVec 7)
  /-- `vadd` (R154). Adds integer elements and narrows under MODE.SAT. -/
  | vadd (d : BitVec 7) (a : BitVec 7) (b : BitVec 7)
  /-- `vsub` (R154). Subtracts integer elements and narrows. -/
  | vsub (d : BitVec 7) (a : BitVec 7) (b : BitVec 7)
  /-- `vmul` (R154). Multiplies integer elements and narrows. -/
  | vmul (d : BitVec 7) (a : BitVec 7) (b : BitVec 7)
  /-- `vmulh` (R154). Writes the high half of each element's double-width product. -/
  | vmulh (d : BitVec 7) (a : BitVec 7) (b : BitVec 7)
  /-- `vand` (R157). Bitwise AND of whole lanes. -/
  | vand (d : BitVec 7) (a : BitVec 7) (b : BitVec 7)
  /-- `vor` (R157). Bitwise OR of whole lanes. -/
  | vor (d : BitVec 7) (a : BitVec 7) (b : BitVec 7)
  /-- `vxor` (R157). Bitwise XOR of whole lanes. -/
  | vxor (d : BitVec 7) (a : BitVec 7) (b : BitVec 7)
  /-- `vandn` (R157). Bitwise AND-NOT of whole lanes. -/
  | vandn (d : BitVec 7) (a : BitVec 7) (b : BitVec 7)
  /-- `vshl` (R158). Shifts each element left by a per-element count. -/
  | vshl (d : BitVec 7) (a : BitVec 7) (b : BitVec 7)
  /-- `vshr` (R158). Shifts each element right logically by a per-element count. -/
  | vshr (d : BitVec 7) (a : BitVec 7) (b : BitVec 7)
  /-- `vsra` (R158). Shifts each element right arithmetically by a per-element count. -/
  | vsra (d : BitVec 7) (a : BitVec 7) (b : BitVec 7)
  /-- `vmin` (R154). Per-element integer minimum. -/
  | vmin (d : BitVec 7) (a : BitVec 7) (b : BitVec 7)
  /-- `vmax` (R154). Per-element integer maximum. -/
  | vmax (d : BitVec 7) (a : BitVec 7) (b : BitVec 7)
  /-- `vmad` (R154). Integer multiply-add into the destination, narrowed once. -/
  | vmad (d : BitVec 7) (a : BitVec 7) (b : BitVec 7)
  /-- `vabs` (R155). Integer absolute value per element, narrowed. -/
  | vabs (d : BitVec 7) (a : BitVec 7)
  /-- `vneg` (R155). Integer negation per element, narrowed. -/
  | vneg (d : BitVec 7) (a : BitVec 7)
  /-- `vpopc` (R159). Counts one bits per element. -/
  | vpopc (d : BitVec 7) (a : BitVec 7)
  /-- `vclz` (R159). Counts leading zero bits per element. -/
  | vclz (d : BitVec 7) (a : BitVec 7)
  /-- `vbrev` (R159). Reverses the bits of each element. -/
  | vbrev (d : BitVec 7) (a : BitVec 7)
  /-- `vmov` (R160). Copies a vector register with its shadow. -/
  | vmov (d : BitVec 7) (a : BitVec 7)
  /-- `vlane` (R160). Writes each lane's number into the lane. -/
  | vlane (d : BitVec 7)
  /-- `vbcast` (R160). Broadcasts the low 32 bits of a scalar to every active lane. -/
  | vbcast (d : BitVec 7) (a : BitVec 7)
  /-- `vextr` (R161). Extracts one lane selected by a scalar into a scalar. -/
  | vextr (d : BitVec 7) (a : BitVec 7) (b : BitVec 7)
  /-- `vcvt` (R163). Converts elements from MODE.ET to a named destination type. -/
  | vcvt (d : BitVec 7) (a : BitVec 7) (t : BitVec 4)
  /-- `vsel` (R162). Selects each lane from one of two vectors by a predicate. -/
  | vsel (d : BitVec 7) (a : BitVec 7) (b : BitVec 7) (p : BitVec 3)
  /-- `vcmp.cc` (R164). Compares whole lanes as integers and writes predicate bits. -/
  | vcmp (d : BitVec 7) (a : BitVec 7) (b : BitVec 7) (c : BitVec 4)
  /-- `vmovi` (R160). Writes a sign-extended 18-bit immediate into every active lane. -/
  | vmovi (d : BitVec 7) (i : BitVec 18)
  /-- `vaddi` (R156). Adds a signed immediate to each integer element and narrows. -/
  | vaddi (d : BitVec 7) (a : BitVec 7) (i : BitVec 11)
  /-- `vandi` (R157). ANDs each lane with a sign-extended immediate. -/
  | vandi (d : BitVec 7) (a : BitVec 7) (i : BitVec 11)
  /-- `vshli` (R158). Shifts each element left by a constant. -/
  | vshli (d : BitVec 7) (a : BitVec 7) (n : BitVec 5)
  /-- `vshri` (R158). Shifts each element right logically by a constant. -/
  | vshri (d : BitVec 7) (a : BitVec 7) (n : BitVec 5)
  /-- `vsrai` (R158). Shifts each element right arithmetically by a constant. -/
  | vsrai (d : BitVec 7) (a : BitVec 7) (n : BitVec 5)
  /-- `vfadd` (R165). Floating add per element, rounded once. -/
  | vfadd (d : BitVec 7) (a : BitVec 7) (b : BitVec 7)
  /-- `vfsub` (R165). Floating subtract per element, rounded once. -/
  | vfsub (d : BitVec 7) (a : BitVec 7) (b : BitVec 7)
  /-- `vfmul` (R165). Floating multiply per element, rounded once. -/
  | vfmul (d : BitVec 7) (a : BitVec 7) (b : BitVec 7)
  /-- `vfma` (R165). Fused a*b+c per element, rounded once. -/
  | vfma (d : BitVec 7) (a : BitVec 7) (b : BitVec 7)
  /-- `vfms` (R165). Fused a*b-c per element, rounded once. -/
  | vfms (d : BitVec 7) (a : BitVec 7) (b : BitVec 7)
  /-- `vfnma` (R165). Fused -(a*b)+c per element, rounded once. -/
  | vfnma (d : BitVec 7) (a : BitVec 7) (b : BitVec 7)
  /-- `vfnms` (R165). Fused -(a*b)-c per element, rounded once. -/
  | vfnms (d : BitVec 7) (a : BitVec 7) (b : BitVec 7)
  /-- `vfmin` (R97). Per-element minimumNumber. -/
  | vfmin (d : BitVec 7) (a : BitVec 7) (b : BitVec 7)
  /-- `vfmax` (R97). Per-element maximumNumber. -/
  | vfmax (d : BitVec 7) (a : BitVec 7) (b : BitVec 7)
  /-- `vfdiv` (R166). Floating divide per element, rounded once, with special cases. -/
  | vfdiv (d : BitVec 7) (a : BitVec 7) (b : BitVec 7)
  /-- `vfabs` (R167). Clears each element's sign bit. -/
  | vfabs (d : BitVec 7) (a : BitVec 7)
  /-- `vfneg` (R167). Inverts each element's sign bit. -/
  | vfneg (d : BitVec 7) (a : BitVec 7)
  /-- `vfrcp` (R168). Approximate reciprocal within 2 ulp. -/
  | vfrcp (d : BitVec 7) (a : BitVec 7)
  /-- `vfrsq` (R168). Approximate reciprocal square root within 2 ulp. -/
  | vfrsq (d : BitVec 7) (a : BitVec 7)
  /-- `vfsqrt` (R167). Square root per element, rounded once. -/
  | vfsqrt (d : BitVec 7) (a : BitVec 7)
  /-- `vfexp2` (R168). Approximate base-2 exponential. -/
  | vfexp2 (d : BitVec 7) (a : BitVec 7)
  /-- `vflog2` (R168). Approximate base-2 logarithm. -/
  | vflog2 (d : BitVec 7) (a : BitVec 7)
  /-- `vfsin` (R168). Approximate sine. -/
  | vfsin (d : BitVec 7) (a : BitVec 7)
  /-- `vfcos` (R168). Approximate cosine. -/
  | vfcos (d : BitVec 7) (a : BitVec 7)
  /-- `vfrnd` (R167). Rounds each element to an integral value by MODE.RM. -/
  | vfrnd (d : BitVec 7) (a : BitVec 7)
  /-- `vfclass` (R170). Writes the floating class code of each element. -/
  | vfclass (d : BitVec 7) (a : BitVec 7)
  /-- `vfcmp.cc` (R171). Compares F32 lanes and writes predicate bits. -/
  | vfcmp (d : BitVec 7) (a : BitVec 7) (b : BitVec 7) (c : BitVec 4)
  /-- `pand` (R173). Predicate AND on effective-mask lanes. -/
  | pand (d : BitVec 7) (a : BitVec 7) (b : BitVec 7)
  /-- `por` (R173). Predicate OR on effective-mask lanes. -/
  | por (d : BitVec 7) (a : BitVec 7) (b : BitVec 7)
  /-- `pxor` (R173). Predicate XOR on effective-mask lanes. -/
  | pxor (d : BitVec 7) (a : BitVec 7) (b : BitVec 7)
  /-- `pnot` (R173). Predicate NOT on effective-mask lanes. -/
  | pnot (d : BitVec 7) (a : BitVec 7)
  /-- `pandn` (R173). Predicate AND-NOT on effective-mask lanes. -/
  | pandn (d : BitVec 7) (a : BitVec 7) (b : BitVec 7)
  /-- `pset` (R173). Sets predicate bits from the low 32 bits of a scalar. -/
  | pset (d : BitVec 7) (a : BitVec 7)
  /-- `pget` (R174). Copies a predicate to a scalar. -/
  | pget (d : BitVec 7) (a : BitVec 7)
  /-- `ppopc` (R174). Counts set predicate bits within the effective mask. -/
  | ppopc (d : BitVec 7) (a : BitVec 7)
  /-- `pfirst` (R174). Finds the lowest set predicate bit within the effective mask. -/
  | pfirst (d : BitVec 7) (a : BitVec 7)
  /-- `vshfl` (R175). Permutes lanes by per-lane indices. -/
  | vshfl (d : BitVec 7) (a : BitVec 7) (b : BitVec 7)
  /-- `vshflx` (R175). Permutes lanes by XOR with a scalar. -/
  | vshflx (d : BitVec 7) (a : BitVec 7) (b : BitVec 7)
  /-- `vrot` (R175). Rotates lanes by a scalar amount. -/
  | vrot (d : BitVec 7) (a : BitVec 7) (b : BitVec 7)
  /-- `vredadd` (R176). Sums active lanes into a scalar. -/
  | vredadd (d : BitVec 7) (a : BitVec 7)
  /-- `vredmin` (R176). Minimum of active lanes into a scalar. -/
  | vredmin (d : BitVec 7) (a : BitVec 7)
  /-- `vredmax` (R176). Maximum of active lanes into a scalar. -/
  | vredmax (d : BitVec 7) (a : BitVec 7)
  /-- `vscan` (R177). Inclusive prefix sum over active lanes. -/
  | vscan (d : BitVec 7) (a : BitVec 7)
  /-- `lda` (R184). Vector element load through an array register with bounds, lease, translation and permission checks. -/
  | lda (d : BitVec 7) (a : BitVec 4) (x : BitVec 7) (m : BitVec 7)
  /-- `sta` (R184). Vector element store through an array register. -/
  | sta (d : BitVec 7) (a : BitVec 4) (x : BitVec 7) (m : BitVec 7)
  /-- `ldb` (R184). Vector byte-offset load through an array register. -/
  | ldb (d : BitVec 7) (a : BitVec 4) (x : BitVec 7) (m : BitVec 7)
  /-- `stb` (R184). Vector byte-offset store through an array register. -/
  | stb (d : BitVec 7) (a : BitVec 4) (x : BitVec 7) (m : BitVec 7)
  /-- `slda` (R184). Scalar element load through an array register. -/
  | slda (d : BitVec 7) (a : BitVec 4) (x : BitVec 7) (m : BitVec 7)
  /-- `ssta` (R184). Scalar element store through an array register. -/
  | ssta (d : BitVec 7) (a : BitVec 4) (x : BitVec 7) (m : BitVec 7)
  /-- `lds` (R188). Vector load of 4-byte words from scratchpad addresses. -/
  | lds (d : BitVec 7) (x : BitVec 7) (m : BitVec 7)
  /-- `sts` (R188). Vector store of 4-byte words to scratchpad addresses. -/
  | sts (d : BitVec 7) (x : BitVec 7) (m : BitVec 7)
  /-- `slds` (R188). Scalar 8-byte scratchpad load. -/
  | slds (d : BitVec 7) (x : BitVec 7) (m : BitVec 7)
  /-- `ssts` (R188). Scalar 8-byte scratchpad store. -/
  | ssts (d : BitVec 7) (x : BitVec 7) (m : BitVec 7)
  /-- `vspill` (R189). Writes a vector register and its shadow as a CRC-protected scratchpad record. -/
  | vspill (d : BitVec 7) (a : BitVec 7)
  /-- `vfill` (R190). Restores a vector register from a record, validating the shadow. -/
  | vfill (d : BitVec 7) (a : BitVec 7)
  /-- `sspill` (R189). Writes a scalar register and its shadow as a scratchpad record. -/
  | sspill (d : BitVec 7) (a : BitVec 7)
  /-- `sfill` (R190). Restores a scalar register from a record, validating the shadow. -/
  | sfill (d : BitVec 7) (a : BitVec 7)
  /-- `abind` (R181). Binds an array register from a 32-byte descriptor in global memory. -/
  | abind (d : BitVec 4) (a : BitVec 7)
  /-- `abinds` (R181). Binds an array register from a base and a form word in a scalar pair. -/
  | abinds (d : BitVec 4) (a : BitVec 7)
  /-- `aqry` (R183). Reads one field of an array register into a scalar. -/
  | aqry (d : BitVec 7) (k : BitVec 4) (f : BitVec 3)
  /-- `aadd` (R300). Vector atomic integer add on global words. -/
  | aaddVg (d : BitVec 7) (a : BitVec 4) (x : BitVec 7) (r : BitVec 2)
  /-- `aaddf` (R300). Vector atomic F32 add on global words. -/
  | aaddfVg (d : BitVec 7) (a : BitVec 4) (x : BitVec 7) (r : BitVec 2)
  /-- `amin` (R300). Vector atomic signed minimum on global words. -/
  | aminVg (d : BitVec 7) (a : BitVec 4) (x : BitVec 7) (r : BitVec 2)
  /-- `amax` (R300). Vector atomic signed maximum on global words. -/
  | amaxVg (d : BitVec 7) (a : BitVec 4) (x : BitVec 7) (r : BitVec 2)
  /-- `aminu` (R300). Vector atomic unsigned minimum on global words. -/
  | aminuVg (d : BitVec 7) (a : BitVec 4) (x : BitVec 7) (r : BitVec 2)
  /-- `amaxu` (R300). Vector atomic unsigned maximum on global words. -/
  | amaxuVg (d : BitVec 7) (a : BitVec 4) (x : BitVec 7) (r : BitVec 2)
  /-- `aand` (R300). Vector atomic AND on global words. -/
  | aandVg (d : BitVec 7) (a : BitVec 4) (x : BitVec 7) (r : BitVec 2)
  /-- `aor` (R300). Vector atomic OR on global words. -/
  | aorVg (d : BitVec 7) (a : BitVec 4) (x : BitVec 7) (r : BitVec 2)
  /-- `axor` (R300). Vector atomic XOR on global words. -/
  | axorVg (d : BitVec 7) (a : BitVec 4) (x : BitVec 7) (r : BitVec 2)
  /-- `axch` (R300). Vector atomic exchange on global words. -/
  | axchVg (d : BitVec 7) (a : BitVec 4) (x : BitVec 7) (r : BitVec 2)
  /-- `acas` (R300). Vector atomic compare-and-swap on global words. -/
  | acasVg (d : BitVec 7) (a : BitVec 4) (x : BitVec 7) (r : BitVec 2)
  /-- `aapp` (R301). Warp-wide append to a global counter with per-lane ranks. -/
  | aappVg (d : BitVec 7) (a : BitVec 4) (x : BitVec 7) (r : BitVec 2)
  /-- `aadd` (R300). Scalar atomic integer add on a global word. -/
  | aaddSg (d : BitVec 7) (a : BitVec 4) (x : BitVec 7) (r : BitVec 2)
  /-- `aaddf` (R300). Scalar atomic F32 add on a global word. -/
  | aaddfSg (d : BitVec 7) (a : BitVec 4) (x : BitVec 7) (r : BitVec 2)
  /-- `amin` (R300). Scalar atomic signed minimum on a global word. -/
  | aminSg (d : BitVec 7) (a : BitVec 4) (x : BitVec 7) (r : BitVec 2)
  /-- `amax` (R300). Scalar atomic signed maximum on a global word. -/
  | amaxSg (d : BitVec 7) (a : BitVec 4) (x : BitVec 7) (r : BitVec 2)
  /-- `aminu` (R300). Scalar atomic unsigned minimum on a global word. -/
  | aminuSg (d : BitVec 7) (a : BitVec 4) (x : BitVec 7) (r : BitVec 2)
  /-- `amaxu` (R300). Scalar atomic unsigned maximum on a global word. -/
  | amaxuSg (d : BitVec 7) (a : BitVec 4) (x : BitVec 7) (r : BitVec 2)
  /-- `aand` (R300). Scalar atomic AND on a global word. -/
  | aandSg (d : BitVec 7) (a : BitVec 4) (x : BitVec 7) (r : BitVec 2)
  /-- `aor` (R300). Scalar atomic OR on a global word. -/
  | aorSg (d : BitVec 7) (a : BitVec 4) (x : BitVec 7) (r : BitVec 2)
  /-- `axor` (R300). Scalar atomic XOR on a global word. -/
  | axorSg (d : BitVec 7) (a : BitVec 4) (x : BitVec 7) (r : BitVec 2)
  /-- `axch` (R300). Scalar atomic exchange on a global word. -/
  | axchSg (d : BitVec 7) (a : BitVec 4) (x : BitVec 7) (r : BitVec 2)
  /-- `acas` (R300). Scalar atomic compare-and-swap on a global word. -/
  | acasSg (d : BitVec 7) (a : BitVec 4) (x : BitVec 7) (r : BitVec 2)
  /-- `aadd` (R300). Vector atomic integer add on scratchpad words. -/
  | aaddVs (d : BitVec 7) (x : BitVec 7) (r : BitVec 2)
  /-- `aaddf` (R300). Vector atomic F32 add on scratchpad words. -/
  | aaddfVs (d : BitVec 7) (x : BitVec 7) (r : BitVec 2)
  /-- `amin` (R300). Vector atomic signed minimum on scratchpad words. -/
  | aminVs (d : BitVec 7) (x : BitVec 7) (r : BitVec 2)
  /-- `amax` (R300). Vector atomic signed maximum on scratchpad words. -/
  | amaxVs (d : BitVec 7) (x : BitVec 7) (r : BitVec 2)
  /-- `aminu` (R300). Vector atomic unsigned minimum on scratchpad words. -/
  | aminuVs (d : BitVec 7) (x : BitVec 7) (r : BitVec 2)
  /-- `amaxu` (R300). Vector atomic unsigned maximum on scratchpad words. -/
  | amaxuVs (d : BitVec 7) (x : BitVec 7) (r : BitVec 2)
  /-- `aand` (R300). Vector atomic AND on scratchpad words. -/
  | aandVs (d : BitVec 7) (x : BitVec 7) (r : BitVec 2)
  /-- `aor` (R300). Vector atomic OR on scratchpad words. -/
  | aorVs (d : BitVec 7) (x : BitVec 7) (r : BitVec 2)
  /-- `axor` (R300). Vector atomic XOR on scratchpad words. -/
  | axorVs (d : BitVec 7) (x : BitVec 7) (r : BitVec 2)
  /-- `axch` (R300). Vector atomic exchange on scratchpad words. -/
  | axchVs (d : BitVec 7) (x : BitVec 7) (r : BitVec 2)
  /-- `acas` (R300). Vector atomic compare-and-swap on scratchpad words. -/
  | acasVs (d : BitVec 7) (x : BitVec 7) (r : BitVec 2)
  /-- `aapp` (R301). Warp-wide append to a scratchpad counter with per-lane ranks. -/
  | aappVs (d : BitVec 7) (x : BitVec 7) (r : BitVec 2)
  /-- `aadd` (R300). Scalar atomic integer add on an 8-byte scratchpad word. -/
  | aaddSs (d : BitVec 7) (x : BitVec 7) (r : BitVec 2)
  /-- `aaddf` (R300). Scalar atomic F32 add on an 8-byte scratchpad word, which faults ILLEGAL_IN_MODE. -/
  | aaddfSs (d : BitVec 7) (x : BitVec 7) (r : BitVec 2)
  /-- `amin` (R300). Scalar atomic signed minimum on a scratchpad word. -/
  | aminSs (d : BitVec 7) (x : BitVec 7) (r : BitVec 2)
  /-- `amax` (R300). Scalar atomic signed maximum on a scratchpad word. -/
  | amaxSs (d : BitVec 7) (x : BitVec 7) (r : BitVec 2)
  /-- `aminu` (R300). Scalar atomic unsigned minimum on a scratchpad word. -/
  | aminuSs (d : BitVec 7) (x : BitVec 7) (r : BitVec 2)
  /-- `amaxu` (R300). Scalar atomic unsigned maximum on a scratchpad word. -/
  | amaxuSs (d : BitVec 7) (x : BitVec 7) (r : BitVec 2)
  /-- `aand` (R300). Scalar atomic AND on a scratchpad word. -/
  | aandSs (d : BitVec 7) (x : BitVec 7) (r : BitVec 2)
  /-- `aor` (R300). Scalar atomic OR on a scratchpad word. -/
  | aorSs (d : BitVec 7) (x : BitVec 7) (r : BitVec 2)
  /-- `axor` (R300). Scalar atomic XOR on a scratchpad word. -/
  | axorSs (d : BitVec 7) (x : BitVec 7) (r : BitVec 2)
  /-- `axch` (R300). Scalar atomic exchange on a scratchpad word. -/
  | axchSs (d : BitVec 7) (x : BitVec 7) (r : BitVec 2)
  /-- `acas` (R300). Scalar atomic compare-and-swap on a scratchpad word. -/
  | acasSs (d : BitVec 7) (x : BitVec 7) (r : BitVec 2)
  /-- `dwb` (R305). Writes back dirty owned L1 words of a range to their homes. -/
  | dwb (d : BitVec 7) (a : BitVec 7)
  /-- `iinv` (R305). Invalidates a range in every core's instruction cache. -/
  | iinv (d : BitVec 7) (a : BitVec 7)
  /-- `acopy.in` (R241). Checks and starts a Hawkmoth copy from global memory into the scratchpad. -/
  | acopyIn (d : BitVec 4) (a : BitVec 7)
  /-- `acopy.out` (R241). Checks and starts a Hawkmoth copy from the scratchpad to global memory. -/
  | acopyOut (d : BitVec 4) (a : BitVec 7)
  /-- `agather` (R241). Checks and starts a Hawkmoth gather of indexed table rows into the scratchpad. -/
  | agather (d : BitVec 4) (a : BitVec 7)
  /-- `ascadd` (R241). Checks and starts a Hawkmoth scatter-add of scratchpad rows into indexed table rows. -/
  | ascadd (d : BitVec 4) (a : BitVec 7)
  /-- `qstream` (R250). Reads a stream program and starts Hawkmoth filling a queue. -/
  | qstream (q : BitVec 2) (a : BitVec 7)
  /-- `qpop` (R251). Pops one filled queue entry into a vector register. -/
  | qpop (d : BitVec 7) (q : BitVec 2)
  /-- `qstat` (R252). Reads a queue's status into a scalar. -/
  | qstat (d : BitVec 7) (q : BitVec 2)
  /-- `cseal` (R242). Closes the open copy batch and returns its number. -/
  | cseal (d : BitVec 7)
  /-- `cwait` (R243). Waits until the warp's sealed batches up to a number are complete. -/
  | cwait (a : BitVec 7)
  /-- `armw` (R244). Sets the target of an arrival word as an update. -/
  | armw (d : BitVec 7) (a : BitVec 7)
  /-- `waitg` (R245). Waits until an arrival word reaches a generation, then acquires its bytes. -/
  | waitg (d : BitVec 7) (a : BitVec 7)
  /-- `waitw` (R246). Waits until a scratchpad word changes from a value, with an acquire read. -/
  | waitw (d : BitVec 7) (a : BitVec 7)
  /-- `waitw.g` (R247). Waits until a global 8-byte word changes from a value, with an acquire read. -/
  | waitwG (d : BitVec 7) (a : BitVec 7)
  /-- `bar` (R254). Releases, arrives at a block barrier, waits for the phase and acquires, returning abandonment status. -/
  | bar (d : BitVec 7) (i : BitVec 4)
  /-- `bara` (R254). Releases and arrives at a block barrier without waiting. -/
  | bara (i : BitVec 4)
  /-- `gbar` (R289). Releases, arrives at a gang barrier, waits and acquires, returning abandonment status. -/
  | gbar (d : BitVec 7) (i : BitVec 4)
  /-- `mop` (R215). Commit-gated outer-product accumulate of two feeds into a pinned tile, updating checksums. -/
  | mop (t : BitVec 2) (a : BitVec 1) (b : BitVec 1)
  /-- `mopn` (R215). Commit-gated outer-product subtract of two feeds from a pinned tile. -/
  | mopn (t : BitVec 2) (a : BitVec 1) (b : BitVec 1)
  /-- `tzero` (R218). Zeroes a pinned tile and establishes zero checksums. -/
  | tzero (t : BitVec 2)
  /-- `mchk` (R228). Compares a pinned tile with its checksums, correcting one cell or faulting GRID_FAULT. -/
  | mchk (t : BitVec 2)
  /-- `fmov` (R217). Copies a vector register image into a feed register. -/
  | fmov (f : BitVec 2) (a : BitVec 7)
  /-- `mxon` (R211). Pins the named tiles and establishes their checksums. -/
  | mxon (m : BitVec 4)
  /-- `tcvt` (R224). Converts one row of an unpinned Q128 tile image to F32. -/
  | tcvt (d : BitVec 7) (t : BitVec 2)
  /-- `tsld` (R223). Reads one row or column of an F32 tile into a vector register. -/
  | tsld (v : BitVec 7) (t : BitVec 2) (r : BitVec 1) (x : BitVec 6) (n : BitVec 5)
  /-- `tsst` (R223). Writes one row or column of an F32 tile from a vector, adjusting checksums. -/
  | tsst (v : BitVec 7) (t : BitVec 2) (r : BitVec 1) (x : BitVec 6) (n : BitVec 5)
  /-- `fld` (R217). Loads a 128-byte feed image through an array register. -/
  | fld (f : BitVec 2) (a : BitVec 4) (x : BitVec 7) (m : BitVec 7)
  /-- `flds` (R217). Loads a 128-byte feed image from the scratchpad. -/
  | flds (f : BitVec 2) (x : BitVec 7) (m : BitVec 7)
  /-- `tld` (R220). Loads a whole tile image through an array register and establishes checksums. -/
  | tld (t : BitVec 2) (a : BitVec 4) (x : BitVec 7) (m : BitVec 7)
  /-- `tst` (R220). Stores a whole tile image through an array register after retirement. -/
  | tst (t : BitVec 2) (a : BitVec 4) (x : BitVec 7) (m : BitVec 7)
  /-- `tst.a` (R221). Claims a version word and stores a tile image all or nothing. -/
  | tstA (t : BitVec 2) (a : BitVec 4) (x : BitVec 7) (m : BitVec 7)
  /-- `tldv` (R222). Loads a whole versioned tile image with up to 64 tries, returning a status. -/
  | tldv (t : BitVec 2) (a : BitVec 4) (x : BitVec 7) (y : BitVec 6)
  /-- `mset` (R142). Writes MODE from a scalar with reserved bits forced to zero. -/
  | mset (a : BitVec 7)
  /-- `mseti` (R142). Writes one MODE field from a 14-bit immediate. -/
  | mseti (v : BitVec 7) (w : BitVec 7) (f : BitVec 4)
  /-- `mget` (R143). Reads MODE into a scalar. -/
  | mget (d : BitVec 7)
  /-- `srd` (R144). Reads a numbered system register into a scalar. -/
  | srd (d : BitVec 7) (a : BitVec 7)
  /-- `swr` (R144). Serialising write of a scalar to a writable system register. -/
  | swr (d : BitVec 7) (a : BitVec 7)
  /-- `flgr` (R145). Reads FLG after older instructions have retired. -/
  | flgr (d : BitVec 7)
  /-- `flgc` (R145). Clears FLG bits named in a scalar at retirement. -/
  | flgc (a : BitVec 7)
  /-- `xseed` (R146). Serialising load of the xorshift state XS from a scalar pair. -/
  | xseed (a : BitVec 7)
  /-- `trap` (R197). Serialising fault SOFTWARE with detail n. -/
  | trap (n : BitVec 6)
  /-- `pmark` (R147). Adds 1 to one of the core's progress counters at retirement. -/
  | pmark (n : BitVec 3)
  /-- `ret` (R129). Jumps to the address held in s63. -/
  | ret
  /-- `join` (R131). Ends a divergent path: starts the pending path or restores the mask and MODE and pops. -/
  | join
  /-- `tfence` (R139). Serialising check that faults ARITH when an enabled flag is set. -/
  | tfence
  /-- `exit` (R262). Ends the warp after its copies complete, releasing, cancelling its streams and freeing its slot. -/
  | exit
  /-- `nop` (R140). Occupies a dispatch slot and a reorder entry with no other effect. -/
  | nop
  /-- `facq` (R304). Acquire fence: invalidates SHARED L1 words and holds younger memory instructions. -/
  | facq
  /-- `frel` (R304). Release fence: retires when earlier stores, atomics and awaited copies have performed. -/
  | frel
  /-- `ffull` (R304). Full fence: release, wait for earlier loads, then acquire. -/
  | ffull
  /-- `fetchb` (R307). Serialising discard of words fetched beyond itself. -/
  | fetchb
  /-- `mxoff` (R212). Compares every pinned tile and unpins them. -/
  | mxoff
  /-- `tret.r` (R198). Ends the handler and reruns the faulting instruction in full. -/
  | tretR
  /-- `tret.s` (R198). Ends the handler and skips the faulting instruction or repetition. -/
  | tretS
  /-- `tret.x` (R198). Ends the handler and reruns the faulting instruction excluding XMASK lanes. -/
  | tretX
  /-- `bkpt` (R197). Serialising fault BREAKPOINT, or a debugger stop when routed to the Monarch. -/
  | bkpt
  /-- BRANCH_MISPREDICT (R44). A resolved mispredicted uniform branch squashes every younger instruction of its warp. -/
  | branchMispredict
  /-- TRAP_ENTRY (R196). A fault reaching the reorder head in-warp writes records and trap registers and jumps to the handler. -/
  | trapEntry
  /-- CONSTANT_CACHE_FILL (R310). A missing constant-cache line is filled from its home slice and its lanes resume. -/
  | constantCacheFill
  /-- STORE_REGISTRATION (R295). A retired store's line and words are registered at the home slice, which acknowledges and makes it perform. -/
  | storeRegistration
  /-- LINE_FILL (R296). A load fill is served at the home, asking any other owner to write back first. -/
  | lineFill
  /-- UNCORRECTABLE_ERROR (R308). An uncorrectable ECC error poisons the affected sector, line or word. -/
  | uncorrectableError
  /-- CORRECTED_ERROR (R308). A correctable ECC error is corrected and logged to the Monarch. -/
  | correctedError
  /-- COPY_SLOT_GRANT (R239). A copy waiting at issue obtains a free copy slot and retires into the open batch. -/
  | copySlotGrant
  /-- COPY_SECTOR_WRITE (R240). Hawkmoth writes one 48-byte destination sector of a retired copy whole. -/
  | copySectorWrite
  /-- ARRIVAL (R236). An arrival of b bytes updates an arrival word and advances INSTAR per reached target. -/
  | arrival
  /-- COPY_COMPLETE (R240). A copy completes when all its bytes, arrivals and global registrations are done. -/
  | copyComplete
  /-- CSEAL_UNBLOCK (R242). A cseal waiting for one of 16 incomplete sealed batches proceeds once one completes. -/
  | csealUnblock
  /-- CWAIT_SATISFIED (R243). A waiting cwait retires once its batches are complete. -/
  | cwaitSatisfied
  /-- WAITG_SATISFIED (R245). A waiting waitg retires once its generation has been reached. -/
  | waitgSatisfied
  /-- WAITW_SATISFIED (R246). A waiting waitw retires when a read returns a changed value. -/
  | waitwSatisfied
  /-- WAITW_G_SATISFIED (R247). A waiting waitw.g retires when a home-slice read returns a changed value. -/
  | waitwGSatisfied
  /-- QUEUE_FILL (R250). Hawkmoth fills queue entries of an active stream when the queue has room. -/
  | queueFill
  /-- QPOP_ENTRY_READY (R251). A qpop waiting for its entry proceeds once the entry is filled. -/
  | qpopEntryReady
  /-- SPAWN_W_RETRY (R259). A waiting spawn.w retries at a slot release and creates the child when possible. -/
  | spawnWRetry
  /-- TST_A_TRY (R221). After 64 cycles an unclaimed tst.a tries again to claim an even version. -/
  | tstATry
  /-- TST_A_VERSION_STORE (R221). Once every image sector is registered, a tst.a stores v+2 as a release. -/
  | tstAVersionStore
  /-- TLDV_TRY (R222). After 64 cycles a tldv makes its next try, returning BUSY after 64. -/
  | tldvTry
  /-- BARRIER_PHASE_COMPLETE (R253). A block barrier phase completes when all participants have arrived, releasing waiting warps. -/
  | barrierPhaseComplete
  /-- GANG_BARRIER_PHASE_COMPLETE (R288). A gang barrier phase completes when all gang participants have arrived. -/
  | gangBarrierPhaseComplete
  /-- ROTATED_DUPLICATE (R229). A selected mop runs again with rotated rows in a free pipe cycle and the results are compared. -/
  | rotatedDuplicate
  /-- DUPLICATE_PIPE_HOLD (R229). After 16 cycles without a free cycle the pipe is held one cycle for a pending duplicate. -/
  | duplicatePipeHold
  /-- SPARE_COLUMN_REMAP (R230). After a third fault at one cell, the Monarch remaps its column to the spare between launches. -/
  | spareColumnRemap
  /-- PARTITION_WITHDRAWAL (R230). A partition whose spare is used reaching a third fault elsewhere is withdrawn from placement. -/
  | partitionWithdrawal
  /-- GANG_PLACE (R337). The gang placer places a ready gang on the best fitting cluster and starts its warps. -/
  | gangPlace
  /-- GANG_EVICT (R264). Every warp of the gang is drained to a retirement boundary, its copies completed and its tiles compared. -/
  | gangEvict
  /-- GANG_RESTORE (R268). An evicted gang is placed again and its windows, registers, bindings, tiles and queues restored. -/
  | gangRestore
  /-- LAUNCH_COMPLETION (R332). The Monarch writes the launch's completion word once, with a release. -/
  | launchCompletion
  /-- TRAP_DELIVERY (R269). A fault beyond the warp writes its records and follows the core's trap mode. -/
  | trapDelivery
  /-- BACKOFF_EXPIRY (R270). A warp's back-off ends and it becomes READY to re-dispatch. -/
  | backoffExpiry
  /-- COALESCER_DRAIN (R272). The Monarch drains coalescer records after 1 us or when all 16 are open. -/
  | coalescerDrain
  /-- RETRY (R271). Handler command that resumes a TRAPPED warp as tret.r and returns the permit. -/
  | retry
  /-- SKIP (R271). Handler command that resumes a TRAPPED warp as tret.s. -/
  | skip
  /-- EXCLUDE (R271). Handler command that resumes a TRAPPED warp as tret.x. -/
  | exclude
  /-- HALT (R271). Handler command that halts the TRAPPED warp's gang. -/
  | halt
  /-- WARP_HALT (R273). A warp consuming poison or taking GRID_FAULT is drained, halted and handled by policy. -/
  | warpHalt
  /-- GANG_HALT (R274). A gang halt is sent to every core of the gang through the cluster. -/
  | gangHalt
  /-- GANG_HALT_RECEIPT (R274). A core receiving a gang halt drains every warp of the gang and marks them HALTED. -/
  | gangHaltReceipt
  /-- MONARCH_GANG_HALT (R274). Monarch command that halts a gang without a fault. -/
  | monarchGangHalt
  /-- DUMP (R275). Hawkmoth writes a dump header and sections of the halted gang into the region's dump area. -/
  | dump
  /-- DUMP_AREA_RESET (R277). Host command that resets a region's dump pointer to DUMPBASE. -/
  | dumpAreaReset
  /-- REGION_CREATE (R328). Host command handing a region control block to the Monarch, which checks and accepts or refuses it. -/
  | regionCreate
  /-- REGION_REREAD (R330). Host command ordering the Monarch to reread a control block. -/
  | regionReread
  /-- APPEND_DOORBELL (R333). Host write of a record address to a region's append doorbell register. -/
  | appendDoorbell
  /-- APPEND_REQUEST (R333). The Monarch serves an append request, copying the record into the launch queue and answering. -/
  | appendRequest
  /-- LAUNCH_TAKE (R336). The Monarch takes a queue entry, checks it, selects the kernel and makes its gangs ready. -/
  | launchTake
  /-- LEASE_PIN (R335). The Monarch makes every leased page resident and pins it before the first gang. -/
  | leasePin
  /-- QUANTUM_EXPIRY (R340). A placed gang's quantum expires, making it evictable by equal priority. -/
  | quantumExpiry
  /-- PRIORITY_AGING (R338). A ready gang gains one priority level per quantum waited, up to 3. -/
  | priorityAging
  /-- WAITER_YIELD (R341). A gang whose warps have all waited a quantum in waitw is evicted for an evicted gang of its region. -/
  | waiterYield
  /-- RELAUNCH (R346). The Monarch halts a journaled launch, restores its journal and relaunches or ends it. -/
  | relaunch
  /-- INVALIDATE (R355). Host command that advances TGEN, drops overlapping TLB entries and reports completion. -/
  | invalidate
  /-- FOOTPRINT_READ (R365). Every 1 ms the Monarch reads and clears footprint counts and credits page scores. -/
  | footprintRead
  /-- PAGE_MOVE (R366). The Monarch copies a page to another die, rewrites its leaf and invalidates it. -/
  | pageMove
  /-- DBI_WINDOW_END (R358). After 2^20 bursts a channel compares DBI energy estimates. -/
  | dbiWindowEnd
  /-- DBI_MODE_SWITCH (R358). At the next refresh the channel switches DBI mode and restarts its counters. -/
  | dbiModeSwitch
  /-- SELF_REFRESH_ENTRY (R360). After 2 us without requests a channel enters self-refresh. -/
  | selfRefreshEntry
  /-- SELF_REFRESH_EXIT (R360). A request to a channel in self-refresh triggers its exit and is then served. -/
  | selfRefreshExit
  /-- CONTROLLER_WRITE (R350). The controller merges a partial write into its line with ECC and tag in one step. -/
  | controllerWrite
  /-- MSC_REQUEST (R362). The tier controller serves a fill or write-back against the memory-side cache set. -/
  | mscRequest
  /-- SCRUB_PATROL (R369). A controller patrols a line, correcting, poisoning and checking tags. -/
  | scrubPatrol
  /-- POWER_ON (R373). The boot ROM checks the configuration image and firmware, applies repairs and brings the link up. -/
  | powerOn
  /-- RECOVERY_IMAGE_WRITE (R373). Host writes a new configuration image and firmware in the recovery state. -/
  | recoveryImageWrite
  /-- REBOOT_REQUEST (R373). Host requests a reboot in the recovery state. -/
  | rebootRequest
  /-- STANDBY_TAKEOVER (R372). The standby takes over after missing the Monarch heartbeat for 100 us. -/
  | standbyTakeover
  /-- ATTESTATION_REPORT (R375). Host command for a signed attestation report over its nonce. -/
  | attestationReport
  /-- KEY_LOAD (R375). Host loads a wrapped key for a key id, which the Monarch unwraps. -/
  | keyLoad
  /-- POWER_SAMPLE (R377). Every 100 us the Monarch samples power and steps the clock down or up. -/
  | powerSample
  /-- LUNA_RECORD (R378). A Luna recorder writes an event record, dropping excess records. -/
  | lunaRecord
  /-- LUNA_SYNC (R378). A SYNC record is written every 65,536 cycles and at clock changes. -/
  | lunaSync
  /-- LUNA_REARM (R379). The Monarch reads the ring and rearms a frozen recorder. -/
  | lunaRearm
  /-- FREEZE_MASK_SET (R379). The Monarch sets a recorder's freeze mask. -/
  | freezeMaskSet
  /-- CLUSTER_WATCHDOG (R378). 2^24 cycles with a READY warp and no retirement raise a watchdog event. -/
  | clusterWatchdog
  /-- BREAKPOINT_SET (R380). Debugger names up to 8 ordinals per region as breakpoints. -/
  | breakpointSet
  /-- SINGLE_STEP (R380). Debugger orders a stopped warp to run to its next safe point. -/
  | singleStep
  /-- SAFE_POINT_STOP (R380). A warp stops before a word with S = 1, held TRAPPED without a permit. -/
  | safePointStop
  /-- SAMPLE_PERIOD_SET (R380). The Monarch sets a core's sample period. -/
  | samplePeriodSet
  /-- SAMPLE_PERIOD_END (R380). A sample period ends and the next safe point retired is recorded as a sample. -/
  | samplePeriodEnd
  /-- DEBUG_REGISTER_ACCESS (R380). Debugger reads or writes a stopped warp's registers through the Monarch. -/
  | debugRegisterAccess
  /-- TRAP_MODE_SET (R269). The Monarch sets a core's trap mode to PERMIT or COALESCE. -/
  | trapModeSet
  /-- CAUSAL_EXPERIMENT (R381). Command starting or ending a causal experiment, reading and clearing progress counters. -/
  | causalExperiment
  /-- CAUSAL_PERIOD_END (R381). Every 4,096 cycles warps without cycles in the range are held for the speed-up delay. -/
  | causalPeriodEnd
  /-- TRANSLATE_FUNCTION (R385). The translator translates a requested function and publishes it in its slot. -/
  | translateFunction
  /-- HOST_MEMORY_ACCESS (R376). Host read or write through BAR2 to module physical memory. -/
  | hostMemoryAccess
  /-- HOST_REGISTER_WRITE (R376). Host write to a BAR0 register without behaviour of its own. -/
  | hostRegisterWrite
  /-- HOST_LINK_LOST (R395). On host loss the module runs on and the Monarch answers HALT to host-routed deliveries. -/
  | hostLinkLost
  /-- HOST_ATTACH (R395). A host attaches again and host appends and deliveries resume. -/
  | hostAttach
  /-- FLIT_RECEIVE (R387). A port receives a flit, delivering it in order or replaying on a CRC failure. -/
  | flitReceive
  /-- LANE_SPARE (R388). The spare lane replaces a lane whose error rate exceeds the limit. -/
  | laneSpare
  /-- LINK_RETRAIN (R388). A link retrains on its four best lanes after a second lane fails. -/
  | linkRetrain
  /-- LINK_DOWN (R388). A failed or timed-out retrain takes the link down and reroutes its requests. -/
  | linkDown
  /-- PEER_LOST (R393). A peer becomes unreachable, removed or silent for 20 us and is marked lost. -/
  | peerLost
  /-- LOST_REQUEST_COMPLETION (R393). Outstanding requests to a lost peer complete with error words or failure and REMOTE is logged. -/
  | lostRequestCompletion
  /-- POOL_ROW_READ (R392). A row read of a pool table is served at the row's home. -/
  | poolRowRead
  /-- POOL_ROW_ADD (R392). A row element add of a pool table is applied at the row's home. -/
  | poolRowAdd
  /-- TABLE_CREATE (R389). Host command creating a pool table. -/
  | tableCreate
  /-- TABLE_GRANT (R389). Host command granting a pool table to a region with READ or ADD rights. -/
  | tableGrant
  /-- TABLE_PUBLISH (R389). Host command publishing a new version of a pool table to every member's directory. -/
  | tablePublish
  /-- ROW_MOVE (R392). The Monarchs copy a hot row from its home to another member, logging adds meanwhile. -/
  | rowMove
  /-- ROW_HANDOVER (R392). The old home sends logged adds to the new home, which applies them before serving. -/
  | rowHandover
  /-- MIGRATE_REGION (R396). Host command migrating a region to another module by eviction, copy and restore. -/
  | migrateRegion
  /-- POWER_LOSS (R377). Loss of module power takes the module to OFF and clears every unwrapped key. -/
  | powerLoss
  /-- STANDBY_DIE_FAILURE (R372). A failure of die C3 while the standby holds control stops the module and the host sees the link go down. -/
  | standbyDieFailure
  /-- LEASE_REFERRAL_ANSWER (R335). The region handler answers a leased page with no translation that was referred to it, letting pinning go on or rejecting the launch with REASON 4. -/
  | leaseReferralAnswer
  /-- LINK_RETRAIN_DONE (R388). A retrain on the four best lanes finishes within 20 us and the link resumes at half bandwidth, replaying unacknowledged flits. -/
  | linkRetrainDone
deriving DecidableEq, Repr

end Sys2Proof
end

