-- ==== Sys2Proof/WellFormed.lean ====
section
/-!
DEFINITION. Which instructions a word may stand for, as far as the word alone decides (R52, R55, R57 and the member tables).

The one check of R52 that is not here is the bound VARCH on vector registers (R21): it depends on the running kernel, and the
machine makes it when the instruction issues.
-/

namespace Sys2Proof

/-- R52: a 7-bit scalar field names s0 to s63. -/
def scalarOk (r : BitVec 7) : Bool := r.toNat < 64

/-- R52: a register pair n, n + 1 lies inside s0 to s63. -/
def scalarPairOk (r : BitVec 7) : Bool := r.toNat < 63

/-- R52: a pair of vector registers n, n + 1 lies inside v0 to v127, the largest class; VARCH is the machine's check. -/
def vectorPairOk (r : BitVec 7) : Bool := r.toNat < 127

/-- R52: a register triple n, n + 1, n + 2 lies inside s0 to s63. -/
def scalarTripleOk (r : BitVec 7) : Bool := r.toNat < 62

/-- R52: a 7-bit predicate field names p0 to p7. -/
def predOk (r : BitVec 7) : Bool := r.toNat < 8

/-- R58: the shift count of `sshli`, `sshri` and `ssrai` is 0 to 63. -/
def shiftOk (n : BitVec 7) : Bool := n.toNat < 64

/-- R59: condition codes 6 and 7 are ILLEGAL. -/
def condOk (c : BitVec 3) : Bool := c.toNat < 6

/-- R63: stride codes 5 to 7 are ILLEGAL. -/
def strideOk (x : BitVec 3) : Bool := x.toNat < 5

/-- R29, R142: the width of the MODE field that an `mseti` field code names; none for the codes 10 to 15. -/
def msetiWidth (f : BitVec 4) : Option Nat :=
  match f.toNat with
  | 0 => some 3
  | 1 => some 4
  | 2 => some 3
  | 3 => some 1
  | 4 => some 1
  | 5 => some 3
  | 6 => some 3
  | 7 => some 1
  | 8 => some 10
  | 9 => some 8
  | _ => none

/-- R142: the 14-bit value of an `mseti` word, d in bits [13:7] and a in bits [6:0]. -/
def msetiValue (v w : BitVec 7) : Nat := v.toNat * 128 + w.toNat

/-- R79, R142: the field code is listed and no value bit lies above the field's width. -/
def msetiOk (f : BitVec 4) (v w : BitVec 7) : Bool :=
  match msetiWidth f with
  | some n => decide (msetiValue v w < 2 ^ n)
  | none => false

/-- R38: the system-register numbers of the table. -/
def sysRegListed (n : BitVec 7) : Bool :=
  n.toNat < 0x08 ∨ n.toNat = 0x10 ∨ n.toNat = 0x11 ∨ (0x20 ≤ n.toNat ∧ n.toNat < 0x25) ∨ (0x30 ≤ n.toNat ∧ n.toNat < 0x35)

/-- R52, R55, R57, R79, R38: the checks a word fixes. A step without a word is well formed. -/
def wellFormed : Instr → Bool
  | .sadd d a b => scalarOk d && scalarOk a && scalarOk b && !(d == 0#7 && a == 0#7 && b == 0#7)
  | .ssub d a b => scalarOk d && scalarOk a && scalarOk b
  | .smul d a b => scalarOk d && scalarOk a && scalarOk b
  | .smulh d a b => scalarOk d && scalarOk a && scalarOk b
  | .smulhu d a b => scalarOk d && scalarOk a && scalarOk b
  | .sand d a b => scalarOk d && scalarOk a && scalarOk b
  | .sor d a b => scalarOk d && scalarOk a && scalarOk b
  | .sxor d a b => scalarOk d && scalarOk a && scalarOk b
  | .sshl d a b => scalarOk d && scalarOk a && scalarOk b
  | .sshr d a b => scalarOk d && scalarOk a && scalarOk b
  | .ssra d a b => scalarOk d && scalarOk a && scalarOk b
  | .smin d a b => scalarOk d && scalarOk a && scalarOk b
  | .smax d a b => scalarOk d && scalarOk a && scalarOk b
  | .sminu d a b => scalarOk d && scalarOk a && scalarOk b
  | .smaxu d a b => scalarOk d && scalarOk a && scalarOk b
  | .sdiv d a b => scalarOk d && scalarOk a && scalarOk b
  | .sdivu d a b => scalarOk d && scalarOk a && scalarOk b
  | .srem d a b => scalarOk d && scalarOk a && scalarOk b
  | .sremu d a b => scalarOk d && scalarOk a && scalarOk b
  | .spopc d a => scalarOk d && scalarOk a
  | .sclz d a => scalarOk d && scalarOk a
  | .sshli d a n => scalarOk d && scalarOk a && shiftOk n
  | .sshri d a n => scalarOk d && scalarOk a && shiftOk n
  | .ssrai d a n => scalarOk d && scalarOk a && shiftOk n
  | .ssetEq d a b => scalarOk d && scalarOk a && scalarOk b
  | .ssetNe d a b => scalarOk d && scalarOk a && scalarOk b
  | .ssetLt d a b => scalarOk d && scalarOk a && scalarOk b
  | .ssetGe d a b => scalarOk d && scalarOk a && scalarOk b
  | .ssetLtu d a b => scalarOk d && scalarOk a && scalarOk b
  | .ssetGeu d a b => scalarOk d && scalarOk a && scalarOk b
  | .saddi d a _ => scalarOk d && scalarOk a
  | .sandi d a _ => scalarOk d && scalarOk a
  | .sori d a _ => scalarOk d && scalarOk a
  | .sxori d a _ => scalarOk d && scalarOk a
  | .sli d _ => scalarOk d
  | .slih d _ => scalarOk d
  | .iwidenUS d => scalarOk d
  | .iwidenLS d => scalarOk d
  | .iwidenBS d => scalarOk d
  | .iwidenUV _ => true
  | .iwidenLV _ => true
  | .iwidenBV _ => true
  | .iclampS d a b => scalarOk d && scalarOk a && scalarOk b
  | .iclampV _ _ b => scalarOk b
  | .ishqS d a => scalarOk d && scalarOk a
  | .ishqV d _ => scalarOk d
  | .bcc _ _ c _ => condOk c
  | .bcci _ _ c _ => condOk c
  | .jmp _ => true
  | .call _ => true
  | .brp _ _ _ => true
  | .bany _ _ => true
  | .ball _ _ => true
  | .rep _ x y z => strideOk x && strideOk y && strideOk z
  | .jmpi a => scalarOk a
  | .calli a => scalarOk a
  | .spawn d a => scalarOk d && scalarOk a
  | .spawnW d a => scalarOk d && scalarOk a
  | .launch d a => scalarOk d && scalarOk a
  | .vadd _ _ _ => true
  | .vsub _ _ _ => true
  | .vmul _ _ _ => true
  | .vmulh _ _ _ => true
  | .vand _ _ _ => true
  | .vor _ _ _ => true
  | .vxor _ _ _ => true
  | .vandn _ _ _ => true
  | .vshl _ _ _ => true
  | .vshr _ _ _ => true
  | .vsra _ _ _ => true
  | .vmin _ _ _ => true
  | .vmax _ _ _ => true
  | .vmad _ _ _ => true
  | .vabs _ _ => true
  | .vneg _ _ => true
  | .vpopc _ _ => true
  | .vclz _ _ => true
  | .vbrev _ _ => true
  | .vmov _ _ => true
  | .vlane _ => true
  | .vbcast _ a => scalarOk a
  | .vextr d _ b => scalarOk d && scalarOk b
  | .vcvt _ _ t => decide (t.toNat ≤ 10)
  | .vsel _ _ _ _ => true
  | .vcmp d _ _ c => predOk d && decide (c.toNat ≤ 5)
  | .vmovi _ _ => true
  | .vaddi _ _ _ => true
  | .vandi _ _ _ => true
  | .vshli _ _ _ => true
  | .vshri _ _ _ => true
  | .vsrai _ _ _ => true
  | .vfadd _ _ _ => true
  | .vfsub _ _ _ => true
  | .vfmul _ _ _ => true
  | .vfma _ _ _ => true
  | .vfms _ _ _ => true
  | .vfnma _ _ _ => true
  | .vfnms _ _ _ => true
  | .vfmin _ _ _ => true
  | .vfmax _ _ _ => true
  | .vfdiv _ _ _ => true
  | .vfabs _ _ => true
  | .vfneg _ _ => true
  | .vfrcp _ _ => true
  | .vfrsq _ _ => true
  | .vfsqrt _ _ => true
  | .vfexp2 _ _ => true
  | .vflog2 _ _ => true
  | .vfsin _ _ => true
  | .vfcos _ _ => true
  | .vfrnd _ _ => true
  | .vfclass _ _ => true
  | .vfcmp d _ _ c => predOk d && decide (c.toNat ≤ 7)
  | .pand d a b => predOk d && predOk a && predOk b
  | .por d a b => predOk d && predOk a && predOk b
  | .pxor d a b => predOk d && predOk a && predOk b
  | .pnot d a => predOk d && predOk a
  | .pandn d a b => predOk d && predOk a && predOk b
  | .pset d a => predOk d && scalarOk a
  | .pget d a => scalarOk d && predOk a
  | .ppopc d a => scalarOk d && predOk a
  | .pfirst d a => scalarOk d && predOk a
  | .vshfl _ _ _ => true
  | .vshflx _ _ b => scalarOk b
  | .vrot _ _ b => scalarOk b
  | .vredadd d _ => scalarOk d
  | .vredmin d _ => scalarOk d
  | .vredmax d _ => scalarOk d
  | .vscan _ _ => true
  | .lda _ _ _ _ => true
  | .sta _ _ _ _ => true
  | .ldb _ _ _ _ => true
  | .stb _ _ _ _ => true
  | .slda d _ x _ => scalarOk d && scalarOk x
  | .ssta d _ x _ => scalarOk d && scalarOk x
  | .lds _ _ _ => true
  | .sts _ _ _ => true
  | .slds d x _ => scalarOk d && scalarOk x
  | .ssts d x _ => scalarOk d && scalarOk x
  | .vspill _ a => scalarOk a
  | .vfill _ a => scalarOk a
  | .sspill d a => scalarOk d && scalarOk a
  | .sfill d a => scalarOk d && scalarOk a
  | .abind _ a => scalarOk a
  | .abinds _ a => scalarPairOk a
  | .aqry d _ f => scalarOk d && decide (f.toNat ≤ 5)
  | .aaddVg _ _ _ _ => true
  | .aaddfVg _ _ _ _ => true
  | .aminVg _ _ _ _ => true
  | .amaxVg _ _ _ _ => true
  | .aminuVg _ _ _ _ => true
  | .amaxuVg _ _ _ _ => true
  | .aandVg _ _ _ _ => true
  | .aorVg _ _ _ _ => true
  | .axorVg _ _ _ _ => true
  | .axchVg _ _ _ _ => true
  | .acasVg d _ _ _ => vectorPairOk d
  | .aappVg _ _ _ _ => true
  | .aaddSg d _ x _ => scalarOk d && scalarOk x
  | .aaddfSg d _ x _ => scalarOk d && scalarOk x
  | .aminSg d _ x _ => scalarOk d && scalarOk x
  | .amaxSg d _ x _ => scalarOk d && scalarOk x
  | .aminuSg d _ x _ => scalarOk d && scalarOk x
  | .amaxuSg d _ x _ => scalarOk d && scalarOk x
  | .aandSg d _ x _ => scalarOk d && scalarOk x
  | .aorSg d _ x _ => scalarOk d && scalarOk x
  | .axorSg d _ x _ => scalarOk d && scalarOk x
  | .axchSg d _ x _ => scalarOk d && scalarOk x
  | .acasSg d _ x _ => scalarPairOk d && scalarOk x
  | .aaddVs _ _ _ => true
  | .aaddfVs _ _ _ => true
  | .aminVs _ _ _ => true
  | .amaxVs _ _ _ => true
  | .aminuVs _ _ _ => true
  | .amaxuVs _ _ _ => true
  | .aandVs _ _ _ => true
  | .aorVs _ _ _ => true
  | .axorVs _ _ _ => true
  | .axchVs _ _ _ => true
  | .acasVs d _ _ => vectorPairOk d
  | .aappVs _ _ _ => true
  | .aaddSs d x _ => scalarOk d && scalarOk x
  | .aaddfSs d x _ => scalarOk d && scalarOk x
  | .aminSs d x _ => scalarOk d && scalarOk x
  | .amaxSs d x _ => scalarOk d && scalarOk x
  | .aminuSs d x _ => scalarOk d && scalarOk x
  | .amaxuSs d x _ => scalarOk d && scalarOk x
  | .aandSs d x _ => scalarOk d && scalarOk x
  | .aorSs d x _ => scalarOk d && scalarOk x
  | .axorSs d x _ => scalarOk d && scalarOk x
  | .axchSs d x _ => scalarOk d && scalarOk x
  | .acasSs d x _ => scalarPairOk d && scalarOk x
  | .dwb d a => scalarOk d && scalarOk a
  | .iinv d a => scalarOk d && scalarOk a
  | .acopyIn _ a => scalarTripleOk a
  | .acopyOut _ a => scalarTripleOk a
  | .agather _ a => scalarTripleOk a
  | .ascadd _ a => scalarTripleOk a
  | .qstream _ a => scalarOk a
  | .qpop _ _ => true
  | .qstat d _ => scalarOk d
  | .cseal d => scalarOk d
  | .cwait a => scalarOk a
  | .armw d a => scalarOk d && scalarOk a
  | .waitg d a => scalarOk d && scalarOk a
  | .waitw d a => scalarOk d && scalarOk a
  | .waitwG d a => scalarOk d && scalarOk a
  | .bar d _ => scalarOk d
  | .bara _ => true
  | .gbar d _ => scalarOk d
  | .mop _ _ _ => true
  | .mopn _ _ _ => true
  | .tzero _ => true
  | .mchk _ => true
  | .fmov _ _ => true
  | .mxon m => m != 0#4
  | .tcvt _ _ => true
  | .tsld _ _ _ _ _ => true
  | .tsst _ _ _ _ _ => true
  | .fld _ _ x _ => scalarOk x
  | .flds _ x _ => scalarOk x
  | .tld _ _ x _ => scalarOk x
  | .tst _ _ x _ => scalarOk x
  | .tstA _ _ x _ => scalarOk x
  | .tldv _ _ x _ => scalarOk x
  | .mset a => scalarOk a
  | .mseti v w f => msetiOk f v w
  | .mget d => scalarOk d
  | .srd d a => scalarOk d && sysRegListed a
  | .swr d a => scalarOk a && sysRegListed d
  | .flgr d => scalarOk d
  | .flgc a => scalarOk a
  | .xseed a => scalarPairOk a
  | .trap _ => true
  | .pmark _ => true
  | .ret => true
  | .join => true
  | .tfence => true
  | .exit => true
  | .nop => true
  | .facq => true
  | .frel => true
  | .ffull => true
  | .fetchb => true
  | .mxoff => true
  | .tretR => true
  | .tretS => true
  | .tretX => true
  | .bkpt => true
  | .branchMispredict => true
  | .trapEntry => true
  | .constantCacheFill => true
  | .storeRegistration => true
  | .lineFill => true
  | .uncorrectableError => true
  | .correctedError => true
  | .copySlotGrant => true
  | .copySectorWrite => true
  | .arrival => true
  | .copyComplete => true
  | .csealUnblock => true
  | .cwaitSatisfied => true
  | .waitgSatisfied => true
  | .waitwSatisfied => true
  | .waitwGSatisfied => true
  | .queueFill => true
  | .qpopEntryReady => true
  | .spawnWRetry => true
  | .tstATry => true
  | .tstAVersionStore => true
  | .tldvTry => true
  | .barrierPhaseComplete => true
  | .gangBarrierPhaseComplete => true
  | .rotatedDuplicate => true
  | .duplicatePipeHold => true
  | .spareColumnRemap => true
  | .partitionWithdrawal => true
  | .gangPlace => true
  | .gangEvict => true
  | .gangRestore => true
  | .launchCompletion => true
  | .trapDelivery => true
  | .backoffExpiry => true
  | .coalescerDrain => true
  | .retry => true
  | .skip => true
  | .exclude => true
  | .halt => true
  | .warpHalt => true
  | .gangHalt => true
  | .gangHaltReceipt => true
  | .monarchGangHalt => true
  | .dump => true
  | .dumpAreaReset => true
  | .regionCreate => true
  | .regionReread => true
  | .appendDoorbell => true
  | .appendRequest => true
  | .launchTake => true
  | .leasePin => true
  | .quantumExpiry => true
  | .priorityAging => true
  | .waiterYield => true
  | .relaunch => true
  | .invalidate => true
  | .footprintRead => true
  | .pageMove => true
  | .dbiWindowEnd => true
  | .dbiModeSwitch => true
  | .selfRefreshEntry => true
  | .selfRefreshExit => true
  | .controllerWrite => true
  | .mscRequest => true
  | .scrubPatrol => true
  | .powerOn => true
  | .recoveryImageWrite => true
  | .rebootRequest => true
  | .standbyTakeover => true
  | .attestationReport => true
  | .keyLoad => true
  | .powerSample => true
  | .lunaRecord => true
  | .lunaSync => true
  | .lunaRearm => true
  | .freezeMaskSet => true
  | .clusterWatchdog => true
  | .breakpointSet => true
  | .singleStep => true
  | .safePointStop => true
  | .samplePeriodSet => true
  | .samplePeriodEnd => true
  | .debugRegisterAccess => true
  | .trapModeSet => true
  | .causalExperiment => true
  | .causalPeriodEnd => true
  | .translateFunction => true
  | .hostMemoryAccess => true
  | .hostRegisterWrite => true
  | .hostLinkLost => true
  | .hostAttach => true
  | .flitReceive => true
  | .laneSpare => true
  | .linkRetrain => true
  | .linkDown => true
  | .peerLost => true
  | .lostRequestCompletion => true
  | .poolRowRead => true
  | .poolRowAdd => true
  | .tableCreate => true
  | .tableGrant => true
  | .tablePublish => true
  | .rowMove => true
  | .rowHandover => true
  | .migrateRegion => true
  | .powerLoss => true
  | .standbyDieFailure => true
  | .leaseReferralAnswer => true
  | .linkRetrainDone => true

/-- An instruction that a word may stand for. -/
abbrev WellFormed (i : Instr) : Prop := wellFormed i = true

end Sys2Proof
end

