-- ==== Sys2Proof/Decode.lean ====
section
/-!
DEFINITION. Reading an instruction word (R50-R79) and, after it, writing one.

`decode` is total: any 32 bits give an instruction or a named reason why they are none. A word is read in two steps: its shape
(the major and every fixed field, R56-R78) names the constructor, then `wellFormed` makes the checks of R52, R55 and R79.
The stop bit [31] is read apart (`stopBit`): it changes nothing an instruction does (R50).
-/

namespace Sys2Proof

/-- Bits [lo + n - 1 : lo] of a word (R2). -/
def field {m : Nat} (w : BitVec m) (lo n : Nat) : BitVec n := BitVec.ofNat n (w.toNat / 2 ^ lo)

/-- R50: the stop bit of a word. -/
def stopBit (w : Word) : Bool := w.getLsbD 31

/-- Why a word is not an instruction. Each is ILLEGAL to the machine (R55, R57). -/
inductive DecodeError where
  /-- R55: bits [30:0] are all zero. -/
  | zeroWord
  /-- R57: an unassigned major or function code, or a fixed field that is not as the table has it. -/
  | unassigned
  /-- R52, R57, R79: a register, condition, stride, number or value field outside its range. -/
  | badField
  /-- Fewer than four bytes. -/
  | truncated
deriving DecidableEq, Repr

/-- Major 0x00, format V3 (R56). -/
def shape00 (d : BitVec 7) (a : BitVec 7) (b : BitVec 7) (f : BitVec 4) : Option Instr :=
  if f = 0#4 then some (.sadd d a b)
  else if f = 1#4 then some (.ssub d a b)
  else if f = 2#4 then some (.smul d a b)
  else if f = 3#4 then some (.smulh d a b)
  else if f = 4#4 then some (.smulhu d a b)
  else if f = 5#4 then some (.sand d a b)
  else if f = 6#4 then some (.sor d a b)
  else if f = 7#4 then some (.sxor d a b)
  else if f = 8#4 then some (.sshl d a b)
  else if f = 9#4 then some (.sshr d a b)
  else if f = 10#4 then some (.ssra d a b)
  else if f = 11#4 then some (.smin d a b)
  else if f = 12#4 then some (.smax d a b)
  else if f = 13#4 then some (.sminu d a b)
  else if f = 14#4 then some (.smaxu d a b)
  else none

/-- Major 0x01, format V3 (R56). -/
def shape01 (d : BitVec 7) (a : BitVec 7) (b : BitVec 7) (f : BitVec 4) : Option Instr :=
  if f = 0#4 then some (.sdiv d a b)
  else if f = 1#4 then some (.sdivu d a b)
  else if f = 2#4 then some (.srem d a b)
  else if f = 3#4 then some (.sremu d a b)
  else if b = 0#7 ∧ f = 4#4 then some (.spopc d a)
  else if b = 0#7 ∧ f = 5#4 then some (.sclz d a)
  else if f = 6#4 then some (.sshli d a b)
  else if f = 7#4 then some (.sshri d a b)
  else if f = 8#4 then some (.ssrai d a b)
  else if f = 9#4 then some (.ssetEq d a b)
  else if f = 10#4 then some (.ssetNe d a b)
  else if f = 11#4 then some (.ssetLt d a b)
  else if f = 12#4 then some (.ssetGe d a b)
  else if f = 13#4 then some (.ssetLtu d a b)
  else if f = 14#4 then some (.ssetGeu d a b)
  else none

/-- Major 0x02, format V2I (R56). -/
def shape02 (d : BitVec 7) (a : BitVec 7) (i : BitVec 11) : Option Instr :=
  some (.saddi d a i)

/-- Major 0x03, format V2I (R56). -/
def shape03 (d : BitVec 7) (a : BitVec 7) (i : BitVec 11) : Option Instr :=
  some (.sandi d a i)

/-- Major 0x04, format V2I (R56). -/
def shape04 (d : BitVec 7) (a : BitVec 7) (i : BitVec 11) : Option Instr :=
  some (.sori d a i)

/-- Major 0x05, format V2I (R56). -/
def shape05 (d : BitVec 7) (a : BitVec 7) (i : BitVec 11) : Option Instr :=
  some (.sxori d a i)

/-- Major 0x06, format SI (R56). -/
def shape06 (d : BitVec 7) (i : BitVec 18) : Option Instr :=
  some (.sli d i)

/-- Major 0x07, format SI (R56). -/
def shape07 (d : BitVec 7) (i : BitVec 18) : Option Instr :=
  some (.slih d i)

/-- Major 0x08, format V3 (R56). -/
def shape08 (d : BitVec 7) (a : BitVec 7) (b : BitVec 7) (f : BitVec 4) : Option Instr :=
  if a = 0#7 ∧ b = 0#7 ∧ f = 0#4 then some (.iwidenUS d)
  else if a = 0#7 ∧ b = 0#7 ∧ f = 1#4 then some (.iwidenLS d)
  else if a = 0#7 ∧ b = 0#7 ∧ f = 2#4 then some (.iwidenBS d)
  else if a = 0#7 ∧ b = 0#7 ∧ f = 4#4 then some (.iwidenUV d)
  else if a = 0#7 ∧ b = 0#7 ∧ f = 5#4 then some (.iwidenLV d)
  else if a = 0#7 ∧ b = 0#7 ∧ f = 6#4 then some (.iwidenBV d)
  else if f = 8#4 then some (.iclampS d a b)
  else if f = 9#4 then some (.iclampV d a b)
  else if b = 0#7 ∧ f = 10#4 then some (.ishqS d a)
  else if b = 0#7 ∧ f = 11#4 then some (.ishqV d a)
  else none

/-- Major 0x0C, format BC (R56). -/
def shape0C (a : BitVec 6) (b : BitVec 6) (c : BitVec 3) (o : BitVec 10) : Option Instr :=
  some (.bcc a b c o)

/-- Major 0x0D, format BCI (R56). -/
def shape0D (a : BitVec 6) (i : BitVec 6) (c : BitVec 3) (o : BitVec 10) : Option Instr :=
  some (.bcci a i c o)

/-- Major 0x0E, format J (R56). -/
def shape0E (o : BitVec 25) : Option Instr :=
  some (.jmp o)

/-- Major 0x0F, format J (R56). -/
def shape0F (o : BitVec 25) : Option Instr :=
  some (.call o)

/-- Major 0x10, format BP (R56). -/
def shape10 (p : BitVec 3) (t : BitVec 11) (j : BitVec 11) : Option Instr :=
  some (.brp p t j)

/-- Major 0x11, format BP (R56). -/
def shape11 (p : BitVec 3) (t : BitVec 11) (j : BitVec 11) : Option Instr :=
  if j = 0#11 then some (.bany p t)
  else if j = 1#11 then some (.ball p t)
  else none

/-- Major 0x12, format X (R56). -/
def shape12 (d : BitVec 7) (a : BitVec 7) (g : BitVec 11) : Option Instr :=
  if field d 6 1 = 0#1 ∧ a = 0#7 ∧ field g 9 2 = 0#2 then some (.rep (field d 0 6) (field g 6 3) (field g 3 3) (field g 0 3))
  else none

/-- Major 0x13, format X (R56). -/
def shape13 (d : BitVec 7) (a : BitVec 7) (g : BitVec 11) : Option Instr :=
  if d = 0#7 ∧ g = 0#11 then some (.jmpi a)
  else if d = 0#7 ∧ g = 1#11 then some (.calli a)
  else if d = 0#7 ∧ a = 0#7 ∧ g = 2#11 then some (.ret)
  else if d = 0#7 ∧ a = 0#7 ∧ g = 3#11 then some (.join)
  else if d = 0#7 ∧ a = 0#7 ∧ g = 4#11 then some (.tfence)
  else if d = 0#7 ∧ a = 0#7 ∧ g = 5#11 then some (.exit)
  else if d = 0#7 ∧ a = 0#7 ∧ g = 6#11 then some (.nop)
  else if g = 7#11 then some (.spawn d a)
  else if g = 8#11 then some (.spawnW d a)
  else if g = 9#11 then some (.launch d a)
  else none

/-- Major 0x14, format V3 (R56). -/
def shape14 (d : BitVec 7) (a : BitVec 7) (b : BitVec 7) (f : BitVec 4) : Option Instr :=
  if f = 0#4 then some (.vadd d a b)
  else if f = 1#4 then some (.vsub d a b)
  else if f = 2#4 then some (.vmul d a b)
  else if f = 3#4 then some (.vmulh d a b)
  else if f = 4#4 then some (.vand d a b)
  else if f = 5#4 then some (.vor d a b)
  else if f = 6#4 then some (.vxor d a b)
  else if f = 7#4 then some (.vandn d a b)
  else if f = 8#4 then some (.vshl d a b)
  else if f = 9#4 then some (.vshr d a b)
  else if f = 10#4 then some (.vsra d a b)
  else if f = 11#4 then some (.vmin d a b)
  else if f = 12#4 then some (.vmax d a b)
  else none

/-- Major 0x15, format V3 (R56). -/
def shape15 (d : BitVec 7) (a : BitVec 7) (b : BitVec 7) (f : BitVec 4) : Option Instr :=
  if f = 0#4 then some (.vmad d a b)
  else if b = 0#7 ∧ f = 1#4 then some (.vabs d a)
  else if b = 0#7 ∧ f = 2#4 then some (.vneg d a)
  else if b = 0#7 ∧ f = 3#4 then some (.vpopc d a)
  else if b = 0#7 ∧ f = 4#4 then some (.vclz d a)
  else if b = 0#7 ∧ f = 5#4 then some (.vbrev d a)
  else if b = 0#7 ∧ f = 6#4 then some (.vmov d a)
  else if a = 0#7 ∧ b = 0#7 ∧ f = 7#4 then some (.vlane d)
  else if b = 0#7 ∧ f = 8#4 then some (.vbcast d a)
  else if f = 9#4 then some (.vextr d a b)
  else if field b 4 3 = 0#3 ∧ f = 10#4 then some (.vcvt d a (field b 0 4))
  else none

/-- Major 0x16, format V3 (R56). -/
def shape16 (d : BitVec 7) (a : BitVec 7) (b : BitVec 7) (f : BitVec 4) : Option Instr :=
  if field f 3 1 = 0#1 then some (.vsel d a b (field f 0 3))
  else none

/-- Major 0x17, format V3 (R56). -/
def shape17 (d : BitVec 7) (a : BitVec 7) (b : BitVec 7) (f : BitVec 4) : Option Instr :=
  some (.vcmp d a b f)

/-- Major 0x18, format SI (R56). -/
def shape18 (d : BitVec 7) (i : BitVec 18) : Option Instr :=
  some (.vmovi d i)

/-- Major 0x19, format V2I (R56). -/
def shape19 (d : BitVec 7) (a : BitVec 7) (i : BitVec 11) : Option Instr :=
  some (.vaddi d a i)

/-- Major 0x1A, format V2I (R56). -/
def shape1A (d : BitVec 7) (a : BitVec 7) (i : BitVec 11) : Option Instr :=
  some (.vandi d a i)

/-- Major 0x1B, format V2I (R56). -/
def shape1B (d : BitVec 7) (a : BitVec 7) (i : BitVec 11) : Option Instr :=
  if field i 5 6 = 0#6 then some (.vshli d a (field i 0 5))
  else if field i 5 6 = 16#6 then some (.vshri d a (field i 0 5))
  else if field i 5 6 = 32#6 then some (.vsrai d a (field i 0 5))
  else none

/-- Major 0x20, format V3 (R56). -/
def shape20 (d : BitVec 7) (a : BitVec 7) (b : BitVec 7) (f : BitVec 4) : Option Instr :=
  if f = 0#4 then some (.vfadd d a b)
  else if f = 1#4 then some (.vfsub d a b)
  else if f = 2#4 then some (.vfmul d a b)
  else if f = 3#4 then some (.vfma d a b)
  else if f = 4#4 then some (.vfms d a b)
  else if f = 5#4 then some (.vfnma d a b)
  else if f = 6#4 then some (.vfnms d a b)
  else if f = 7#4 then some (.vfmin d a b)
  else if f = 8#4 then some (.vfmax d a b)
  else if f = 9#4 then some (.vfdiv d a b)
  else none

/-- Major 0x21, format V3 (R56). -/
def shape21 (d : BitVec 7) (a : BitVec 7) (b : BitVec 7) (f : BitVec 4) : Option Instr :=
  if b = 0#7 ∧ f = 0#4 then some (.vfabs d a)
  else if b = 0#7 ∧ f = 1#4 then some (.vfneg d a)
  else if b = 0#7 ∧ f = 2#4 then some (.vfrcp d a)
  else if b = 0#7 ∧ f = 3#4 then some (.vfrsq d a)
  else if b = 0#7 ∧ f = 4#4 then some (.vfsqrt d a)
  else if b = 0#7 ∧ f = 5#4 then some (.vfexp2 d a)
  else if b = 0#7 ∧ f = 6#4 then some (.vflog2 d a)
  else if b = 0#7 ∧ f = 7#4 then some (.vfsin d a)
  else if b = 0#7 ∧ f = 8#4 then some (.vfcos d a)
  else if b = 0#7 ∧ f = 9#4 then some (.vfrnd d a)
  else if b = 0#7 ∧ f = 10#4 then some (.vfclass d a)
  else none

/-- Major 0x22, format V3 (R56). -/
def shape22 (d : BitVec 7) (a : BitVec 7) (b : BitVec 7) (f : BitVec 4) : Option Instr :=
  some (.vfcmp d a b f)

/-- Major 0x28, format V3 (R56). -/
def shape28 (d : BitVec 7) (a : BitVec 7) (b : BitVec 7) (f : BitVec 4) : Option Instr :=
  if f = 0#4 then some (.pand d a b)
  else if f = 1#4 then some (.por d a b)
  else if f = 2#4 then some (.pxor d a b)
  else if b = 0#7 ∧ f = 3#4 then some (.pnot d a)
  else if f = 4#4 then some (.pandn d a b)
  else if b = 0#7 ∧ f = 5#4 then some (.pset d a)
  else if b = 0#7 ∧ f = 6#4 then some (.pget d a)
  else if b = 0#7 ∧ f = 7#4 then some (.ppopc d a)
  else if b = 0#7 ∧ f = 8#4 then some (.pfirst d a)
  else none

/-- Major 0x29, format V3 (R56). -/
def shape29 (d : BitVec 7) (a : BitVec 7) (b : BitVec 7) (f : BitVec 4) : Option Instr :=
  if f = 0#4 then some (.vshfl d a b)
  else if f = 1#4 then some (.vshflx d a b)
  else if f = 2#4 then some (.vrot d a b)
  else if b = 0#7 ∧ f = 3#4 then some (.vredadd d a)
  else if b = 0#7 ∧ f = 4#4 then some (.vredmin d a)
  else if b = 0#7 ∧ f = 5#4 then some (.vredmax d a)
  else if b = 0#7 ∧ f = 6#4 then some (.vscan d a)
  else none

/-- Major 0x2C, format M (R56). -/
def shape2C (d : BitVec 7) (k : BitVec 4) (x : BitVec 7) (m : BitVec 7) : Option Instr :=
  some (.lda d k x m)

/-- Major 0x2D, format M (R56). -/
def shape2D (d : BitVec 7) (k : BitVec 4) (x : BitVec 7) (m : BitVec 7) : Option Instr :=
  some (.sta d k x m)

/-- Major 0x2E, format M (R56). -/
def shape2E (d : BitVec 7) (k : BitVec 4) (x : BitVec 7) (m : BitVec 7) : Option Instr :=
  some (.ldb d k x m)

/-- Major 0x2F, format M (R56). -/
def shape2F (d : BitVec 7) (k : BitVec 4) (x : BitVec 7) (m : BitVec 7) : Option Instr :=
  some (.stb d k x m)

/-- Major 0x30, format M (R56). -/
def shape30 (d : BitVec 7) (k : BitVec 4) (x : BitVec 7) (m : BitVec 7) : Option Instr :=
  some (.slda d k x m)

/-- Major 0x31, format M (R56). -/
def shape31 (d : BitVec 7) (k : BitVec 4) (x : BitVec 7) (m : BitVec 7) : Option Instr :=
  some (.ssta d k x m)

/-- Major 0x32, format M (R56). -/
def shape32 (d : BitVec 7) (k : BitVec 4) (x : BitVec 7) (m : BitVec 7) : Option Instr :=
  if k = 0#4 then some (.lds d x m)
  else if k = 1#4 then some (.sts d x m)
  else if k = 2#4 then some (.slds d x m)
  else if k = 3#4 then some (.ssts d x m)
  else none

/-- Major 0x33, format X (R56). -/
def shape33 (d : BitVec 7) (a : BitVec 7) (g : BitVec 11) : Option Instr :=
  if g = 0#11 then some (.vspill d a)
  else if g = 1#11 then some (.vfill d a)
  else if g = 2#11 then some (.sspill d a)
  else if g = 3#11 then some (.sfill d a)
  else if field d 4 3 = 0#3 ∧ g = 16#11 then some (.abind (field d 0 4) a)
  else if field d 4 3 = 0#3 ∧ g = 17#11 then some (.abinds (field d 0 4) a)
  else if g = 18#11 then some (.aqry d (field a 3 4) (field a 0 3))
  else none

/-- Major 0x34, format M (R56). -/
def shape34 (d : BitVec 7) (k : BitVec 4) (x : BitVec 7) (m : BitVec 7) : Option Instr :=
  if field m 3 4 = 0#4 ∧ field m 0 1 = 0#1 then some (.aaddVg d k x (field m 1 2))
  else if field m 3 4 = 1#4 ∧ field m 0 1 = 0#1 then some (.aaddfVg d k x (field m 1 2))
  else if field m 3 4 = 2#4 ∧ field m 0 1 = 0#1 then some (.aminVg d k x (field m 1 2))
  else if field m 3 4 = 3#4 ∧ field m 0 1 = 0#1 then some (.amaxVg d k x (field m 1 2))
  else if field m 3 4 = 4#4 ∧ field m 0 1 = 0#1 then some (.aminuVg d k x (field m 1 2))
  else if field m 3 4 = 5#4 ∧ field m 0 1 = 0#1 then some (.amaxuVg d k x (field m 1 2))
  else if field m 3 4 = 6#4 ∧ field m 0 1 = 0#1 then some (.aandVg d k x (field m 1 2))
  else if field m 3 4 = 7#4 ∧ field m 0 1 = 0#1 then some (.aorVg d k x (field m 1 2))
  else if field m 3 4 = 8#4 ∧ field m 0 1 = 0#1 then some (.axorVg d k x (field m 1 2))
  else if field m 3 4 = 9#4 ∧ field m 0 1 = 0#1 then some (.axchVg d k x (field m 1 2))
  else if field m 3 4 = 10#4 ∧ field m 0 1 = 0#1 then some (.acasVg d k x (field m 1 2))
  else if field m 3 4 = 11#4 ∧ field m 0 1 = 0#1 then some (.aappVg d k x (field m 1 2))
  else none

/-- Major 0x35, format M (R56). -/
def shape35 (d : BitVec 7) (k : BitVec 4) (x : BitVec 7) (m : BitVec 7) : Option Instr :=
  if field m 3 4 = 0#4 ∧ field m 0 1 = 0#1 then some (.aaddSg d k x (field m 1 2))
  else if field m 3 4 = 1#4 ∧ field m 0 1 = 0#1 then some (.aaddfSg d k x (field m 1 2))
  else if field m 3 4 = 2#4 ∧ field m 0 1 = 0#1 then some (.aminSg d k x (field m 1 2))
  else if field m 3 4 = 3#4 ∧ field m 0 1 = 0#1 then some (.amaxSg d k x (field m 1 2))
  else if field m 3 4 = 4#4 ∧ field m 0 1 = 0#1 then some (.aminuSg d k x (field m 1 2))
  else if field m 3 4 = 5#4 ∧ field m 0 1 = 0#1 then some (.amaxuSg d k x (field m 1 2))
  else if field m 3 4 = 6#4 ∧ field m 0 1 = 0#1 then some (.aandSg d k x (field m 1 2))
  else if field m 3 4 = 7#4 ∧ field m 0 1 = 0#1 then some (.aorSg d k x (field m 1 2))
  else if field m 3 4 = 8#4 ∧ field m 0 1 = 0#1 then some (.axorSg d k x (field m 1 2))
  else if field m 3 4 = 9#4 ∧ field m 0 1 = 0#1 then some (.axchSg d k x (field m 1 2))
  else if field m 3 4 = 10#4 ∧ field m 0 1 = 0#1 then some (.acasSg d k x (field m 1 2))
  else none

/-- Major 0x36, format M (R56). -/
def shape36 (d : BitVec 7) (k : BitVec 4) (x : BitVec 7) (m : BitVec 7) : Option Instr :=
  if k = 0#4 ∧ field m 3 4 = 0#4 ∧ field m 0 1 = 0#1 then some (.aaddVs d x (field m 1 2))
  else if k = 0#4 ∧ field m 3 4 = 1#4 ∧ field m 0 1 = 0#1 then some (.aaddfVs d x (field m 1 2))
  else if k = 0#4 ∧ field m 3 4 = 2#4 ∧ field m 0 1 = 0#1 then some (.aminVs d x (field m 1 2))
  else if k = 0#4 ∧ field m 3 4 = 3#4 ∧ field m 0 1 = 0#1 then some (.amaxVs d x (field m 1 2))
  else if k = 0#4 ∧ field m 3 4 = 4#4 ∧ field m 0 1 = 0#1 then some (.aminuVs d x (field m 1 2))
  else if k = 0#4 ∧ field m 3 4 = 5#4 ∧ field m 0 1 = 0#1 then some (.amaxuVs d x (field m 1 2))
  else if k = 0#4 ∧ field m 3 4 = 6#4 ∧ field m 0 1 = 0#1 then some (.aandVs d x (field m 1 2))
  else if k = 0#4 ∧ field m 3 4 = 7#4 ∧ field m 0 1 = 0#1 then some (.aorVs d x (field m 1 2))
  else if k = 0#4 ∧ field m 3 4 = 8#4 ∧ field m 0 1 = 0#1 then some (.axorVs d x (field m 1 2))
  else if k = 0#4 ∧ field m 3 4 = 9#4 ∧ field m 0 1 = 0#1 then some (.axchVs d x (field m 1 2))
  else if k = 0#4 ∧ field m 3 4 = 10#4 ∧ field m 0 1 = 0#1 then some (.acasVs d x (field m 1 2))
  else if k = 0#4 ∧ field m 3 4 = 11#4 ∧ field m 0 1 = 0#1 then some (.aappVs d x (field m 1 2))
  else if k = 8#4 ∧ field m 3 4 = 0#4 ∧ field m 0 1 = 0#1 then some (.aaddSs d x (field m 1 2))
  else if k = 8#4 ∧ field m 3 4 = 1#4 ∧ field m 0 1 = 0#1 then some (.aaddfSs d x (field m 1 2))
  else if k = 8#4 ∧ field m 3 4 = 2#4 ∧ field m 0 1 = 0#1 then some (.aminSs d x (field m 1 2))
  else if k = 8#4 ∧ field m 3 4 = 3#4 ∧ field m 0 1 = 0#1 then some (.amaxSs d x (field m 1 2))
  else if k = 8#4 ∧ field m 3 4 = 4#4 ∧ field m 0 1 = 0#1 then some (.aminuSs d x (field m 1 2))
  else if k = 8#4 ∧ field m 3 4 = 5#4 ∧ field m 0 1 = 0#1 then some (.amaxuSs d x (field m 1 2))
  else if k = 8#4 ∧ field m 3 4 = 6#4 ∧ field m 0 1 = 0#1 then some (.aandSs d x (field m 1 2))
  else if k = 8#4 ∧ field m 3 4 = 7#4 ∧ field m 0 1 = 0#1 then some (.aorSs d x (field m 1 2))
  else if k = 8#4 ∧ field m 3 4 = 8#4 ∧ field m 0 1 = 0#1 then some (.axorSs d x (field m 1 2))
  else if k = 8#4 ∧ field m 3 4 = 9#4 ∧ field m 0 1 = 0#1 then some (.axchSs d x (field m 1 2))
  else if k = 8#4 ∧ field m 3 4 = 10#4 ∧ field m 0 1 = 0#1 then some (.acasSs d x (field m 1 2))
  else none

/-- Major 0x37, format X (R56). -/
def shape37 (d : BitVec 7) (a : BitVec 7) (g : BitVec 11) : Option Instr :=
  if d = 0#7 ∧ a = 0#7 ∧ g = 0#11 then some (.facq)
  else if d = 0#7 ∧ a = 0#7 ∧ g = 1#11 then some (.frel)
  else if d = 0#7 ∧ a = 0#7 ∧ g = 2#11 then some (.ffull)
  else if g = 3#11 then some (.dwb d a)
  else if g = 4#11 then some (.iinv d a)
  else if d = 0#7 ∧ a = 0#7 ∧ g = 5#11 then some (.fetchb)
  else none

/-- Major 0x38, format X (R56). -/
def shape38 (d : BitVec 7) (a : BitVec 7) (g : BitVec 11) : Option Instr :=
  if field d 4 3 = 0#3 ∧ g = 0#11 then some (.acopyIn (field d 0 4) a)
  else if field d 4 3 = 0#3 ∧ g = 1#11 then some (.acopyOut (field d 0 4) a)
  else if field d 4 3 = 0#3 ∧ g = 2#11 then some (.agather (field d 0 4) a)
  else if field d 4 3 = 0#3 ∧ g = 3#11 then some (.ascadd (field d 0 4) a)
  else if field d 2 5 = 0#5 ∧ g = 4#11 then some (.qstream (field d 0 2) a)
  else none

/-- Major 0x39, format X (R56). -/
def shape39 (d : BitVec 7) (a : BitVec 7) (g : BitVec 11) : Option Instr :=
  if field a 2 5 = 0#5 ∧ g = 0#11 then some (.qpop d (field a 0 2))
  else if field a 2 5 = 0#5 ∧ g = 1#11 then some (.qstat d (field a 0 2))
  else if a = 0#7 ∧ g = 2#11 then some (.cseal d)
  else if d = 0#7 ∧ g = 3#11 then some (.cwait a)
  else if g = 4#11 then some (.armw d a)
  else if g = 5#11 then some (.waitg d a)
  else if g = 6#11 then some (.waitw d a)
  else if g = 7#11 then some (.waitwG d a)
  else none

/-- Major 0x3A, format X (R56). -/
def shape3A (d : BitVec 7) (a : BitVec 7) (g : BitVec 11) : Option Instr :=
  if field a 4 3 = 0#3 ∧ g = 0#11 then some (.bar d (field a 0 4))
  else if d = 0#7 ∧ field a 4 3 = 0#3 ∧ g = 1#11 then some (.bara (field a 0 4))
  else if field a 4 3 = 0#3 ∧ g = 2#11 then some (.gbar d (field a 0 4))
  else none

/-- Major 0x3C, format V3 (R56). -/
def shape3C (d : BitVec 7) (a : BitVec 7) (b : BitVec 7) (f : BitVec 4) : Option Instr :=
  if field d 2 5 = 0#5 ∧ field a 1 6 = 0#6 ∧ field b 1 6 = 0#6 ∧ f = 0#4 then some (.mop (field d 0 2) (field a 0 1) (field b 0 1))
  else if field d 2 5 = 0#5 ∧ field a 1 6 = 0#6 ∧ field b 1 6 = 0#6 ∧ f = 1#4 then some (.mopn (field d 0 2) (field a 0 1) (field b 0 1))
  else if field d 2 5 = 0#5 ∧ a = 0#7 ∧ b = 0#7 ∧ f = 2#4 then some (.tzero (field d 0 2))
  else if field d 2 5 = 0#5 ∧ a = 0#7 ∧ b = 0#7 ∧ f = 3#4 then some (.mchk (field d 0 2))
  else if field d 2 5 = 0#5 ∧ b = 0#7 ∧ f = 4#4 then some (.fmov (field d 0 2) a)
  else if field d 4 3 = 0#3 ∧ a = 0#7 ∧ b = 0#7 ∧ f = 5#4 then some (.mxon (field d 0 4))
  else if d = 0#7 ∧ a = 0#7 ∧ b = 0#7 ∧ f = 6#4 then some (.mxoff)
  else if field a 2 5 = 0#5 ∧ b = 0#7 ∧ f = 7#4 then some (.tcvt d (field a 0 2))
  else none

/-- Major 0x3D, format TS (R56). -/
def shape3D (v : BitVec 7) (t : BitVec 2) (r : BitVec 1) (x : BitVec 6) (m : BitVec 9) : Option Instr :=
  if field m 5 4 = 0#4 then some (.tsld v t r x (field m 0 5))
  else if field m 5 4 = 8#4 then some (.tsst v t r x (field m 0 5))
  else none

/-- Major 0x3E, format M (R56). -/
def shape3E (d : BitVec 7) (k : BitVec 4) (x : BitVec 7) (m : BitVec 7) : Option Instr :=
  if field d 2 5 = 0#5 then some (.fld (field d 0 2) k x m)
  else if field d 2 5 = 4#5 ∧ k = 0#4 then some (.flds (field d 0 2) x m)
  else if field d 2 5 = 8#5 then some (.tld (field d 0 2) k x m)
  else if field d 2 5 = 12#5 then some (.tst (field d 0 2) k x m)
  else if field d 2 5 = 16#5 then some (.tstA (field d 0 2) k x m)
  else if field d 2 5 = 20#5 ∧ field m 6 1 = 0#1 then some (.tldv (field d 0 2) k x (field m 0 6))
  else none

/-- Major 0x3F, format X (R56). -/
def shape3F (d : BitVec 7) (a : BitVec 7) (g : BitVec 11) : Option Instr :=
  if d = 0#7 ∧ g = 0#11 then some (.mset a)
  else if field g 4 7 = 4#7 then some (.mseti d a (field g 0 4))
  else if a = 0#7 ∧ g = 128#11 then some (.mget d)
  else if g = 192#11 then some (.srd d a)
  else if g = 256#11 then some (.swr d a)
  else if a = 0#7 ∧ g = 320#11 then some (.flgr d)
  else if d = 0#7 ∧ g = 384#11 then some (.flgc a)
  else if d = 0#7 ∧ g = 448#11 then some (.xseed a)
  else if d = 0#7 ∧ a = 0#7 ∧ field g 6 5 = 8#5 then some (.trap (field g 0 6))
  else if d = 0#7 ∧ a = 0#7 ∧ g = 576#11 then some (.tretR)
  else if d = 0#7 ∧ a = 0#7 ∧ g = 577#11 then some (.tretS)
  else if d = 0#7 ∧ a = 0#7 ∧ g = 578#11 then some (.tretX)
  else if d = 0#7 ∧ a = 0#7 ∧ g = 640#11 then some (.bkpt)
  else if d = 0#7 ∧ a = 0#7 ∧ field g 3 8 = 88#8 then some (.pmark (field g 0 3))
  else none

/-- The constructor and operands a word's major and fixed fields give it (R56-R78). -/
def decodeShape (w : Word) : Option Instr :=
  match (field w 25 6).toNat with
  | 0x00 => shape00 (field w 18 7) (field w 11 7) (field w 4 7) (field w 0 4)
  | 0x01 => shape01 (field w 18 7) (field w 11 7) (field w 4 7) (field w 0 4)
  | 0x02 => shape02 (field w 18 7) (field w 11 7) (field w 0 11)
  | 0x03 => shape03 (field w 18 7) (field w 11 7) (field w 0 11)
  | 0x04 => shape04 (field w 18 7) (field w 11 7) (field w 0 11)
  | 0x05 => shape05 (field w 18 7) (field w 11 7) (field w 0 11)
  | 0x06 => shape06 (field w 18 7) (field w 0 18)
  | 0x07 => shape07 (field w 18 7) (field w 0 18)
  | 0x08 => shape08 (field w 18 7) (field w 11 7) (field w 4 7) (field w 0 4)
  | 0x0C => shape0C (field w 19 6) (field w 13 6) (field w 10 3) (field w 0 10)
  | 0x0D => shape0D (field w 19 6) (field w 13 6) (field w 10 3) (field w 0 10)
  | 0x0E => shape0E (field w 0 25)
  | 0x0F => shape0F (field w 0 25)
  | 0x10 => shape10 (field w 22 3) (field w 11 11) (field w 0 11)
  | 0x11 => shape11 (field w 22 3) (field w 11 11) (field w 0 11)
  | 0x12 => shape12 (field w 18 7) (field w 11 7) (field w 0 11)
  | 0x13 => shape13 (field w 18 7) (field w 11 7) (field w 0 11)
  | 0x14 => shape14 (field w 18 7) (field w 11 7) (field w 4 7) (field w 0 4)
  | 0x15 => shape15 (field w 18 7) (field w 11 7) (field w 4 7) (field w 0 4)
  | 0x16 => shape16 (field w 18 7) (field w 11 7) (field w 4 7) (field w 0 4)
  | 0x17 => shape17 (field w 18 7) (field w 11 7) (field w 4 7) (field w 0 4)
  | 0x18 => shape18 (field w 18 7) (field w 0 18)
  | 0x19 => shape19 (field w 18 7) (field w 11 7) (field w 0 11)
  | 0x1A => shape1A (field w 18 7) (field w 11 7) (field w 0 11)
  | 0x1B => shape1B (field w 18 7) (field w 11 7) (field w 0 11)
  | 0x20 => shape20 (field w 18 7) (field w 11 7) (field w 4 7) (field w 0 4)
  | 0x21 => shape21 (field w 18 7) (field w 11 7) (field w 4 7) (field w 0 4)
  | 0x22 => shape22 (field w 18 7) (field w 11 7) (field w 4 7) (field w 0 4)
  | 0x28 => shape28 (field w 18 7) (field w 11 7) (field w 4 7) (field w 0 4)
  | 0x29 => shape29 (field w 18 7) (field w 11 7) (field w 4 7) (field w 0 4)
  | 0x2C => shape2C (field w 18 7) (field w 14 4) (field w 7 7) (field w 0 7)
  | 0x2D => shape2D (field w 18 7) (field w 14 4) (field w 7 7) (field w 0 7)
  | 0x2E => shape2E (field w 18 7) (field w 14 4) (field w 7 7) (field w 0 7)
  | 0x2F => shape2F (field w 18 7) (field w 14 4) (field w 7 7) (field w 0 7)
  | 0x30 => shape30 (field w 18 7) (field w 14 4) (field w 7 7) (field w 0 7)
  | 0x31 => shape31 (field w 18 7) (field w 14 4) (field w 7 7) (field w 0 7)
  | 0x32 => shape32 (field w 18 7) (field w 14 4) (field w 7 7) (field w 0 7)
  | 0x33 => shape33 (field w 18 7) (field w 11 7) (field w 0 11)
  | 0x34 => shape34 (field w 18 7) (field w 14 4) (field w 7 7) (field w 0 7)
  | 0x35 => shape35 (field w 18 7) (field w 14 4) (field w 7 7) (field w 0 7)
  | 0x36 => shape36 (field w 18 7) (field w 14 4) (field w 7 7) (field w 0 7)
  | 0x37 => shape37 (field w 18 7) (field w 11 7) (field w 0 11)
  | 0x38 => shape38 (field w 18 7) (field w 11 7) (field w 0 11)
  | 0x39 => shape39 (field w 18 7) (field w 11 7) (field w 0 11)
  | 0x3A => shape3A (field w 18 7) (field w 11 7) (field w 0 11)
  | 0x3C => shape3C (field w 18 7) (field w 11 7) (field w 4 7) (field w 0 4)
  | 0x3D => shape3D (field w 18 7) (field w 16 2) (field w 15 1) (field w 9 6) (field w 0 9)
  | 0x3E => shape3E (field w 18 7) (field w 14 4) (field w 7 7) (field w 0 7)
  | 0x3F => shape3F (field w 18 7) (field w 11 7) (field w 0 11)
  | _ => none

/-- R52-R79: the instruction that a word is, or the reason it is none. -/
def decode (w : Word) : Except DecodeError Instr :=
  if field w 0 31 = 0#31 then .error .zeroWord
  else
    match decodeShape w with
    | none => .error .unassigned
    | some i => if wellFormed i then .ok i else .error .badField

/-- R2, R50: the little-endian word that four bytes hold. -/
def wordOfBytes (b0 b1 b2 b3 : Byte) : Word :=
  BitVec.ofNat 32 (b0.toNat + b1.toNat * 2 ^ 8 + b2.toNat * 2 ^ 16 + b3.toNat * 2 ^ 24)

/-- The instruction at the start of a list of bytes, lowest address first, with the bytes after it. -/
def decodeBytes : List Byte → Except DecodeError (Instr × List Byte)
  | b0 :: b1 :: b2 :: b3 :: rest => (decode (wordOfBytes b0 b1 b2 b3)).map (·, rest)
  | _ => .error .truncated

/-- Byte `k` of the number `w`, least significant first. -/
def byteOfNat (w k : Nat) : Byte := BitVec.ofNat 8 (w / 2 ^ (8 * k))

/-- The instruction the decoder reads from an instruction whose bits are `w`, numbered as the opcode table numbers them. Every
instruction is one 32-bit word (R50): bits at and above `nbits` are zero. -/
def decodeTableWord (nbits w : Nat) : Option Instr :=
  let v := w % 2 ^ nbits
  match decodeBytes [byteOfNat v 0, byteOfNat v 1, byteOfNat v 2, byteOfNat v 3] with
  | .ok (i, _) => some i
  | .error _ => none

/-! ## The encoder -/

/-- R51: a word of format V3, stop bit clear. -/
def encV3 (maj : Nat) (d : BitVec 7) (a : BitVec 7) (b : BitVec 7) (f : BitVec 4) : Word :=
  BitVec.ofNat 32 (maj * 2 ^ 25 + d.toNat * 2 ^ 18 + a.toNat * 2 ^ 11 + b.toNat * 2 ^ 4 + f.toNat)

/-- R51: a word of format V2I, stop bit clear. -/
def encV2I (maj : Nat) (d : BitVec 7) (a : BitVec 7) (i : BitVec 11) : Word :=
  BitVec.ofNat 32 (maj * 2 ^ 25 + d.toNat * 2 ^ 18 + a.toNat * 2 ^ 11 + i.toNat)

/-- R51: a word of format SI, stop bit clear. -/
def encSI (maj : Nat) (d : BitVec 7) (i : BitVec 18) : Word :=
  BitVec.ofNat 32 (maj * 2 ^ 25 + d.toNat * 2 ^ 18 + i.toNat)

/-- R51: a word of format BC, stop bit clear. -/
def encBC (maj : Nat) (a : BitVec 6) (b : BitVec 6) (c : BitVec 3) (o : BitVec 10) : Word :=
  BitVec.ofNat 32 (maj * 2 ^ 25 + a.toNat * 2 ^ 19 + b.toNat * 2 ^ 13 + c.toNat * 2 ^ 10 + o.toNat)

/-- R51: a word of format BCI, stop bit clear. -/
def encBCI (maj : Nat) (a : BitVec 6) (i : BitVec 6) (c : BitVec 3) (o : BitVec 10) : Word :=
  BitVec.ofNat 32 (maj * 2 ^ 25 + a.toNat * 2 ^ 19 + i.toNat * 2 ^ 13 + c.toNat * 2 ^ 10 + o.toNat)

/-- R51: a word of format J, stop bit clear. -/
def encJ (maj : Nat) (o : BitVec 25) : Word :=
  BitVec.ofNat 32 (maj * 2 ^ 25 + o.toNat)

/-- R51: a word of format BP, stop bit clear. -/
def encBP (maj : Nat) (p : BitVec 3) (t : BitVec 11) (j : BitVec 11) : Word :=
  BitVec.ofNat 32 (maj * 2 ^ 25 + p.toNat * 2 ^ 22 + t.toNat * 2 ^ 11 + j.toNat)

/-- R51: a word of format M, stop bit clear. -/
def encM (maj : Nat) (d : BitVec 7) (k : BitVec 4) (x : BitVec 7) (m : BitVec 7) : Word :=
  BitVec.ofNat 32 (maj * 2 ^ 25 + d.toNat * 2 ^ 18 + k.toNat * 2 ^ 14 + x.toNat * 2 ^ 7 + m.toNat)

/-- R51: a word of format TS, stop bit clear. -/
def encTS (maj : Nat) (v : BitVec 7) (t : BitVec 2) (r : BitVec 1) (x : BitVec 6) (m : BitVec 9) : Word :=
  BitVec.ofNat 32 (maj * 2 ^ 25 + v.toNat * 2 ^ 18 + t.toNat * 2 ^ 16 + r.toNat * 2 ^ 15 + x.toNat * 2 ^ 9 + m.toNat)

/-- R51: a word of format X, stop bit clear. -/
def encX (maj : Nat) (d : BitVec 7) (a : BitVec 7) (g : BitVec 11) : Word :=
  BitVec.ofNat 32 (maj * 2 ^ 25 + d.toNat * 2 ^ 18 + a.toNat * 2 ^ 11 + g.toNat)

/-- The word of an instruction, stop bit clear (R50-R79); none for a step without a word. -/
def encode : Instr → Option Word
  | .sadd d a b => some (encV3 0x00 d a b 0#4)
  | .ssub d a b => some (encV3 0x00 d a b 1#4)
  | .smul d a b => some (encV3 0x00 d a b 2#4)
  | .smulh d a b => some (encV3 0x00 d a b 3#4)
  | .smulhu d a b => some (encV3 0x00 d a b 4#4)
  | .sand d a b => some (encV3 0x00 d a b 5#4)
  | .sor d a b => some (encV3 0x00 d a b 6#4)
  | .sxor d a b => some (encV3 0x00 d a b 7#4)
  | .sshl d a b => some (encV3 0x00 d a b 8#4)
  | .sshr d a b => some (encV3 0x00 d a b 9#4)
  | .ssra d a b => some (encV3 0x00 d a b 10#4)
  | .smin d a b => some (encV3 0x00 d a b 11#4)
  | .smax d a b => some (encV3 0x00 d a b 12#4)
  | .sminu d a b => some (encV3 0x00 d a b 13#4)
  | .smaxu d a b => some (encV3 0x00 d a b 14#4)
  | .sdiv d a b => some (encV3 0x01 d a b 0#4)
  | .sdivu d a b => some (encV3 0x01 d a b 1#4)
  | .srem d a b => some (encV3 0x01 d a b 2#4)
  | .sremu d a b => some (encV3 0x01 d a b 3#4)
  | .spopc d a => some (encV3 0x01 d a 0#7 4#4)
  | .sclz d a => some (encV3 0x01 d a 0#7 5#4)
  | .sshli d a n => some (encV3 0x01 d a n 6#4)
  | .sshri d a n => some (encV3 0x01 d a n 7#4)
  | .ssrai d a n => some (encV3 0x01 d a n 8#4)
  | .ssetEq d a b => some (encV3 0x01 d a b 9#4)
  | .ssetNe d a b => some (encV3 0x01 d a b 10#4)
  | .ssetLt d a b => some (encV3 0x01 d a b 11#4)
  | .ssetGe d a b => some (encV3 0x01 d a b 12#4)
  | .ssetLtu d a b => some (encV3 0x01 d a b 13#4)
  | .ssetGeu d a b => some (encV3 0x01 d a b 14#4)
  | .saddi d a i => some (encV2I 0x02 d a i)
  | .sandi d a i => some (encV2I 0x03 d a i)
  | .sori d a i => some (encV2I 0x04 d a i)
  | .sxori d a i => some (encV2I 0x05 d a i)
  | .sli d i => some (encSI 0x06 d i)
  | .slih d i => some (encSI 0x07 d i)
  | .iwidenUS d => some (encV3 0x08 d 0#7 0#7 0#4)
  | .iwidenLS d => some (encV3 0x08 d 0#7 0#7 1#4)
  | .iwidenBS d => some (encV3 0x08 d 0#7 0#7 2#4)
  | .iwidenUV d => some (encV3 0x08 d 0#7 0#7 4#4)
  | .iwidenLV d => some (encV3 0x08 d 0#7 0#7 5#4)
  | .iwidenBV d => some (encV3 0x08 d 0#7 0#7 6#4)
  | .iclampS d a b => some (encV3 0x08 d a b 8#4)
  | .iclampV d a b => some (encV3 0x08 d a b 9#4)
  | .ishqS d a => some (encV3 0x08 d a 0#7 10#4)
  | .ishqV d a => some (encV3 0x08 d a 0#7 11#4)
  | .bcc a b c o => some (encBC 0x0C a b c o)
  | .bcci a i c o => some (encBCI 0x0D a i c o)
  | .jmp o => some (encJ 0x0E o)
  | .call o => some (encJ 0x0F o)
  | .brp p t j => some (encBP 0x10 p t j)
  | .bany p o => some (encBP 0x11 p o 0#11)
  | .ball p o => some (encBP 0x11 p o 1#11)
  | .rep c x y z => some (encX 0x12 (BitVec.ofNat 7 (c.toNat)) 0#7 (BitVec.ofNat 11 (x.toNat * 64 + y.toNat * 8 + z.toNat)))
  | .jmpi a => some (encX 0x13 0#7 a 0#11)
  | .calli a => some (encX 0x13 0#7 a 1#11)
  | .spawn d a => some (encX 0x13 d a 7#11)
  | .spawnW d a => some (encX 0x13 d a 8#11)
  | .launch d a => some (encX 0x13 d a 9#11)
  | .vadd d a b => some (encV3 0x14 d a b 0#4)
  | .vsub d a b => some (encV3 0x14 d a b 1#4)
  | .vmul d a b => some (encV3 0x14 d a b 2#4)
  | .vmulh d a b => some (encV3 0x14 d a b 3#4)
  | .vand d a b => some (encV3 0x14 d a b 4#4)
  | .vor d a b => some (encV3 0x14 d a b 5#4)
  | .vxor d a b => some (encV3 0x14 d a b 6#4)
  | .vandn d a b => some (encV3 0x14 d a b 7#4)
  | .vshl d a b => some (encV3 0x14 d a b 8#4)
  | .vshr d a b => some (encV3 0x14 d a b 9#4)
  | .vsra d a b => some (encV3 0x14 d a b 10#4)
  | .vmin d a b => some (encV3 0x14 d a b 11#4)
  | .vmax d a b => some (encV3 0x14 d a b 12#4)
  | .vmad d a b => some (encV3 0x15 d a b 0#4)
  | .vabs d a => some (encV3 0x15 d a 0#7 1#4)
  | .vneg d a => some (encV3 0x15 d a 0#7 2#4)
  | .vpopc d a => some (encV3 0x15 d a 0#7 3#4)
  | .vclz d a => some (encV3 0x15 d a 0#7 4#4)
  | .vbrev d a => some (encV3 0x15 d a 0#7 5#4)
  | .vmov d a => some (encV3 0x15 d a 0#7 6#4)
  | .vlane d => some (encV3 0x15 d 0#7 0#7 7#4)
  | .vbcast d a => some (encV3 0x15 d a 0#7 8#4)
  | .vextr d a b => some (encV3 0x15 d a b 9#4)
  | .vcvt d a t => some (encV3 0x15 d a (BitVec.ofNat 7 (t.toNat)) 10#4)
  | .vsel d a b p => some (encV3 0x16 d a b (BitVec.ofNat 4 (p.toNat)))
  | .vcmp d a b c => some (encV3 0x17 d a b c)
  | .vmovi d i => some (encSI 0x18 d i)
  | .vaddi d a i => some (encV2I 0x19 d a i)
  | .vandi d a i => some (encV2I 0x1A d a i)
  | .vshli d a n => some (encV2I 0x1B d a (BitVec.ofNat 11 (n.toNat)))
  | .vshri d a n => some (encV2I 0x1B d a (BitVec.ofNat 11 (512 + n.toNat)))
  | .vsrai d a n => some (encV2I 0x1B d a (BitVec.ofNat 11 (1024 + n.toNat)))
  | .vfadd d a b => some (encV3 0x20 d a b 0#4)
  | .vfsub d a b => some (encV3 0x20 d a b 1#4)
  | .vfmul d a b => some (encV3 0x20 d a b 2#4)
  | .vfma d a b => some (encV3 0x20 d a b 3#4)
  | .vfms d a b => some (encV3 0x20 d a b 4#4)
  | .vfnma d a b => some (encV3 0x20 d a b 5#4)
  | .vfnms d a b => some (encV3 0x20 d a b 6#4)
  | .vfmin d a b => some (encV3 0x20 d a b 7#4)
  | .vfmax d a b => some (encV3 0x20 d a b 8#4)
  | .vfdiv d a b => some (encV3 0x20 d a b 9#4)
  | .vfabs d a => some (encV3 0x21 d a 0#7 0#4)
  | .vfneg d a => some (encV3 0x21 d a 0#7 1#4)
  | .vfrcp d a => some (encV3 0x21 d a 0#7 2#4)
  | .vfrsq d a => some (encV3 0x21 d a 0#7 3#4)
  | .vfsqrt d a => some (encV3 0x21 d a 0#7 4#4)
  | .vfexp2 d a => some (encV3 0x21 d a 0#7 5#4)
  | .vflog2 d a => some (encV3 0x21 d a 0#7 6#4)
  | .vfsin d a => some (encV3 0x21 d a 0#7 7#4)
  | .vfcos d a => some (encV3 0x21 d a 0#7 8#4)
  | .vfrnd d a => some (encV3 0x21 d a 0#7 9#4)
  | .vfclass d a => some (encV3 0x21 d a 0#7 10#4)
  | .vfcmp d a b c => some (encV3 0x22 d a b c)
  | .pand d a b => some (encV3 0x28 d a b 0#4)
  | .por d a b => some (encV3 0x28 d a b 1#4)
  | .pxor d a b => some (encV3 0x28 d a b 2#4)
  | .pnot d a => some (encV3 0x28 d a 0#7 3#4)
  | .pandn d a b => some (encV3 0x28 d a b 4#4)
  | .pset d a => some (encV3 0x28 d a 0#7 5#4)
  | .pget d a => some (encV3 0x28 d a 0#7 6#4)
  | .ppopc d a => some (encV3 0x28 d a 0#7 7#4)
  | .pfirst d a => some (encV3 0x28 d a 0#7 8#4)
  | .vshfl d a b => some (encV3 0x29 d a b 0#4)
  | .vshflx d a b => some (encV3 0x29 d a b 1#4)
  | .vrot d a b => some (encV3 0x29 d a b 2#4)
  | .vredadd d a => some (encV3 0x29 d a 0#7 3#4)
  | .vredmin d a => some (encV3 0x29 d a 0#7 4#4)
  | .vredmax d a => some (encV3 0x29 d a 0#7 5#4)
  | .vscan d a => some (encV3 0x29 d a 0#7 6#4)
  | .lda d a x m => some (encM 0x2C d a x m)
  | .sta d a x m => some (encM 0x2D d a x m)
  | .ldb d a x m => some (encM 0x2E d a x m)
  | .stb d a x m => some (encM 0x2F d a x m)
  | .slda d a x m => some (encM 0x30 d a x m)
  | .ssta d a x m => some (encM 0x31 d a x m)
  | .lds d x m => some (encM 0x32 d 0#4 x m)
  | .sts d x m => some (encM 0x32 d 1#4 x m)
  | .slds d x m => some (encM 0x32 d 2#4 x m)
  | .ssts d x m => some (encM 0x32 d 3#4 x m)
  | .vspill d a => some (encX 0x33 d a 0#11)
  | .vfill d a => some (encX 0x33 d a 1#11)
  | .sspill d a => some (encX 0x33 d a 2#11)
  | .sfill d a => some (encX 0x33 d a 3#11)
  | .abind d a => some (encX 0x33 (BitVec.ofNat 7 (d.toNat)) a 16#11)
  | .abinds d a => some (encX 0x33 (BitVec.ofNat 7 (d.toNat)) a 17#11)
  | .aqry d k f => some (encX 0x33 d (BitVec.ofNat 7 (k.toNat * 8 + f.toNat)) 18#11)
  | .aaddVg d a x r => some (encM 0x34 d a x (BitVec.ofNat 7 (r.toNat * 2)))
  | .aaddfVg d a x r => some (encM 0x34 d a x (BitVec.ofNat 7 (8 + r.toNat * 2)))
  | .aminVg d a x r => some (encM 0x34 d a x (BitVec.ofNat 7 (16 + r.toNat * 2)))
  | .amaxVg d a x r => some (encM 0x34 d a x (BitVec.ofNat 7 (24 + r.toNat * 2)))
  | .aminuVg d a x r => some (encM 0x34 d a x (BitVec.ofNat 7 (32 + r.toNat * 2)))
  | .amaxuVg d a x r => some (encM 0x34 d a x (BitVec.ofNat 7 (40 + r.toNat * 2)))
  | .aandVg d a x r => some (encM 0x34 d a x (BitVec.ofNat 7 (48 + r.toNat * 2)))
  | .aorVg d a x r => some (encM 0x34 d a x (BitVec.ofNat 7 (56 + r.toNat * 2)))
  | .axorVg d a x r => some (encM 0x34 d a x (BitVec.ofNat 7 (64 + r.toNat * 2)))
  | .axchVg d a x r => some (encM 0x34 d a x (BitVec.ofNat 7 (72 + r.toNat * 2)))
  | .acasVg d a x r => some (encM 0x34 d a x (BitVec.ofNat 7 (80 + r.toNat * 2)))
  | .aappVg d a x r => some (encM 0x34 d a x (BitVec.ofNat 7 (88 + r.toNat * 2)))
  | .aaddSg d a x r => some (encM 0x35 d a x (BitVec.ofNat 7 (r.toNat * 2)))
  | .aaddfSg d a x r => some (encM 0x35 d a x (BitVec.ofNat 7 (8 + r.toNat * 2)))
  | .aminSg d a x r => some (encM 0x35 d a x (BitVec.ofNat 7 (16 + r.toNat * 2)))
  | .amaxSg d a x r => some (encM 0x35 d a x (BitVec.ofNat 7 (24 + r.toNat * 2)))
  | .aminuSg d a x r => some (encM 0x35 d a x (BitVec.ofNat 7 (32 + r.toNat * 2)))
  | .amaxuSg d a x r => some (encM 0x35 d a x (BitVec.ofNat 7 (40 + r.toNat * 2)))
  | .aandSg d a x r => some (encM 0x35 d a x (BitVec.ofNat 7 (48 + r.toNat * 2)))
  | .aorSg d a x r => some (encM 0x35 d a x (BitVec.ofNat 7 (56 + r.toNat * 2)))
  | .axorSg d a x r => some (encM 0x35 d a x (BitVec.ofNat 7 (64 + r.toNat * 2)))
  | .axchSg d a x r => some (encM 0x35 d a x (BitVec.ofNat 7 (72 + r.toNat * 2)))
  | .acasSg d a x r => some (encM 0x35 d a x (BitVec.ofNat 7 (80 + r.toNat * 2)))
  | .aaddVs d x r => some (encM 0x36 d 0#4 x (BitVec.ofNat 7 (r.toNat * 2)))
  | .aaddfVs d x r => some (encM 0x36 d 0#4 x (BitVec.ofNat 7 (8 + r.toNat * 2)))
  | .aminVs d x r => some (encM 0x36 d 0#4 x (BitVec.ofNat 7 (16 + r.toNat * 2)))
  | .amaxVs d x r => some (encM 0x36 d 0#4 x (BitVec.ofNat 7 (24 + r.toNat * 2)))
  | .aminuVs d x r => some (encM 0x36 d 0#4 x (BitVec.ofNat 7 (32 + r.toNat * 2)))
  | .amaxuVs d x r => some (encM 0x36 d 0#4 x (BitVec.ofNat 7 (40 + r.toNat * 2)))
  | .aandVs d x r => some (encM 0x36 d 0#4 x (BitVec.ofNat 7 (48 + r.toNat * 2)))
  | .aorVs d x r => some (encM 0x36 d 0#4 x (BitVec.ofNat 7 (56 + r.toNat * 2)))
  | .axorVs d x r => some (encM 0x36 d 0#4 x (BitVec.ofNat 7 (64 + r.toNat * 2)))
  | .axchVs d x r => some (encM 0x36 d 0#4 x (BitVec.ofNat 7 (72 + r.toNat * 2)))
  | .acasVs d x r => some (encM 0x36 d 0#4 x (BitVec.ofNat 7 (80 + r.toNat * 2)))
  | .aappVs d x r => some (encM 0x36 d 0#4 x (BitVec.ofNat 7 (88 + r.toNat * 2)))
  | .aaddSs d x r => some (encM 0x36 d 8#4 x (BitVec.ofNat 7 (r.toNat * 2)))
  | .aaddfSs d x r => some (encM 0x36 d 8#4 x (BitVec.ofNat 7 (8 + r.toNat * 2)))
  | .aminSs d x r => some (encM 0x36 d 8#4 x (BitVec.ofNat 7 (16 + r.toNat * 2)))
  | .amaxSs d x r => some (encM 0x36 d 8#4 x (BitVec.ofNat 7 (24 + r.toNat * 2)))
  | .aminuSs d x r => some (encM 0x36 d 8#4 x (BitVec.ofNat 7 (32 + r.toNat * 2)))
  | .amaxuSs d x r => some (encM 0x36 d 8#4 x (BitVec.ofNat 7 (40 + r.toNat * 2)))
  | .aandSs d x r => some (encM 0x36 d 8#4 x (BitVec.ofNat 7 (48 + r.toNat * 2)))
  | .aorSs d x r => some (encM 0x36 d 8#4 x (BitVec.ofNat 7 (56 + r.toNat * 2)))
  | .axorSs d x r => some (encM 0x36 d 8#4 x (BitVec.ofNat 7 (64 + r.toNat * 2)))
  | .axchSs d x r => some (encM 0x36 d 8#4 x (BitVec.ofNat 7 (72 + r.toNat * 2)))
  | .acasSs d x r => some (encM 0x36 d 8#4 x (BitVec.ofNat 7 (80 + r.toNat * 2)))
  | .dwb d a => some (encX 0x37 d a 3#11)
  | .iinv d a => some (encX 0x37 d a 4#11)
  | .acopyIn d a => some (encX 0x38 (BitVec.ofNat 7 (d.toNat)) a 0#11)
  | .acopyOut d a => some (encX 0x38 (BitVec.ofNat 7 (d.toNat)) a 1#11)
  | .agather d a => some (encX 0x38 (BitVec.ofNat 7 (d.toNat)) a 2#11)
  | .ascadd d a => some (encX 0x38 (BitVec.ofNat 7 (d.toNat)) a 3#11)
  | .qstream q a => some (encX 0x38 (BitVec.ofNat 7 (q.toNat)) a 4#11)
  | .qpop d q => some (encX 0x39 d (BitVec.ofNat 7 (q.toNat)) 0#11)
  | .qstat d q => some (encX 0x39 d (BitVec.ofNat 7 (q.toNat)) 1#11)
  | .cseal d => some (encX 0x39 d 0#7 2#11)
  | .cwait a => some (encX 0x39 0#7 a 3#11)
  | .armw d a => some (encX 0x39 d a 4#11)
  | .waitg d a => some (encX 0x39 d a 5#11)
  | .waitw d a => some (encX 0x39 d a 6#11)
  | .waitwG d a => some (encX 0x39 d a 7#11)
  | .bar d i => some (encX 0x3A d (BitVec.ofNat 7 (i.toNat)) 0#11)
  | .bara i => some (encX 0x3A 0#7 (BitVec.ofNat 7 (i.toNat)) 1#11)
  | .gbar d i => some (encX 0x3A d (BitVec.ofNat 7 (i.toNat)) 2#11)
  | .mop t a b => some (encV3 0x3C (BitVec.ofNat 7 (t.toNat)) (BitVec.ofNat 7 (a.toNat)) (BitVec.ofNat 7 (b.toNat)) 0#4)
  | .mopn t a b => some (encV3 0x3C (BitVec.ofNat 7 (t.toNat)) (BitVec.ofNat 7 (a.toNat)) (BitVec.ofNat 7 (b.toNat)) 1#4)
  | .tzero t => some (encV3 0x3C (BitVec.ofNat 7 (t.toNat)) 0#7 0#7 2#4)
  | .mchk t => some (encV3 0x3C (BitVec.ofNat 7 (t.toNat)) 0#7 0#7 3#4)
  | .fmov f a => some (encV3 0x3C (BitVec.ofNat 7 (f.toNat)) a 0#7 4#4)
  | .mxon m => some (encV3 0x3C (BitVec.ofNat 7 (m.toNat)) 0#7 0#7 5#4)
  | .tcvt d t => some (encV3 0x3C d (BitVec.ofNat 7 (t.toNat)) 0#7 7#4)
  | .tsld v t r x n => some (encTS 0x3D v t r x (BitVec.ofNat 9 (n.toNat)))
  | .tsst v t r x n => some (encTS 0x3D v t r x (BitVec.ofNat 9 (256 + n.toNat)))
  | .fld f a x m => some (encM 0x3E (BitVec.ofNat 7 (f.toNat)) a x m)
  | .flds f x m => some (encM 0x3E (BitVec.ofNat 7 (16 + f.toNat)) 0#4 x m)
  | .tld t a x m => some (encM 0x3E (BitVec.ofNat 7 (32 + t.toNat)) a x m)
  | .tst t a x m => some (encM 0x3E (BitVec.ofNat 7 (48 + t.toNat)) a x m)
  | .tstA t a x m => some (encM 0x3E (BitVec.ofNat 7 (64 + t.toNat)) a x m)
  | .tldv t a x y => some (encM 0x3E (BitVec.ofNat 7 (80 + t.toNat)) a x (BitVec.ofNat 7 (y.toNat)))
  | .mset a => some (encX 0x3F 0#7 a 0#11)
  | .mseti v w f => some (encX 0x3F v w (BitVec.ofNat 11 (64 + f.toNat)))
  | .mget d => some (encX 0x3F d 0#7 128#11)
  | .srd d a => some (encX 0x3F d a 192#11)
  | .swr d a => some (encX 0x3F d a 256#11)
  | .flgr d => some (encX 0x3F d 0#7 320#11)
  | .flgc a => some (encX 0x3F 0#7 a 384#11)
  | .xseed a => some (encX 0x3F 0#7 a 448#11)
  | .trap n => some (encX 0x3F 0#7 0#7 (BitVec.ofNat 11 (512 + n.toNat)))
  | .pmark n => some (encX 0x3F 0#7 0#7 (BitVec.ofNat 11 (704 + n.toNat)))
  | .ret => some (encX 0x13 0#7 0#7 2#11)
  | .join => some (encX 0x13 0#7 0#7 3#11)
  | .tfence => some (encX 0x13 0#7 0#7 4#11)
  | .exit => some (encX 0x13 0#7 0#7 5#11)
  | .nop => some (encX 0x13 0#7 0#7 6#11)
  | .facq => some (encX 0x37 0#7 0#7 0#11)
  | .frel => some (encX 0x37 0#7 0#7 1#11)
  | .ffull => some (encX 0x37 0#7 0#7 2#11)
  | .fetchb => some (encX 0x37 0#7 0#7 5#11)
  | .mxoff => some (encV3 0x3C 0#7 0#7 0#7 6#4)
  | .tretR => some (encX 0x3F 0#7 0#7 576#11)
  | .tretS => some (encX 0x3F 0#7 0#7 577#11)
  | .tretX => some (encX 0x3F 0#7 0#7 578#11)
  | .bkpt => some (encX 0x3F 0#7 0#7 640#11)
  | .branchMispredict => none
  | .trapEntry => none
  | .constantCacheFill => none
  | .storeRegistration => none
  | .lineFill => none
  | .uncorrectableError => none
  | .correctedError => none
  | .copySlotGrant => none
  | .copySectorWrite => none
  | .arrival => none
  | .copyComplete => none
  | .csealUnblock => none
  | .cwaitSatisfied => none
  | .waitgSatisfied => none
  | .waitwSatisfied => none
  | .waitwGSatisfied => none
  | .queueFill => none
  | .qpopEntryReady => none
  | .spawnWRetry => none
  | .tstATry => none
  | .tstAVersionStore => none
  | .tldvTry => none
  | .barrierPhaseComplete => none
  | .gangBarrierPhaseComplete => none
  | .rotatedDuplicate => none
  | .duplicatePipeHold => none
  | .spareColumnRemap => none
  | .partitionWithdrawal => none
  | .gangPlace => none
  | .gangEvict => none
  | .gangRestore => none
  | .launchCompletion => none
  | .trapDelivery => none
  | .backoffExpiry => none
  | .coalescerDrain => none
  | .retry => none
  | .skip => none
  | .exclude => none
  | .halt => none
  | .warpHalt => none
  | .gangHalt => none
  | .gangHaltReceipt => none
  | .monarchGangHalt => none
  | .dump => none
  | .dumpAreaReset => none
  | .regionCreate => none
  | .regionReread => none
  | .appendDoorbell => none
  | .appendRequest => none
  | .launchTake => none
  | .leasePin => none
  | .quantumExpiry => none
  | .priorityAging => none
  | .waiterYield => none
  | .relaunch => none
  | .invalidate => none
  | .footprintRead => none
  | .pageMove => none
  | .dbiWindowEnd => none
  | .dbiModeSwitch => none
  | .selfRefreshEntry => none
  | .selfRefreshExit => none
  | .controllerWrite => none
  | .mscRequest => none
  | .scrubPatrol => none
  | .powerOn => none
  | .recoveryImageWrite => none
  | .rebootRequest => none
  | .standbyTakeover => none
  | .attestationReport => none
  | .keyLoad => none
  | .powerSample => none
  | .lunaRecord => none
  | .lunaSync => none
  | .lunaRearm => none
  | .freezeMaskSet => none
  | .clusterWatchdog => none
  | .breakpointSet => none
  | .singleStep => none
  | .safePointStop => none
  | .samplePeriodSet => none
  | .samplePeriodEnd => none
  | .debugRegisterAccess => none
  | .trapModeSet => none
  | .causalExperiment => none
  | .causalPeriodEnd => none
  | .translateFunction => none
  | .hostMemoryAccess => none
  | .hostRegisterWrite => none
  | .hostLinkLost => none
  | .hostAttach => none
  | .flitReceive => none
  | .laneSpare => none
  | .linkRetrain => none
  | .linkDown => none
  | .peerLost => none
  | .lostRequestCompletion => none
  | .poolRowRead => none
  | .poolRowAdd => none
  | .tableCreate => none
  | .tableGrant => none
  | .tablePublish => none
  | .rowMove => none
  | .rowHandover => none
  | .migrateRegion => none
  | .powerLoss => none
  | .standbyDieFailure => none
  | .leaseReferralAnswer => none
  | .linkRetrainDone => none

/-- R50: the same word with the stop bit set. -/
def withStop (w : Word) : Word := w ||| 0x80000000#32

/-- Whether the row has a word: a warp runs such an instruction; the others are steps that no warp fetches. -/
def hasWord (i : Instr) : Bool := (encode i).isSome

end Sys2Proof
end

