-- ==== Sys2Proof/Machine/State.lean ====
section
/-!
DEFINITION. The state of the module (R8, R19): warps, cores, clusters, homes and controllers, regions and launches, the
Monarch, the fabric, and the agenda that says which agent moves next. Plain data throughout.
-/

namespace Sys2Proof.Machine

/-! ## Memory as data -/

/-- Bytes at addresses: addresses strictly rising, no entry equal to what an unlisted address reads as (`Memory.blank`). -/
abbrev Memory := List Host.Cell

/-- What a byte that nothing has written reads as. A window reads zero when its block is placed (R232); for HBM4E and LPDDR
after power-on the spec gives no contents: DESIGN CHOICE, unsafe (log 3). -/
def Memory.blank : Byte := 0

/-- A place in physical memory: address, key id of its page, uncached. -/
structure Phys where
  pa : Nat
  key : BitVec 6
  unc : Bool
deriving DecidableEq, Repr

/-- R23: an interval shadow; `unbounded` is W = 1, where lo and hi carry no meaning. -/
inductive Shadow where
  | unbounded
  | bounded (lo hi : Int)
deriving DecidableEq, Repr

/-- R27: an array register. -/
structure ArrayReg where
  base : BitVec 48
  extent : BitVec 31
  esize : BitVec 4
  check : BitVec 2
  ro : Bool
  vcount : BitVec 16
  frame : BitVec 40
  limit : BitVec 48
  tgen : BitVec 16
  fw : Bool
  /-- the key id and the uncached attribute of the run FRAME names (R181: one run has one of each) -/
  key : BitVec 6
  unc : Bool
deriving DecidableEq, Repr

/-- R28: an array register at warp start: nothing bound, CHECK TRAP. -/
def ArrayReg.start : ArrayReg :=
  { base := 0, extent := 0, esize := 0, check := 1, ro := false, vcount := 0, frame := 0, limit := 0, tgen := 0, fw := false,
    key := 0, unc := false }

/-- R39: an entry of the reconvergence stack. -/
structure StackEntry where
  jpc : BitVec 48
  ppc : BitVec 48
  pmask : Word
  jmask : Word
  mode : DWord
deriving DecidableEq, Repr

/-- R193: a fault record. -/
structure FaultRec where
  cause : BitVec 16
  writes : Bool
  whole : Bool
  inRep : Bool
  count : Nat
  lanes : Word
  addr : DWord
  pc : BitVec 48
  ordinal : Word
  areg : BitVec 8
  detail : BitVec 8
  repidx : BitVec 16
deriving DecidableEq, Repr

/-- R257: the state of a warp slot. -/
inductive SlotState where
  | free | ready | waiting | backoff | trapped | draining | halted
deriving DecidableEq, Repr

/-- R225: the checksums of one pinned tile. `ql`: a `mop` has raised QL since they were established (R226). -/
structure TileSum where
  tile : Nat
  cols : List Dyadic
  rows : List Dyadic
  exemptCols : List Nat
  exemptRows : List Nat
  n : Nat
  ql : Bool
deriving DecidableEq, Repr

/-- R134-R137: a `rep` whose repetitions are being run: its count, its steps and the word it repeats. -/
structure Rep where
  n : Nat
  sd : Nat
  sa : Nat
  sb : Nat
  word : Word
deriving DecidableEq, Repr

/-- The four copies of R238. -/
inductive CopyOp where
  | copyIn | copyOut | gather | scatterAdd
deriving DecidableEq, Repr

/-- R221: the version word that a `tst.a` has claimed, and the version it found there. -/
structure Claim where
  pa : Nat
  key : BitVec 6
  unc : Bool
  version : DWord
deriving DecidableEq, Repr

/-- What a warp waits for; whether it is WAITING meanwhile, `Wait.givesUp` says (R257). The warp's pc stays at the waiting instruction, which a drain re-issues (R264). -/
inductive Wait where
  | cwait (upTo : Word)
  | cseal (d : BitVec 7)
  | copySlot (op : CopyOp) (k : BitVec 4) (a : BitVec 7)
  | waitg (addr : Nat) (gen : BitVec 16)
  | waitw (addr : Nat) (was : Word)
  | waitwG (va : Nat) (was : DWord)
  | bar (d : BitVec 7) (id : BitVec 4) (phase : Nat)
  | gbar (d : BitVec 7) (id : BitVec 4) (phase : Nat)
  | barTwice (d : BitVec 7) (id : BitVec 4) (phase : Nat) (stay : Bool) (gang : Bool)
  | spawnW (d : BitVec 7) (hdr : Nat)
  | tstA (t : BitVec 2) (a : BitVec 4) (x m : BitVec 7) (claimed : Option Claim)
  | tldv (t : BitVec 2) (a : BitVec 4) (x : BitVec 7) (y : BitVec 6) (tries : Nat)
  | qpop (d : BitVec 7) (q : BitVec 2)
  | coalescer
  | dup (t : BitVec 2) (a b : BitVec 1) (negative : Bool)
  | inWarpStop (reason : Nat)
deriving DecidableEq, Repr

/-- R257: whether a warp that waits for it gives up its issue slots, so that its state is WAITING. In `cwait`, `qpop`, `tldv`, a claimed
`tst.a` and a `mop` that waits for its vote it stays READY. -/
def Wait.givesUp : Wait → Bool
  | .cwait _ | .tldv .. | .qpop .. | .dup .. | .tstA _ _ _ _ (some _) => false
  | .cseal _ | .copySlot .. | .waitg .. | .waitw .. | .waitwG .. | .bar .. | .gbar .. | .barTwice .. | .spawnW ..
  | .tstA _ _ _ _ none | .coalescer | .inWarpStop _ => true

/-- R295: a store that has retired and is not yet registered: the bytes of one line of global memory, or (with `scratch` the
package core number of the target) of one core's SRAM. `tag`: the lines of one instruction have the same. -/
structure PendingStore where
  tag : Nat
  scratch : Option Nat
  line : Nat
  key : BitVec 6
  uncached : Bool
  cells : Memory
deriving DecidableEq, Repr

/-- R45: what a load that has executed before older instructions of its warp retired has read: the scratchpad or global memory, an
access, and which of its bytes it met poisoned. -/
structure Early where
  scratch : Option Nat
  pa : Nat
  bytes : List Byte
  bad : List Nat
deriving DecidableEq, Repr

/-- A warp: R19's architectural state, and what the core keeps for it. -/
structure Warp where
  /-- where it stands: package core number and core warp number (R9) -/
  pcn : Nat
  cw : Nat
  status : SlotState
  /-- what it belongs to (R260, R283); `index` is none in a spawned warp (R38) -/
  launch : Nat
  gang : Nat
  block : Nat
  index : Option Nat
  rid : Nat
  /-- its kernel header (R88) -/
  khdr : Nat
  varch : Nat
  vren : Nat
  trapvec : Nat
  /-- its record area: global address, and the places its start and its end had at placement (R196); none where a page of it had no
  translation then -/
  recVa : Nat
  recAt : Option (Phys × Phys)
  pc : BitVec 48
  active : Word
  /-- newest entry first (R39) -/
  stack : List StackEntry
  sreg : Vector DWord 64
  sshd : Vector Shadow 64
  vreg : Vector Lanes 128
  vshd : Vector Shadow 128
  preg : Vector Word 8
  areg : Vector ArrayReg 16
  mode : DWord
  flg : BitVec 8
  /-- XS[63:0] and XS[127:64] (R34) -/
  xs0 : DWord
  xs1 : DWord
  xrep : BitVec 6
  xpc : BitVec 48
  xmask : Word
  xcause : BitVec 16
  xrec : DWord
  /-- fa0, fa1, fb0, fb1 as 32 words each (R36) -/
  feeds : Vector Lanes 4
  /-- TDEPTH and REPIP (R267) -/
  tdepth : Nat
  repip : Bool
  /-- whether its trap entry was for a lane cause of a vector member (R198); none since the last `tret` -/
  laneTrap : Option Bool
  /-- pinned tiles and their kind (R211); the checksums (R225) -/
  pin : BitVec 4
  tileAcc : Bool
  sums : List TileSum
  /-- the hidden count c of R229 -/
  dupCount : Nat
  /-- the last batch number sealed (R242) -/
  lastSeal : Word
  /-- lanes a `tret.x` removes from the instruction it reruns, while `rerun` holds (R198) -/
  exclude : Word
  rerun : Bool
  rep : Option Rep
  wait : Option Wait
  /-- oldest first (R295) -/
  stores : List PendingStore
  /-- loads that have executed ahead of their turn, and those of them that the instruction now executing has taken (R45, R314) -/
  ahead : List Early
  taken : List Early
  /-- sectors whose SHARED words its loads fill again, because they may be older than what a `cwait` or `waitg` orders before them
  (R317, R321) -/
  distrust : List Nat
  /-- the clock offset of R38 -/
  clkOff : DWord
  /-- the fault the warp has raised and that has not been taken; the records last written to its record area -/
  pending : List FaultRec
  records : List FaultRec
  /-- cycles of its next back-off (R270) -/
  backoff : Nat
  permit : Bool
  /-- the debugger's single-step (R380): armed, and whether the warp has passed the word it was stopped at -/
  stepping : Bool
  resumed : Bool
  /-- the word it was stopped at is one that its `rep` repeats: `resumed` outlives the `rep`, which is issued again (R137, R138) -/
  resumedRep : Bool
  /-- cycles of a causal period in the range, and the cycle until which it is held from dispatch (R381) -/
  causalHits : Nat
  hold : Nat
  /-- cycle at which it began to wait (R341) -/
  waitSince : Nat
  /-- halted by a warp halt: it takes no part in barriers any more (R253, R255) -/
  departed : Bool
  haltCause : BitVec 16
deriving DecidableEq, Repr

/-! ## Cores and clusters -/

/-- R295: a word as it stood in an L1 before a store that is acknowledged and of whose instruction another line is not: the warp and the
tag of that store, the word, whether it was poisoned. -/
structure Shown where
  cw : Nat
  tag : Nat
  value : Word
  poison : Bool
deriving DecidableEq, Repr

/-- A word of an L1 line that is not INVALID (R297): `owned`, and if so `dirty`. `shown`, newest first: what the bytes of stores whose
instruction is not acknowledged whole have not entered yet. -/
structure L1Word where
  idx : Nat
  value : Word
  owned : Bool
  dirty : Bool
  poison : Bool
  /-- the journal stamp its bytes carry (R370) -/
  stamp : BitVec 6
  shown : List Shown
deriving DecidableEq, Repr

/-- A line of an L1 with its valid words. -/
structure L1Line where
  line : Nat
  key : BitVec 6
  words : List L1Word
deriving DecidableEq, Repr

/-- R354: a cached leaf. -/
structure TlbEntry where
  rid : Nat
  tgen : BitVec 16
  level : Nat
  vpage : Nat
  entry : DWord
deriving DecidableEq, Repr

/-- R187: an entry of the footprint table; `reg`: the core warp number and array register whose binding it records, until that
register is bound anew or its warp is gone. -/
structure Footprint where
  reg : Option (Nat × Nat)
  rid : Nat
  base : Nat
  bytes : Nat
  count : Nat
deriving DecidableEq, Repr

/-- A constant-cache word (R310): launch, word index in the constant segment, value, poisoned. -/
structure ConstWord where
  launch : Nat
  idx : Nat
  value : Word
  poison : Bool
deriving DecidableEq, Repr

/-- A piece of a copy's global range that is contiguous in physical memory: offset within the copy, physical address, length,
key id, uncached (R239 check 8). -/
structure Piece where
  off : Nat
  pa : Nat
  len : Nat
  key : BitVec 6
  unc : Bool
deriving DecidableEq, Repr

/-- R239-R241: a copy that holds a slot. -/
structure Copy where
  id : Nat
  cw : Nat
  launch : Nat
  op : CopyOp
  areg : ArrayReg
  count : Nat
  /-- the scratchpad side or row buffer, and the index list: package core number and SRAM byte; `woff`: the offset of the side
  within its window, by which sectors are aligned -/
  side : Nat × Nat
  woff : Nat
  list : Nat × Nat
  aw : Option (Nat × Nat)
  dv : Option (Nat × Nat)
  mode : DWord
  suppressed : Bool
  /-- none: the open batch -/
  batch : Option Word
  /-- pool table version bound (R391): table, version -/
  version : Option (Nat × Nat)
  /-- an `acopy`'s global range -/
  pieces : List Piece
  /-- the index list once read (R241) -/
  indices : Option (List Int)
  /-- destination sectors not yet written, by the offset of their first byte within the copy; of `ascadd`, elements not added -/
  todo : List Nat
  /-- arrivals not yet made -/
  arrivals : List Nat
  /-- pool rows: position in the index list, the bytes received so far (R392, R393) -/
  rows : List (Nat × List Byte)
  /-- the poisoned words that came in them: position, word of the row (R240) -/
  badWords : List (Nat × Nat)
  /-- what has been asked of another module: the position of a row, or an element, and the member it was asked of (R393) -/
  asked : List (Nat × Nat)
deriving DecidableEq, Repr

/-- R248-R252: a queue: the core warp number of its owner, the program of its stream, the position (i0, i1, i2) of the next
element, the entries of the active stream not yet filled, and the filled ones, oldest first, each with whether a poisoned byte
went in. A stream is active while `remain` is not 0. -/
structure Queue where
  owner : Option Nat
  prog : List Byte
  suppressed : Bool
  areg : ArrayReg
  i0 : Nat
  i1 : Nat
  i2 : Nat
  entries : List (Lanes × Bool)
  remain : Nat
deriving DecidableEq, Repr

/-- R272: an open record of the coalescer. -/
structure Coalesced where
  first : FaultRec
  warps : Word
  count : Nat
  gtime : Nat
deriving DecidableEq, Repr

/-- A stuck multiplier of the grid: physical column and row, and the bits of a cell it flips (R202, R229). -/
structure StuckCell where
  column : Nat
  row : Nat
  flip : BitVec 128
deriving DecidableEq, Repr

/-- A partition (R202, R229, R230). `spare` is the lane the spare column stands in for. -/
structure Partition where
  withdrawn : Bool
  spare : Option Nat
  rotation : Nat
  faults : List (Nat × Nat × Nat)
  stuck : List StuckCell
deriving DecidableEq, Repr

/-- A core (R231, R343). -/
structure Core where
  pcn : Nat
  enabled : Bool
  /-- whether the Monarch has written a configuration (R343), and what it wrote -/
  loaded : Bool
  rid : Nat
  ptroot : Nat
  keyid : BitVec 6
  split : Nat
  tgen : BitVec 16
  dupn : Nat
  trapmode : BitVec 2
  /-- COALESCE instead of PERMIT (R269) -/
  coalesce : Bool
  sram : Memory
  sramPoison : List Nat
  /-- most recently used first -/
  l1 : List L1Line
  /-- lines that the access now executing has reserved (R187, R233) -/
  reserved : List Nat
  tlb : List TlbEntry
  icache : List (Nat × Word)
  ccache : List ConstWord
  footprint : List Footprint
  copies : List Copy
  nextCopy : Nat
  queues : Vector Queue 4
  pmark : Vector DWord 8
  permits : Nat
  coalesced : List Coalesced
  /-- the sample period in cycles (R380) and whether a period has ended without its sample -/
  samplePeriod : Option Nat
  sampleDue : Bool
  parts : Vector Partition 4
  /-- cycles I of the causal period (R381) -/
  causal : Nat
deriving DecidableEq, Repr

/-- R378: a Luna record. -/
structure LunaRec where
  cycle : Nat
  event : BitVec 8
  who : BitVec 8
  xinfo : BitVec 8
  ordinal : Word
  detail : DWord
deriving DecidableEq, Repr

/-- A cluster: its TLB (R354) and its Luna recorder (R378, R379). `left`: records still written after a freezing event; `leftBefore`: what it
was before the records of `thisCycle` (cycle, how many). -/
structure Cluster where
  id : Nat
  tlb : List TlbEntry
  ring : List LunaRec
  frozen : Bool
  left : Option Nat
  leftBefore : Option Nat
  mask : BitVec 8
  dropped : Nat
  thisCycle : Nat × Nat
deriving DecidableEq, Repr

/-! ## Homes and controllers -/

/-- R294: an ownership record. -/
structure OwnRec where
  line : Nat
  owner : Nat
  owned : BitVec 48
deriving DecidableEq, Repr

/-- A line held by its slice (R293): the key id of its fill (R367), the stamp its unwritten bytes carry (R370), and its sector valid
bits. -/
structure SliceLine where
  line : Nat
  key : BitVec 6
  stamp : BitVec 6
  valid : BitVec 4
deriving DecidableEq, Repr

/-- The spare bits of a line's first burst (R350): key id and journal stamp of the last write. -/
structure LineMark where
  line : Nat
  key : BitVec 6
  stamp : BitVec 6
deriving DecidableEq, Repr

/-- R362: the tag of a set of the memory-side cache: die, set, dirty, alias. Unlisted: V = 0. -/
structure MscTag where
  die : Nat
  set : Nat
  dirty : Bool
  alias_ : Nat
deriving DecidableEq, Repr

/-- R358, R360: an HBM4E channel: DBI-AC instead of DBI-DC, a switch to make at the next refresh, the two counters (DBI-DC,
DBI-AC), the last two estimates, self-refresh. -/
structure Channel where
  stack : Nat
  ch : Nat
  dbiAc : Bool
  switching : Bool
  counters : Nat × Nat
  estimates : Nat × Nat
  selfRefresh : Bool
deriving DecidableEq, Repr

/-- The homes (R292-R296) and the memory behind them. A home's word is the slice's unwritten byte where there is one
(`fresh`), else the controller's. -/
structure Homes where
  mem : Memory
  fresh : Memory
  /-- poisoned sectors with their still-poisoned words (R309); a sector's set is never empty -/
  poison : List (Nat × BitVec 12)
  /-- the same as the controllers store it with the bytes (R345, R350): apart from `poison` only while a slice holds a change of it -/
  stored : List (Nat × BitVec 12)
  owners : List OwnRec
  /-- most recently used first -/
  lines : List SliceLine
  marks : List LineMark
  msc : List MscTag
  channels : List Channel
deriving DecidableEq, Repr

/-! ## Regions, launches, gangs -/

/-- A dump owed (R275, R277): of a gang, or of one warp at a place with what its halt left to say: when, its first record, the
header of its home block. -/
structure DumpJob where
  launch : Nat
  gang : Nat
  warp : Option (Nat × Nat)
  gtime : Nat
  first : Option FaultRec
  headers : List (Nat × List Byte)
deriving DecidableEq, Repr

/-- R328: a region control block as the Monarch last accepted it, and what the Monarch keeps for the region. -/
structure Region where
  rid : Nat
  addr : Nat
  parent : Nat
  trapmode : BitVec 2
  policy : BitVec 2
  prio : BitVec 3
  keyid : BitVec 6
  split : Nat
  lqorder : Nat
  tgen : BitVec 16
  ovr : BitVec 16
  cores : Nat
  scratchu : Nat
  dupn : Nat
  quantum : Nat
  vregs : Nat
  hbmb : Nat
  lqhead : Word
  lqtail : Word
  lqbase : Nat
  ptroot : Nat
  chrybase : Nat
  chrylen : Nat
  dumpbase : Nat
  dumplen : Nat
  miggen : DWord
  feat : Vector DWord 4
  jrnbase : Nat
  jrnlen : Nat
  /-- links of the tree, the Monarch's (R328) -/
  firstChild : Nat
  nextSib : Nat
  /-- append requests not yet served: the record's address and its asker (none: the host); the doorbell's status register -/
  appends : List (Nat × Bool)
  doorbell : Nat
  /-- entries are no longer taken (R333) -/
  stopped : Bool
  /-- dump pointer and the SEQ of the last dump (R277) -/
  dumpPtr : Nat
  dumpSeq : Nat
  /-- parts of the Chrysalis area in use: offset and length (R196, R342) -/
  chryUsed : List (Nat × Nat)
  /-- the launch of each entry of the journal area (R345); 0: an entry that has been cleared -/
  jrn : List Nat
  /-- dumps owed, in the order of their halts (R277) -/
  dumps : List DumpJob
  /-- breakpoints: ordinals (R380) -/
  breakpoints : List Nat
  /-- R396: on its way to another module; what is added to the module's global time for it -/
  migrating : Bool
  /-- whether its memory has been sent to the module it goes to, and which that is (R396) -/
  copied : Bool
  sentTo : Nat
  gtimeOff : Nat
deriving DecidableEq, Repr

/-- A kernel's code segment (R380): address of its first word and its word count, for ordinals. -/
structure Segment where
  base : Nat
  words : Nat
deriving DecidableEq, Repr

/-- R380: a code segment: where it starts, the code of its kernels, and its prefix table as the loader built it: entry j counts the stop
bits before word 64j. -/
structure CodeSegment where
  start : Nat
  kernels : List Segment
  counts : List Nat
deriving DecidableEq, Repr

/-- Where a launch stands. -/
inductive LaunchState where
  | taken | placing | done
deriving DecidableEq, Repr

/-- A launch the Monarch has taken (R331, R336). -/
structure Launch where
  id : Nat
  rid : Nat
  state : LaunchState
  tag : Word
  compl : Nat
  lease : List (Nat × Nat)
  arg : DWord
  code : Nat
  gangs : Nat
  kernel : Nat
  nblock : Nat
  nwarp : Nat
  /-- the selected kernel's header address and what its header says (R88); the image's code segment (R380) -/
  khdr : Nat
  varch : Nat
  vren : Nat
  scratch : Nat
  trapvec : Nat
  segment : CodeSegment
  /-- constant segment: global address and length (R18) -/
  constVa : Nat
  constLen : Nat
  /-- where its pages lay when the launch was placed: physical address and key id, none without a translation (R18) -/
  constMap : List (Option (Nat × BitVec 6))
  pinned : Bool
  /-- a leased address without a translation, referred to the region handler (R335) -/
  referral : Option Nat
  /-- gangs that have an entry in `gangs`, and the time since which all are ready (R336, R338) -/
  nextGang : Nat
  readyAt : Nat
  relaunches : Nat
  /-- the cause of the first failure, the microsecond in which it came, and its gang (R332) -/
  cause : BitVec 16
  causeAt : Nat
  causeGang : Nat
  failed : Bool
  /-- R346: a halt ends this run of it: a warp halt (true), or a fault beyond the warp (false) -/
  ending : Option Bool
  /-- journal stamp (R370); 0: unjournaled. The stamp it was given, which it keeps when its journal is full (R345, R394) -/
  stamp : BitVec 6
  given : BitVec 6
  /-- homes of pool rows its adds have touched (R394) -/
  poolHomes : List Nat
  translated : Bool
deriving DecidableEq, Repr

/-- R253: a barrier: who has arrived in the current phase, who has arrived a second time (32 × package core number + core warp
number of each), phases completed. -/
structure Barrier where
  arrived : List Nat
  again : List Nat
  phase : Nat
deriving DecidableEq, Repr

/-- A block of a placed gang (R232, R258). `unit` is the first 32 KiB unit of its window. -/
structure Block where
  index : Nat
  pcn : Nat
  unit : Nat
  scratch : Nat
  nwarp : Nat
  abandoned : Bool
  retired : Bool
  barriers : Vector Barrier 16
deriving DecidableEq, Repr

/-- Where a gang stands. -/
inductive GangState where
  | ready | placed | evicted | halting | retired
deriving DecidableEq, Repr

/-- A gang (R283). -/
structure Gang where
  launch : Nat
  index : Nat
  rid : Nat
  state : GangState
  blocks : List Block
  barriers : Vector Barrier 16
  abandoned : Bool
  /-- cycle since which it is ready, cycle of its placement, levels added by aging, quantum expired (R338-R340) -/
  readyAt : Nat
  placedAt : Nat
  aging : Nat
  expired : Bool
  /-- chosen for eviction (R339, R341); to be restored before the other ready gangs of its region (R341) -/
  victim : Bool
  favoured : Bool
  /-- victims were chosen for it, so that it is placed before any other once they are gone (R339) -/
  promised : Bool
  /-- its image: offset in the Chrysalis area and length (R265), and the core numbers of its blocks (R284) -/
  image : Option (Nat × Nat)
  places : List Nat
  /-- the record areas its warps keep while it is evicted (R196, R342) -/
  areas : List Nat
  /-- a gang halt: asked for and not yet sent, the halting warp's first record and place, cores yet to receive it, a dump owed -/
  asked : Bool
  halt : Option FaultRec
  haltBy : Nat × Nat
  toHalt : List Nat
  dumpDue : Bool
  haltAt : Nat
  /-- drain faults (R274), and the block headers as the halt found them (R281) -/
  second : List FaultRec
  headers : List (Nat × List Byte)
deriving DecidableEq, Repr

/-! ## The Monarch, the fabric, the agenda -/

/-- R377. -/
inductive Power where
  | off | boot | recovery | ready | run
deriving DecidableEq, Repr

/-- What the Monarch has logged or reported to the host (R227, R230, R308, R328, R333, R393, ...): a code and its data. -/
structure Report where
  code : Nat
  data : List Nat
deriving DecidableEq, Repr

/-- R381: a causal experiment. -/
structure Causal where
  rid : Nat
  /-- the code segment, by its start -/
  segment : Nat
  first : Nat
  last : Nat
  speedup : Nat
  /-- progress counters read at the start: core and counters -/
  atStart : List (Nat × List Nat)
deriving DecidableEq, Repr

/-- R384, R385: a translated function: its region, code object and number, the part of the code heap it fills, its constant segment
there (offset and length), and its code segment. -/
structure Translated where
  rid : Nat
  code : Nat
  fn : Nat
  off : Nat
  len : Nat
  constOff : Nat
  constLen : Nat
  segment : CodeSegment
deriving DecidableEq, Repr

/-- The Monarch (R371-R377). -/
structure Monarch where
  power : Power
  /-- flash: configuration image, firmware, and the highest SVN accepted (R373) -/
  image : List Byte
  firmware : List Byte
  svn : Nat
  /-- the configuration of the running boot (R374) -/
  carve : Nat
  integrity : Bool
  encryption : Bool
  heap : Nat
  dbiw : Nat × Nat
  fwhash : BitVec 384
  serial : BitVec 256
  cen : BitVec 256
  /-- the standby has control (R372) -/
  standby : Bool
  /-- sequence numbers acted on (R372) -/
  seen : List Word
  keys : List (Nat × Nat)
  report : List Byte
  log : List Report
  clockMHz : Nat
  calm : Nat
  causal : Option Causal
  /-- scores of pages: page, die, the last eight readings (R365) -/
  scores : List (Nat × Nat × List Nat)
  /-- translated functions in the code heap, least recently published first (R385) -/
  functions : List Translated
  /-- what the host has written to registers of BAR0 that have no behaviour of their own (R376); the bytes its last read returned -/
  bar0 : List (Nat × Nat)
  hostRead : List Byte
  hostAttached : Bool
  nextLaunch : Nat
  stopped : Bool
deriving DecidableEq, Repr

/-- R392: an add logged while its row is being moved. -/
structure LoggedAdd where
  elem : Nat
  value : Word
  mode : DWord
  bad : Bool
deriving DecidableEq, Repr

/-- R396: a region that goes from one module to another: its control block's fields, its launches and evicted gangs, the bytes of its
memory by key id, its poisoned words (R309), and the global time it was saved at. -/
structure Arrival where
  region : Region
  launches : List Launch
  gangs : List Gang
  cells : List (BitVec 6 × List Host.Cell)
  poison : List Nat
  functions : List Translated
  gtime : Nat
deriving DecidableEq, Repr

/-- What one module says to another (R392-R394, R396). How a payload holds it is not stated. A row read and an add name the module they
come from and which of its requests they are: core, copy, position; the answer to an add names the home that made it (R394). -/
inductive Message where
  | rowRead (origin : Nat) (tag : Nat × Nat × Nat) (table version row : Nat)
  | row (tag : Nat × Nat × Nat) (bytes : List Byte) (bad : List Nat)
  | rowAdd (origin : Nat) (tag : Nat × Nat × Nat) (table version row : Nat) (add : LoggedAdd) (stamp : BitVec 6)
  | added (tag : Nat × Nat × Nat) (home : Nat)
  | rowCopy (table version row : Nat) (bytes : List Byte) (bad : List Nat)
  | rowLog (table version row : Nat) (log : List LoggedAdd)
  | restore (stamp : BitVec 6)
  | restored (stamp : BitVec 6)
  | forget (stamp : BitVec 6)
  | region (a : Arrival)
deriving DecidableEq, Repr

/-- R387: a flit that this module sends: SEQ, ACK, DEST, SRC, KIND, PAYLOAD and CHECK; the message it is a part of and which part; and
the number it had on the path it was first sent on (R388). -/
structure Flit where
  seq : Word
  ack : Word
  dest : Nat
  src : Nat
  kind : Nat
  payload : BitVec 1792
  check : BitVec 128
  text : Message
  part : Nat
  first : Word
deriving DecidableEq, Repr

/-- R387, R388: a fabric port. -/
structure Port where
  id : Nat
  sparedLane : Option Nat
  lanes : Nat
  down : Bool
  retraining : Bool
  nextSeq : Word
  lastAck : Word
  replays : List Nat
  delivered : List (List Byte)
  /-- the number of the next flit it sends, its replay buffer of at most 512 flits, oldest first, and what waits for room there -/
  sendSeq : Word
  buffer : List Flit
  waiting : List Flit
deriving DecidableEq, Repr

/-- R389: a version of a pool table: row count, and for each present row its home member. -/
structure TableVersion where
  version : Nat
  rows : Nat
  homes : List (Nat × Nat)
deriving DecidableEq, Repr

/-- R392: a row being moved: version, row, new member, adds logged since the copy was taken, oldest first. -/
structure RowMove where
  version : Nat
  row : Nat
  member : Nat
  log : List LoggedAdd
deriving DecidableEq, Repr

/-- R394: the pre-image of a row that a journaled launch of a member has added to. -/
structure RowImage where
  member : Nat
  stamp : BitVec 6
  version : Nat
  row : Nat
  bytes : List Byte
  /-- its poisoned words (R309) -/
  bad : List Nat
deriving DecidableEq, Repr

/-- R389: a pool table in this module's directory. -/
structure PoolTable where
  id : Nat
  rowSize : Nat
  current : Nat
  versions : List TableVersion
  grants : List (Nat × Bool × Bool)
  /-- row contents: version, row, words as bytes -/
  data : List (Nat × Nat × List Byte)
  /-- poisoned words of rows: version, row, word (R240) -/
  bad : List (Nat × Nat × Nat)
  moving : List RowMove
  journal : List RowImage
deriving DecidableEq, Repr

/-- The fabric as this module sees it (R387-R394). -/
structure Fabric where
  ports : List Port
  lost : List Nat
  tables : List PoolTable
  /-- the flits this module has put on its links, with the port of each, oldest first -/
  sent : List (Nat × Flit)
  /-- the flits that have been delivered, against rerouted ones that come again: source, original sequence number, payload (R388) -/
  taken : List (Nat × Word × List Byte)
  /-- what the Monarch has asked of other modules and has no answer to (R393, R394): journal restores, by member and stamp -/
  restores : List (Nat × BitVec 6)
deriving DecidableEq, Repr


/-- What the next step without a word acts on: every name such a step may need (95). A field a step does not use stays 0. -/
structure Subject where
  /-- the host's command number (R372); none: not a host command -/
  seq : Option Word := none
  pcn : Nat := 0
  cw : Nat := 0
  rid : Nat := 0
  launch : Nat := 0
  gang : Nat := 0
  block : Nat := 0
  id : Nat := 0
  n : Nat := 0
  addr : Nat := 0
  len : Nat := 0
  value : Nat := 0
  flag : Bool := false
  flag2 : Bool := false
  bytes : List Byte := []
  more : List Byte := []
  list : List Nat := []
  rows : List (Nat × Nat) := []
  arrival : Option Arrival := none
deriving DecidableEq, Repr

/-- A turn of the agenda: a warp runs its next instruction, or a load of it executes ahead of its turn (R45), or a step without a word
happens to its subject. -/
inductive Turn where
  | warp (pcn cw : Nat)
  | ahead (pcn cw : Nat) (scratch : Bool) (addr n : Nat)
  | event (i : Instr) (x : Subject)
deriving DecidableEq, Repr

/-- The whole machine. -/
structure State where
  /-- the warp whose turn it is, or last was; the other warps in slots -/
  warp : Warp
  others : List Warp
  cores : List Core
  clusters : List Cluster
  homes : Homes
  regions : List Region
  launches : List Launch
  gangs : List Gang
  monarch : Monarch
  fabric : Fabric
  agenda : List Turn
  subject : Subject
  /-- cycles since power-on, package global time in nanoseconds (R38) -/
  clock : Nat
  gtime : Nat
deriving DecidableEq, Repr

/-- Why a step stops the machine. -/
inductive Fault where
  /-- Raised by `step` alone, once die C3 has failed while the standby held control (R372: the module stops). Safe: nothing
  runs on a stopped module. -/
  | moduleStopped
deriving DecidableEq, Repr

/-- Why the model gives no meaning. -/
inductive Refusal where
  /-- Raised by an arm of `exec` whose instruction has no meaning in the model yet. Safe. -/
  | notModelled (mnemonic : String)
deriving DecidableEq, Repr

/-! ## Reset -/

/-- A queue nobody owns (R248). -/
def Queue.empty : Queue :=
  { owner := none, prog := [], suppressed := false, areg := ArrayReg.start, i0 := 0, i1 := 0, i2 := 0, entries := [],
    remain := 0 }

/-- A partition at power-on (R229, R230). -/
def Partition.reset : Partition :=
  { withdrawn := false, spare := none, rotation := 1, faults := [], stuck := [] }

/-- A core that holds nothing. -/
def Core.reset (pcn : Nat) : Core :=
  { pcn := pcn, enabled := false, loaded := false, rid := 0, ptroot := 0, keyid := 0, split := 0, tgen := 0, dupn := 0, trapmode := 0,
    coalesce := false, sram := [], sramPoison := [], l1 := [], reserved := [], tlb := [], icache := [], ccache := [], footprint := [],
    copies := [], nextCopy := 0, queues := Vector.replicate 4 Queue.empty, pmark := Vector.replicate 8 0, permits := 4,
    coalesced := [], samplePeriod := none, sampleDue := false, parts := Vector.replicate 4 Partition.reset, causal := 0 }

/-- A cluster at boot: every freeze mask bit 1 (R379). -/
def Cluster.reset (id : Nat) : Cluster :=
  { id := id, tlb := [], ring := [], frozen := false, left := none, leftBefore := none, mask := 0xFF, dropped := 0, thisCycle := (0, 0) }

/-- R49: a warp as a launch starts it, but for its place and what it belongs to, which are zero here. -/
def Warp.start : Warp :=
  { pcn := 0, cw := 0, status := .free, launch := 0, gang := 0, block := 0, index := some 0, rid := 0, khdr := 0,
    varch := 16, vren := 16, trapvec := 0, recVa := 0, recAt := none, pc := 0, active := 0xFFFFFFFF#32, stack := [],
    sreg := Vector.replicate 64 0, sshd := (Vector.replicate 64 (Shadow.bounded 0 0)).set 1 .unbounded,
    vreg := Vector.replicate 128 (Vector.replicate 32 0), vshd := Vector.replicate 128 (.bounded 0 0),
    preg := Vector.replicate 8 0, areg := Vector.replicate 16 ArrayReg.start, mode := 7, flg := 0,
    xs0 := 1, xs1 := 0x9E3779B97F4A7C15#64, xrep := 0, xpc := 0, xmask := 0, xcause := 0, xrec := 0,
    feeds := Vector.replicate 4 (Vector.replicate 32 0), tdepth := 0, repip := false, laneTrap := none, pin := 0, tileAcc := false, sums := [],
    dupCount := 0, lastSeal := 0, exclude := 0, rerun := false, rep := none, wait := none, stores := [], ahead := [], taken := [], distrust := [], clkOff := 0,
    pending := [], records := [], backoff := 64, permit := false, stepping := false, resumed := false, resumedRep := false, causalHits := 0,
    hold := 0, waitSince := 0, departed := false, haltCause := 0 }

/-- The homes at power-on: nothing owned, cached, poisoned or marked; every tag V = 0 (R362). -/
def Homes.reset : Homes :=
  { mem := [], fresh := [], poison := [], stored := [], owners := [], lines := [], marks := [], msc := [], channels := [] }

/-- The Monarch before power: OFF (R377), an empty flash, the default carve-out (R12). -/
def Monarch.reset : Monarch :=
  { power := .off, image := [], firmware := [], svn := 0, carve := 2, integrity := false, encryption := false, heap := 0,
    dbiw := (0, 0), fwhash := 0, serial := 0, cen := 0, standby := false, seen := [], keys := [], report := [], log := [],
    clockMHz := 2400, calm := 0, causal := none, scores := [], functions := [], bar0 := [], hostRead := [], hostAttached := true,
    nextLaunch := 1, stopped := false }

/-- The module before power is applied (R377). No warp is resident: the current slot is FREE; the registers it holds are those
of R49, which every warp starts with (DESIGN CHOICE, log 2). -/
def State.reset : State :=
  { warp := Warp.start, others := [], cores := [], clusters := [], homes := Homes.reset, regions := [], launches := [],
    gangs := [], monarch := Monarch.reset, fabric := { ports := [], lost := [], tables := [], sent := [], taken := [], restores := [] }, agenda := [], subject := {},
    clock := 0, gtime := 0 }

end Sys2Proof.Machine
end

