-- ==== Sys2Proof/Machine/Memory.lean ====
section
/-!
DEFINITION. Bytes: little-endian values (R2), sorted lists of cells, and memories in canonical form. A wide access is built from
bytes here and nowhere else.
-/

namespace Sys2Proof.Machine

/-! ## Little-endian values (R2) -/

/-- The low `n` bytes of a number, least significant first. -/
def bytesOf : Nat → Nat → List Byte
  | 0, _ => []
  | n + 1, v => BitVec.ofNat 8 v :: bytesOf n (v / 256)

/-- The number whose bytes, least significant first, are given. -/
def ofBytes : List Byte → Nat
  | [] => 0
  | b :: bs => b.toNat + 256 * ofBytes bs

/-- The numbers from `lo`, `n` of them. -/
def range : Nat → Nat → List Nat
  | _, 0 => []
  | lo, n + 1 => lo :: range (lo + 1) n

/-! ## Sorted cells -/

/-- The byte a sorted list of cells holds at an address. -/
def cellAt : List Host.Cell → Nat → Option Byte
  | [], _ => none
  | (k, b) :: rest, a => if k = a then some b else if a < k then none else cellAt rest a

/-- A sorted list of cells with one byte placed. -/
def placeCell : List Host.Cell → Nat → Byte → List Host.Cell
  | [], a, b => [(a, b)]
  | (k, c) :: rest, a, b =>
    if a < k then (a, b) :: (k, c) :: rest
    else if k = a then (a, b) :: rest
    else (k, c) :: placeCell rest a b

/-- A sorted list of cells with one address removed. -/
def dropCell : List Host.Cell → Nat → List Host.Cell
  | [], _ => []
  | (k, c) :: rest, a =>
    if a < k then (k, c) :: rest
    else if k = a then rest
    else (k, c) :: dropCell rest a

/-- Cells placed in order; a later one at the same address wins. -/
def placeCells (m : List Host.Cell) : List Host.Cell → List Host.Cell
  | [] => m
  | (a, b) :: rest => placeCells (placeCell m a b) rest

/-- Consecutive bytes as cells. -/
def cellsFrom : Nat → List Byte → List Host.Cell
  | _, [] => []
  | a, b :: bs => (a, b) :: cellsFrom (a + 1) bs

namespace Memory

/-- What a memory holds at an address. -/
def get (m : Memory) (a : Nat) : Byte := (cellAt m a).getD blank

/-- A memory with one byte written; writing what an unlisted address reads as removes the entry. -/
def put (m : Memory) (a : Nat) (b : Byte) : Memory := if b = blank then dropCell m a else placeCell m a b

/-- A memory with cells written in order. -/
def putCells (m : Memory) : List Host.Cell → Memory
  | [] => m
  | (a, b) :: rest => putCells (m.put a b) rest

/-- `n` bytes from an address. -/
def read (m : Memory) (a n : Nat) : List Byte := (range a n).map m.get

/-- Bytes written from an address on. -/
def write (m : Memory) (a : Nat) (bs : List Byte) : Memory := m.putCells (cellsFrom a bs)

/-- Every listed address at or above `lo`, strictly rising, and no entry blank. -/
def wfFrom : Nat → List Host.Cell → Bool
  | _, [] => true
  | lo, (a, b) :: rest => lo ≤ a && b != blank && wfFrom (a + 1) rest

/-- The canonical form. -/
def wf (m : Memory) : Bool := wfFrom 0 m

end Memory

/-- Addresses strictly rising, from `lo` on: the form of lists of cells that may hold blank bytes. -/
def sortedFrom : Nat → List Host.Cell → Bool
  | _, [] => true
  | lo, (a, _) :: rest => lo ≤ a && sortedFrom (a + 1) rest

/-! ## Sparse tables -/

/-- The first element with a property replaced, or the new one added at the end. -/
def replaceWhere {α : Type} (p : α → Bool) (x : α) : List α → List α
  | [] => [x]
  | y :: ys => if p y then x :: ys else y :: replaceWhere p x ys

/-- The first element with a property changed. -/
def changeWhere {α : Type} (p : α → Bool) (f : α → α) : List α → List α
  | [] => []
  | y :: ys => if p y then f y :: ys else y :: changeWhere p f ys

/-! ## CRC-32C (R189, R275)

Polynomial 0x1EDC_6F41. The spec names the polynomial alone; bit order, initial value and final inversion are those of the
Castagnoli CRC in common use (PRESUMED, log 12). -/

/-- One bit of the reflected CRC. -/
def crcBit (c : Word) : Word := if c.getLsbD 0 then (c >>> 1) ^^^ 0x82F63B78#32 else c >>> 1

/-- One byte. -/
def crcByte (c : Word) (b : Byte) : Word :=
  let x := c ^^^ b.setWidth 32
  crcBit (crcBit (crcBit (crcBit (crcBit (crcBit (crcBit (crcBit x)))))))

/-- CRC-32C of a byte string. -/
def crc32c (bs : List Byte) : Word := (bs.foldl crcByte 0xFFFFFFFF#32) ^^^ 0xFFFFFFFF#32

end Sys2Proof.Machine
end

