-- ==== Sys2Proof/Machine/Crypto.lean ====
section
/-!
DEFINITION. The algorithms the spec names: SHA-384 and ECDSA on the 384-bit Brainpool curve (R1, R373-R375), AES-256 in the XTS mode of
IEEE 1619 (R367), and the GMAC of NIST SP 800-38D (R368). Their constants and tables are those of the standards (PRESUMED, log 11).
-/

namespace Sys2Proof.Machine

/-! ## SHA-384 (R1) -/

/-- The first 64 bits of the fractional part of the n-th root (n = 2 or 3) of a number below 512. -/
def rootFraction (n p : Nat) : Nat :=
  ((range 0 70).foldl (fun x i => if (x + 2 ^ (69 - i)) ^ n ≤ p * 2 ^ (64 * n) then x + 2 ^ (69 - i) else x) 0) % 2 ^ 64

/-- The first 80 primes. -/
def firstPrimes : List Nat := (range 2 408).filter fun n => (range 2 (n - 2)).all fun d => n % d != 0

/-- A number as its bytes, most significant first. -/
def bytesBE (n v : Nat) : List Byte := (bytesOf n v).reverse

/-- The number whose bytes, most significant first, are given. -/
def ofBytesBE (bs : List Byte) : Nat := ofBytes bs.reverse

/-- The message schedule, newest word first: `n` words more than the sixteen of a block. -/
def schedule : Nat → List DWord → List DWord
  | 0, ws => ws
  | n + 1, ws =>
    let x := ws.getD 1 0
    let y := ws.getD 14 0
    let s1 := x.rotateRight 19 ^^^ x.rotateRight 61 ^^^ x >>> 6
    let s0 := y.rotateRight 1 ^^^ y.rotateRight 8 ^^^ y >>> 7
    schedule n ((s1 + ws.getD 6 0 + s0 + ws.getD 15 0) :: ws)

/-- One round on the eight working words. -/
def shaRound (v : List DWord) (kw : DWord × DWord) : List DWord :=
  match v with
  | [a, b, c, d, e, f, g, h] =>
    let t1 := h + (e.rotateRight 14 ^^^ e.rotateRight 18 ^^^ e.rotateRight 41) + (e &&& f ^^^ ~~~e &&& g) + kw.1 + kw.2
    let t2 := (a.rotateRight 28 ^^^ a.rotateRight 34 ^^^ a.rotateRight 39) + (a &&& b ^^^ a &&& c ^^^ b &&& c)
    [t1 + t2, a, b, c, d + t1, e, f, g]
  | _ => v

/-- The round constants. -/
def shaConstants : List DWord := firstPrimes.map fun p => BitVec.ofNat 64 (rootFraction 3 p)

/-- The hash value after one 128-byte block. -/
def shaBlock (ks : List DWord) (h : List DWord) (block : List Byte) : List DWord :=
  let first := (range 0 16).map fun i => BitVec.ofNat 64 (ofBytesBE ((block.drop (8 * i)).take 8))
  h.zipWith (· + ·) ((ks.zip (schedule 64 first.reverse).reverse).foldl shaRound h)

/-- SHA-384 of a byte string: 48 bytes. -/
def sha384 (bs : List Byte) : List Byte :=
  let pad := (128 + 111 - bs.length % 128) % 128
  let all := bs ++ 0x80 :: List.replicate pad 0 ++ bytesBE 16 (8 * bs.length)
  let start := ((firstPrimes.drop 8).take 8).map fun p => BitVec.ofNat 64 (rootFraction 2 p)
  let h := (range 0 (all.length / 128)).foldl (fun h i => shaBlock shaConstants h ((all.drop (128 * i)).take 128)) start
  (h.take 6).flatMap fun x => bytesBE 8 x.toNat

/-! ## ECDSA (R1, R373, R375) -/

/-- The field of brainpoolP384r1 (RFC 5639). -/
def curveP : Nat := 0x8CB91E82A3386D280F5D6F7E50E641DF152F7109ED5456B412B1DA197FB71123ACD3A729901D1A71874700133107EC53
/-- The curve's coefficient A. -/
def curveA : Nat := 0x7BC382C63D8C150C3C72080ACE05AFA0C2BEA28E4FB22787139165EFBA91F90F8AA5814A503AD4EB04A8C7DD22CE2826
/-- The curve's coefficient B. -/
def curveB : Nat := 0x04A8C7DD22CE28268B39B55416F0447C2FB77DE107DCD2A62E880EA53EEB62D57CB4390295DBC9943AB78696FA504C11
/-- The order of its base point. -/
def curveQ : Nat := 0x8CB91E82A3386D280F5D6F7E50E641DF152F7109ED5456B31F166E6CAC0425A7CF3AB6AF6B7FC3103B883202E9046565
/-- Its base point. -/
def basePoint : Nat × Nat :=
  (0x1D1C64F068CF45FFA2A63A81B7C13F6B8847A3E77EF14FE3DB7FCAFE0CBD10E8E826E03436D646AAEF87B2E247D4AF1E,
   0x8ABE1D7520F9C2A45CB1EB8E95CFD55262B70B29FEEC5864E19C054FF99129280E4646217791811142820341263C5315)

/-- A power modulo m, the exponent below 2^384. -/
def modPow (b e m : Nat) : Nat :=
  (range 0 384).foldl (fun x i => if e.testBit (383 - i) then x * x % m * b % m else x * x % m) (1 % m)

/-- The inverse modulo a prime. -/
def modInv (b m : Nat) : Nat := modPow (b % m) (m - 2) m

/-- The sum of two points of the curve; none is the point at infinity. -/
def curveAdd : Option (Nat × Nat) → Option (Nat × Nat) → Option (Nat × Nat)
  | none, b => b
  | a, none => a
  | some (x1, y1), some (x2, y2) =>
    let p := curveP
    if x1 = x2 ∧ (y1 + y2) % p = 0 then none
    else
      let l := if x1 = x2 then (3 * x1 * x1 + curveA) * modInv (2 * y1) p % p else (y2 + p - y1) * modInv (x2 + p - x1) p % p
      let x := (l * l + 2 * p - x1 - x2) % p
      some (x, (l * (x1 + p - x) + p - y1) % p)

/-- A multiple of a point, the factor below 2^384. -/
def curveMul (k : Nat) (a : Nat × Nat) : Option (Nat × Nat) :=
  (range 0 384).foldl (fun t i =>
    let t := curveAdd t t
    if k.testBit (383 - i) then curveAdd t (some a) else t) none

/-- Whether a point lies on the curve. -/
def onCurve (a : Nat × Nat) : Bool :=
  a.1 < curveP && a.2 < curveP && a.2 * a.2 % curveP == (a.1 * a.1 % curveP * a.1 + curveA * a.1 + curveB) % curveP

/-- R374: whether 96 bytes, r then s, each most significant byte first, sign a byte string under a public key. -/
def signatureOk (key : Nat × Nat) (bs sig : List Byte) : Bool :=
  let r := ofBytesBE (sig.take 48)
  let t := ofBytesBE ((sig.drop 48).take 48)
  let w := modInv t curveQ
  let e := ofBytesBE (sha384 bs)
  sig.length == 96 && onCurve key && 0 < r && r < curveQ && 0 < t && t < curveQ &&
    (match curveAdd (curveMul (e * w % curveQ) basePoint) (curveMul (r * w % curveQ) key) with
    | none => false
    | some x => x.1 % curveQ == r)

/-- R375: the signature of a byte string under a private key and a nonce. -/
def sign (key nonce : Nat) (bs : List Byte) : List Byte :=
  let k := nonce % curveQ
  let r := (curveMul k basePoint).elim 0 fun x => x.1 % curveQ
  let t := modInv k curveQ * (ofBytesBE (sha384 bs) + r * key) % curveQ
  bytesBE 48 r ++ bytesBE 48 t

/-! ## AES-256 (R367) -/

/-- A product in the field of 2^8 elements. -/
def fieldMul (a b : Byte) : Byte :=
  (range 0 8).foldl (fun x i =>
    let x := if x.getLsbD 7 then (x <<< 1) ^^^ 0x1B else x <<< 1
    if b.getLsbD (7 - i) then x ^^^ a else x) 0

/-- The inverse in that field, and 0 for 0: the 254th power. -/
def fieldInv (a : Byte) : Byte := (range 0 7).foldl (fun x i => if i < 6 then fieldMul (fieldMul x x) a else fieldMul x x) a

/-- The substitution of a byte. -/
def subByte (a : Byte) : Byte :=
  let x := fieldInv a
  x ^^^ x.rotateLeft 1 ^^^ x.rotateLeft 2 ^^^ x.rotateLeft 3 ^^^ x.rotateLeft 4 ^^^ 0x63

/-- Its inverse. -/
def unsubByte (a : Byte) : Byte := fieldInv (a.rotateLeft 1 ^^^ a.rotateLeft 3 ^^^ a.rotateLeft 6 ^^^ 0x05)

/-- Bytes added one by one. -/
def xorBytes (a b : List Byte) : List Byte := a.zipWith (· ^^^ ·) b

/-- The key schedule, newest word first; `i` is the number of the next word. -/
def expandKey : Nat → Nat → List (List Byte) → List (List Byte)
  | 0, _, ws => ws
  | n + 1, i, ws =>
    let prev := ws.headD []
    let t := if i % 8 = 0 then
        xorBytes ((prev.drop 1 ++ prev.take 1).map subByte) [(range 1 (i / 8 - 1)).foldl (fun x _ => fieldMul x 2) 1, 0, 0, 0]
      else if i % 8 = 4 then prev.map subByte else prev
    expandKey n (i + 1) (xorBytes (ws.getD 7 []) t :: ws)

/-- The 15 round keys of a 256-bit key. -/
def roundKeys (key : List Byte) : List (List Byte) :=
  let words := (expandKey 52 8 ((range 0 8).map fun i => (key.drop (4 * i)).take 4).reverse).reverse
  (range 0 15).map fun r => ((words.drop (4 * r)).take 4).flatten

/-- A block's bytes with row r moved by r columns, forward or back. -/
def shiftRows (back : Bool) (b : List Byte) : List Byte :=
  (range 0 16).map fun i => b.getD (i % 4 + 4 * ((i / 4 + (if back then 4 - i % 4 else i % 4)) % 4)) 0

/-- A block's columns multiplied by the polynomial whose coefficients are given. -/
def mixColumns (m : List Byte) (b : List Byte) : List Byte :=
  (range 0 16).map fun i => (range 0 4).foldl (fun x k => x ^^^ fieldMul (m.getD ((k + 4 - i % 4) % 4) 0) (b.getD (i / 4 * 4 + k) 0)) 0

/-- One block enciphered. -/
def aesEncrypt (key block : List Byte) : List Byte :=
  let ks := roundKeys key
  let s := (range 1 13).foldl (fun s r => xorBytes (mixColumns [2, 3, 1, 1] (shiftRows false (s.map subByte))) (ks.getD r []))
    (xorBytes block (ks.getD 0 []))
  xorBytes (shiftRows false (s.map subByte)) (ks.getD 14 [])

/-- One block deciphered. -/
def aesDecrypt (key block : List Byte) : List Byte :=
  let ks := roundKeys key
  let s := (range 1 13).foldl (fun s r => mixColumns [14, 11, 13, 9] (xorBytes ((shiftRows true s).map unsubByte) (ks.getD (14 - r) [])))
    (xorBytes block (ks.getD 14 []))
  xorBytes ((shiftRows true s).map unsubByte) (ks.getD 0 [])

/-! ## XTS (R367) -/

/-- The two keys that a key id names, of a number that holds the first in its low 256 bits (log 11). -/
def keyPair (k : Nat) : List Byte × List Byte := (bytesOf 32 k, bytesOf 32 (k / 2 ^ 256))

/-- A tweak for the next block. -/
def nextTweak (t : Nat) : Nat := if t < 2 ^ 127 then 2 * t else (2 * t - 2 ^ 128) ^^^ 0x87

/-- R367: a data unit of three blocks passed through XTS, its tweak the number of its sector. -/
def xts (cipher : List Byte → List Byte → List Byte) (k sector : Nat) (bs : List Byte) : List Byte :=
  let t := ofBytes (aesEncrypt (keyPair k).2 (bytesOf 16 sector))
  [t, nextTweak t, nextTweak (nextTweak t)].zipIdx.flatMap fun x =>
    xorBytes (cipher (keyPair k).1 (xorBytes ((bs.drop (16 * x.2)).take 16) (bytesOf 16 x.1))) (bytesOf 16 x.1)

/-- R367: what 48 bytes written under one key read as under another; a key is one more than its number, and 0 stands for plaintext. -/
def recrypt (sector k1 k2 : Nat) (bs : List Byte) : List Byte :=
  let raw := if k1 = 0 then bs else xts aesEncrypt (k1 - 1) sector bs
  if k2 = 0 then raw else xts aesDecrypt (k2 - 1) sector raw

/-! ## GMAC (R368) -/

/-- A product in the field of 2^128 elements, the first bit of a block being its most significant. -/
def ghashMul (x y : Nat) : Nat :=
  ((range 0 128).foldl (fun (z : Nat × Nat) i =>
    (if x.testBit (127 - i) then z.1 ^^^ z.2 else z.1, if z.2 % 2 = 1 then z.2 / 2 ^^^ (0xE1 * 2 ^ 120) else z.2 / 2)) (0, y)).1

/-- R368: the leftmost 48 bits of the GMAC of a line's stored bytes and its physical address under its key's second key. The nonce, and how
the two are joined, are not stated (log 11). -/
def lineTag (line k : Nat) (raw : List Byte) : List Byte :=
  let key := (keyPair (k - 1)).2
  let text := raw ++ bytesOf 8 (192 * line) ++ List.replicate 8 0
  let h := ofBytesBE (aesEncrypt key (List.replicate 16 0))
  let blocks := (range 0 13).map (fun i => ofBytesBE ((text.drop (16 * i)).take 16)) ++ [8 * 200 * 2 ^ 64]
  let g := blocks.foldl (fun x b => ghashMul (x ^^^ b) h) 0
  (xorBytes (bytesBE 16 g) (aesEncrypt key (bytesBE 12 (Config.tagNonce line) ++ bytesBE 4 1))).take 6

end Sys2Proof.Machine
end

