-- ==== Sys2Proof/Machine/Homes.lean ====
section
/-!
DEFINITION. Where bytes live: the physical map (R347, R348), the homes with their ownership records (R292-R298), the memory
controllers behind them (R350, R361-R370), and the cores' L1 (R233, R297).
-/

namespace Sys2Proof.Machine

namespace State

/-! ## Lookups -/

/-- The core with a package core number (R9); a core nothing has touched is as at power-on. -/
def core (s : State) (pcn : Nat) : Core := (s.cores.find? (fun c => c.pcn == pcn)).getD (Core.reset pcn)

/-- A core replaced. -/
def setCore (s : State) (c : Core) : State := { s with cores := replaceWhere (fun x => x.pcn == c.pcn) c s.cores }

/-- A core changed. -/
def modifyCore (s : State) (pcn : Nat) (f : Core → Core) : State := s.setCore (f (s.core pcn))

/-- The cluster of a core: clusters are numbered 16 × die + cluster. -/
def clusterOf (pcn : Nat) : Nat := pcn / 4

/-- A cluster; one nothing has touched is as at boot. -/
def cluster (s : State) (id : Nat) : Cluster := (s.clusters.find? (fun c => c.id == id)).getD (Cluster.reset id)

/-- A cluster replaced. -/
def setCluster (s : State) (c : Cluster) : State :=
  { s with clusters := replaceWhere (fun x => x.id == c.id) c s.clusters }

/-- A region by its id. -/
def region? (s : State) (rid : Nat) : Option Region := s.regions.find? (fun r => r.rid == rid)

/-- A region changed. -/
def modifyRegion (s : State) (rid : Nat) (f : Region → Region) : State :=
  { s with regions := changeWhere (fun r => r.rid == rid) f s.regions }

/-- A launch by its number. -/
def launch? (s : State) (id : Nat) : Option Launch := s.launches.find? (fun l => l.id == id)

/-- A launch changed. -/
def modifyLaunch (s : State) (id : Nat) (f : Launch → Launch) : State :=
  { s with launches := changeWhere (fun l => l.id == id) f s.launches }

/-- A gang of a launch. -/
def gang? (s : State) (launch gang : Nat) : Option Gang :=
  s.gangs.find? (fun g => g.launch == launch && g.index == gang)

/-- A gang changed. -/
def modifyGang (s : State) (launch gang : Nat) (f : Gang → Gang) : State :=
  { s with gangs := changeWhere (fun g => g.launch == launch && g.index == gang) f s.gangs }

/-- The ownership records replaced. -/
def setOwners (s : State) (o : List OwnRec) : State := { s with homes := { s.homes with owners := o } }

/-- The slices' lines replaced. -/
def setLines (s : State) (l : List SliceLine) : State := { s with homes := { s.homes with lines := l } }

/-- The poison replaced. -/
def setPoisons (s : State) (p : List (Nat × BitVec 12)) : State := { s with homes := { s.homes with poison := p } }

/-- The poison that the controllers store replaced. -/
def setStored (s : State) (p : List (Nat × BitVec 12)) : State := { s with homes := { s.homes with stored := p } }

/-- The channels replaced. -/
def setChannels (s : State) (c : List Channel) : State := { s with homes := { s.homes with channels := c } }

/-- The spare-bit marks replaced. -/
def setMarks (s : State) (m : List LineMark) : State := { s with homes := { s.homes with marks := m } }

/-- The tags of the memory-side cache replaced. -/
def setMsc (s : State) (m : List MscTag) : State := { s with homes := { s.homes with msc := m } }

/-- The controllers' bytes replaced. -/
def setMem (s : State) (m : Memory) : State := { s with homes := { s.homes with mem := m } }

/-- The slices' unwritten bytes replaced. -/
def setFresh (s : State) (m : List Host.Cell) : State := { s with homes := { s.homes with fresh := m } }

/-- A core's L1 replaced. -/
def setL1 (s : State) (pcn : Nat) (l : List L1Line) : State := s.modifyCore pcn fun c => { c with l1 := l }

/-- Something logged or reported by the Monarch. -/
def report (s : State) (code : Nat) (data : List Nat) : State :=
  { s with monarch := { s.monarch with log := s.monarch.log ++ [⟨code, data⟩] } }

end State

/-! ## The physical map (R347) -/

/-- What serves a physical address. -/
inductive Place where
  | direct (stack : Nat)
  | tags (stack : Nat)
  | tier (die : Nat)
  | monarch
  | hole
deriving DecidableEq, Repr

/-- 1 GiB. -/
abbrev gib : Nat := 1073741824

/-- Bytes of direct space of each stack: D = 64 GiB − C/8, with C in units of 64 GiB. -/
def directBytes (carve : Nat) : Nat := 64 * gib - carve * 8 * gib

/-- Bytes of capacity tier of each die: V = min(256 GiB, 2 × C). -/
def tierBytes (carve : Nat) : Nat := min (256 * gib) (carve * 128 * gib)

/-- R347: the place of a physical address. -/
def placeOf (m : Monarch) (pa : Nat) : Place :=
  if pa < 512 * gib then
    let o := pa % (64 * gib)
    let d := directBytes m.carve
    if o < d then
      if m.integrity && d - d / 32 ≤ o then .tags (pa / (64 * gib)) else .direct (pa / (64 * gib))
    else .hole
  else if 1024 * gib ≤ pa ∧ pa < 2048 * gib then
    if pa % (256 * gib) < tierBytes m.carve then .tier ((pa - 1024 * gib) / (256 * gib)) else .hole
  else if 2251799813685248 ≤ pa ∧ pa < 4503599627370496 then .monarch
  else .hole

/-- The line of a physical address (R5, R292). -/
def lineOf (pa : Nat) : Nat := pa / 192

/-- The sector of a physical address; the line holds four of them, the text says three (log 1). -/
def sectorOf (pa : Nat) : Nat := pa / 48

/-- The first byte of a line that anything serves (R348): that of its first burst (R349) outside a hole (R350). -/
def servedByte (m : Monarch) (line : Nat) : Nat :=
  if placeOf m (line * 192) != .hole then line * 192
  else if placeOf m (line * 192 + 64) != .hole then line * 192 + 64
  else line * 192 + 128

/-- R292, R348: the home die of a line. -/
def homeDie (m : Monarch) (line : Nat) : Nat :=
  match placeOf m (servedByte m line) with
  | .direct k => k / 2
  | .tags k => k / 2
  | .tier d => d
  | _ => 0

/-- R292, R293: the slice and the set of a line: home die, slice, set. -/
def sliceSet (m : Monarch) (line : Nat) : Nat × Nat × Nat := (homeDie m line, line % 16, line / 16 % 2048)

/-- The stack whose range a line belongs to: that of its first served byte (R350). -/
def lineStack (m : Monarch) (line : Nat) : Nat := servedByte m line / (64 * gib)

/-- R349: the line index within its stack; the edge line at the base of a stack is line 0 of it (R350). -/
def lineIndex (m : Monarch) (line : Nat) : Nat := line - lineStack m line * (64 * gib) / 192

/-- R349: where a line of direct space is stored: stack, channel and pseudo-channel. -/
def lineChannel (m : Monarch) (line : Nat) : Nat × Nat × Nat :=
  (lineStack m line, lineIndex m line % 32, lineIndex m line / 32 % 2)

/-- R368: the address of a line's tag: byte 6i of its stack's tag region. -/
def tagAddress (m : Monarch) (line : Nat) : Nat :=
  let d := directBytes m.carve
  lineStack m line * (64 * gib) + (d - d / 32) + 6 * lineIndex m line

/-- R361: the sets of a die's memory-side cache. -/
def mscSets (m : Monarch) : Nat := m.carve * 64 * gib / 8192

/-- R361: where a set of a die's memory-side cache lies: its stack, and its first byte in that stack's carve-out. -/
def mscPlace (die set : Nat) : Nat × Nat := (2 * die + set % 2, set / 2 * 2048)

/-- R349: a channel; one nothing has happened to starts in DBI-DC. -/
def Channel.fresh (stack ch : Nat) : Channel := ⟨stack, ch, false, false, (0, 0), (0, 0), false⟩

/-! ## Poison (R308, R309) -/

/-- The words of a sector that are poisoned. -/
def poisonSet : List (Nat × BitVec 12) → Nat → BitVec 12
  | [], _ => 0
  | (k, w) :: rest, sector => if k = sector then w else poisonSet rest sector

/-- The poison of a sector set; an empty set is not kept. -/
def setPoison : List (Nat × BitVec 12) → Nat → BitVec 12 → List (Nat × BitVec 12)
  | [], sector, w => if w = 0 then [] else [(sector, w)]
  | (k, x) :: rest, sector, w =>
    if k = sector then (if w = 0 then rest else (k, w) :: rest) else (k, x) :: setPoison rest sector w

/-- Whether every byte of the aligned word at `wa` is among cells. -/
def coversWord (cells : List Host.Cell) (wa : Nat) : Bool :=
  (range wa 4).all fun a => cells.any fun c => c.1 == a

namespace State

/-- A sector wholly poisoned (R309). -/
def poisonSector (s : State) (sector : Nat) : State :=
  s.setPoisons (setPoison s.homes.poison sector 0xFFF#12)

/-- The sectors of a line poisoned in its slice (R308). -/
def poisonLine (s : State) (line : Nat) : State := (range (line * 4) 4).foldl poisonSector s

/-- Whether the home word of a byte is poisoned. -/
def poisonedAt (s : State) (pa : Nat) : Bool :=
  (poisonSet s.homes.poison (sectorOf pa)).getLsbD (pa % 48 / 4)

/-- Poison without the words that cells cover whole. -/
def freedPoison (p : List (Nat × BitVec 12)) (cells : List Host.Cell) : List (Nat × BitVec 12) :=
  cells.foldl (fun p c =>
    if c.1 % 4 = 0 && coversWord cells c.1 then
      setPoison p (sectorOf c.1) (poisonSet p (sectorOf c.1) &&& ~~~ (1#12 <<< (c.1 % 48 / 4)))
    else p) p

/-- The poison of a line written to its controller with bytes of it (R309, R350): words written whole are poisoned only if the slice has
them so. -/
def storePoison (s : State) (line : Nat) (dirty : List Host.Cell) : State :=
  (range (line * 4) 4).foldl (fun s k =>
    s.setStored (setPoison s.homes.stored k (poisonSet s.homes.stored k ||| poisonSet s.homes.poison k)))
    (s.setStored (freedPoison s.homes.stored dirty))

/-- A line that its slice gives up is poisoned as its controller stores it. -/
def showStored (s : State) (line : Nat) : State :=
  (range (line * 4) 4).foldl (fun s k => s.setPoisons (setPoison s.homes.poison k (poisonSet s.homes.stored k))) s

/-- R309: the words that cells cover whole leave the poison set. -/
def clearPoison (s : State) (cells : List Host.Cell) : State := s.setPoisons (freedPoison s.homes.poison cells)

/-! ## Marks, keys and what a sector reads as (R350, R367) -/

/-- The spare-bit mark of a line. -/
def mark (s : State) (line : Nat) : LineMark := (s.homes.marks.find? (fun x => x.line == line)).getD ⟨line, 0, 0⟩

/-- A line's mark set; the mark of a line nothing has written is not kept. -/
def setMark (s : State) (x : LineMark) : State :=
  s.setMarks (if x.key = 0 ∧ x.stamp = 0 then s.homes.marks.filter (fun y => y.line != x.line)
    else replaceWhere (fun y => y.line == x.line) x s.homes.marks)

/-- The slice's entry for a line. -/
def sliceLine? (s : State) (line : Nat) : Option SliceLine := s.homes.lines.find? (fun x => x.line == line)

/-- A sector wholly poisoned as its controller stores it (R364, R368, R369). A copy of it that its slice holds keeps its values: whole,
where the sector is valid there, else the words not yet written back (R369). -/
def poisonStored (s : State) (sector : Nat) : State :=
  let s := s.setStored (setPoison s.homes.stored sector 0xFFF#12)
  if (s.sliceLine? (sector / 4)).any fun l => l.valid.getLsbD (sector % 4) then s
  else
    let seen := freedPoison [(sector, 0xFFF#12)] (s.homes.fresh.filter fun c => sectorOf c.1 == sector)
    s.setPoisons (setPoison s.homes.poison sector (poisonSet s.homes.poison sector ||| poisonSet seen sector))

/-- The key a key id names (R367, R375): 0 for plaintext, else one more than the number loaded for it. -/
def keyValue (s : State) (k : BitVec 6) : Nat :=
  if k = 0 then 0 else ((s.monarch.keys.lookup k.toNat).getD (Config.blankKey k.toNat)) + 1

/-- Bytes of a sector written under one key as they read under another (R367). -/
def recode (s : State) (sector : Nat) (k1 k2 : BitVec 6) (bs : List Byte) : List Byte :=
  if s.monarch.encryption && k1 != k2 then
    recrypt sector (s.keyValue k1) (s.keyValue k2) bs
  else bs

/-- What the controller holds of a sector, as it reads under a key. -/
def storedSector (s : State) (key : BitVec 6) (sector : Nat) : List Byte :=
  s.recode sector (s.mark (sector / 4)).key key (s.homes.mem.read (sector * 48) 48)

/-- What a home returns of a sector under a key: the slice's unwritten bytes over what the controller holds (R367). -/
def homeSector (s : State) (key : BitVec 6) (sector : Nat) : List Byte :=
  match s.sliceLine? (sector / 4) with
  | none => s.storedSector key sector
  | some l =>
    let base := s.storedSector l.key sector
    let held := (range (sector * 48) 48).zipWith (fun a b => (cellAt s.homes.fresh a).getD b) base
    s.recode sector l.key key held

/-- One byte at its home, under a key. -/
def homeByte (s : State) (key : BitVec 6) (pa : Nat) : Byte :=
  match s.sliceLine? (lineOf pa) with
  | none =>
    if s.monarch.encryption && (s.mark (lineOf pa)).key != key then
      (s.storedSector key (sectorOf pa)).getD (pa % 48) 0
    else s.homes.mem.get pa
  | some l =>
    if s.monarch.encryption && (l.key != key || (s.mark (lineOf pa)).key != l.key) then
      (s.homeSector key (sectorOf pa)).getD (pa % 48) 0
    else (cellAt s.homes.fresh pa).getD (s.homes.mem.get pa)

/-- Bytes at their homes. -/
def homeRead (s : State) (key : BitVec 6) (pa n : Nat) : List Byte := (range pa n).map (s.homeByte key)

/-! ## The memory-side cache (R361-R364) -/

/-- R370, R363: the lines whose first burst lies in a 2 KiB of the tier that comes to a set of the carve-out, or leaves it, record stamp
0: the spare bits that hold the stamp are those of the carve-out (R350). -/
def clearStamps (s : State) (pa : Nat) : State :=
  s.setMarks (s.homes.marks.map fun m => if servedByte s.monarch m.line / 2048 = pa / 2048 then { m with stamp := 0 } else m)

/-- R362: a request for bytes of one tier sector at its die's controller. `wb`: a write-back. -/
def mscPart (s : State) (pa : Nat) (wb : Bool) : State :=
  match placeOf s.monarch pa with
  | .tier die =>
    let u := (pa - 1024 * gib - die * (256 * gib)) / 2048
    let sets := mscSets s.monarch
    let i := u % sets
    let al := u / sets
    match s.homes.msc.find? (fun t => t.die == die && t.set == i) with
    | some t =>
      if t.alias_ = al then
        if wb then
          s.setMsc (changeWhere (fun x => x.die == die && x.set == i) (fun x => { x with dirty := true }) s.homes.msc)
        else s
      else
        let old := 1024 * gib + die * (256 * gib) + (t.alias_ * sets + i) * 2048
        ((s.setMsc (replaceWhere (fun x => x.die == die && x.set == i) ⟨die, i, wb, al⟩ s.homes.msc)).clearStamps old).clearStamps pa
    | none =>
      (s.setMsc (replaceWhere (fun x => x.die == die && x.set == i) ⟨die, i, wb, al⟩ s.homes.msc)).clearStamps pa
  | _ => s

/-- R363: a request for up to 192 bytes, split at the 2 KiB boundary, the lower part first. -/
def mscRequest (s : State) (pa n : Nat) (wb : Bool) : State :=
  let s := s.mscPart pa wb
  if pa / 2048 = (pa + n - 1) / 2048 then s else s.mscPart (pa + n - 1) wb

/-- R363: a write-back of some bytes of a line: each tier sector that holds any of them is written, the lower first. -/
def mscWrite (s : State) (cells : List Host.Cell) : State :=
  (cells.map fun c => c.1 / 2048).eraseDups.foldl (fun s u => s.mscPart (2048 * u) true) s

/-- R360: a request to a line of direct space brings its channel out of self-refresh, and is then served. The spec does not say in
which channel a byte of the carve-out lies (R361): a request to the tier wakes none here (DESIGN CHOICE, log 68). -/
def wake (s : State) (line : Nat) : State :=
  match placeOf s.monarch (servedByte s.monarch line) with
  | .tier _ => s
  | _ => s.setChannels (s.homes.channels.map fun c =>
      if c.stack = (lineChannel s.monarch line).1 ∧ c.ch = (lineChannel s.monarch line).2.1 then { c with selfRefresh := false } else c)

/-! ## The controllers (R345, R350, R368, R370) -/

/-- The bytes of a line as the controller stores them: ciphertext under the line's key (R345, R370). -/
def rawLine (s : State) (line : Nat) : List Byte :=
  (range (line * 4) 4).flatMap fun sec => s.storedSector 0 sec

/-- A line's stored poison bits and still-poisoned words, as a journal entry holds them (R345): sectors 0-2. The entry has no place
for the fourth sector of a line (log 1). -/
def linePoison (s : State) (line : Nat) : Nat × Nat :=
  (range 0 3).foldl (fun acc k =>
    let w := poisonSet s.homes.stored (line * 4 + k)
    (acc.1 + (if w = 0 then 0 else 2 ^ k), acc.2 + w.toNat * 2 ^ (12 * k))) (0, 0)

/-- R345: the journal entry of a line: its physical address, pre-image, sector poison bits and poisoned words. -/
def journalEntry (s : State) (line : Nat) : List Byte :=
  let p := s.linePoison line
  bytesOf 8 (line * 192) ++ s.rawLine line ++ bytesOf 1 p.1 ++ bytesOf 5 p.2 ++ List.replicate 50 0

/-- R368: the tag of a line under its key, from the bytes stored. -/
def tagOf (s : State) (line : Nat) : List Byte :=
  lineTag line (s.keyValue (s.mark line).key) (s.rawLine line)

/-- Whether a line carries an integrity tag (R368). -/
def tagged (s : State) (line : Nat) : Bool :=
  s.monarch.integrity && (s.mark line).key != 0 &&
    (match placeOf s.monarch (servedByte s.monarch line) with | .direct _ => true | _ => false)

/-- R368: a read of a line checks its tag, which wakes the channel that holds it (R360); a failed check poisons the line and is logged as
a tag failure. -/
def checkTag (s : State) (line : Nat) : State :=
  if s.tagged line then
    let s := s.wake (lineOf (tagAddress s.monarch line))
    if s.tagOf line != s.homes.mem.read (tagAddress s.monarch line) 6 then
      ((range (line * 4) 4).foldl poisonStored s).report 0x368 [line]
    else s
  else s

/-- Whether cells hold every byte of a range. -/
def coversBytes (cells : List Host.Cell) (pa n : Nat) : Bool := (range pa n).all fun a => (cellAt cells a).isSome

/-- The lines of a range of bytes. -/
def linesOf (pa n : Nat) : List Nat := range (lineOf pa) (lineOf (pa + n - 1) + 1 - lineOf pa)

/-- R350, R367: a line's stored bytes held as a write under a key leaves them. -/
def keyLine (s : State) (key : BitVec 6) (line : Nat) : State :=
  let m := s.mark line
  let bs := (range (line * 4) 4).flatMap (s.storedSector key)
  (if s.monarch.encryption && m.key != key then s.setMem (s.homes.mem.write (line * 192) bs) else s).setMark { m with key := key }

/-- Bytes placed in memory by the Monarch or a controller for itself, past the slices: each line's channel wakes, a line written in part
is read and its tag checked, and the memory-side cache takes the write (R350, R360, R362, R368). `key`: the key id they are written
under; none: bytes as stored. No tag is written. -/
def rawStore (s : State) (key : Option (BitVec 6)) (pa : Nat) (bs : List Byte) : State :=
  let cells := cellsFrom pa bs
  let s := (linesOf pa bs.length).foldl (fun s line =>
    let s := s.wake line
    let s := if coversBytes cells (line * 192) 192 then s else s.checkTag line
    key.elim s fun k => s.keyLine k line) s
  let s := s.mscWrite cells
  (((s.clearPoison cells).setStored (freedPoison s.homes.stored cells)).setMem (s.homes.mem.putCells cells)).setFresh
    (cells.foldl (fun m c => dropCell m c.1) s.homes.fresh)

/-- R368: the tags of lines written anew. -/
def sealLines (s : State) (lines : List Nat) : State :=
  lines.foldl (fun s line => if s.tagged line then s.rawStore none (tagAddress s.monarch line) (s.tagOf line) else s) s

/-- The lines that hold the tags of those lines that have one. -/
def tagLines (s : State) (lines : List Nat) : List Nat :=
  (lines.filter s.tagged).flatMap fun line => linesOf (tagAddress s.monarch line) 6

/-- R368: bytes placed so, with the tags of their lines, and those of lines that hold such tags beside other bytes. -/
def rawWrite (s : State) (key : Option (BitVec 6)) (pa : Nat) (bs : List Byte) : State :=
  let s := s.rawStore key pa bs
  let lines := linesOf pa bs.length
  (s.sealLines lines).sealLines (s.tagLines lines)

end State

/-! ## Page tables (R351-R353) -/

/-- The bytes a leaf of a level maps, as a power of two. -/
def leafBits (level : Nat) : Nat :=
  if level = 1 then 30 else if level = 2 then 21 else if level = 3 then 16 else 12

/-- R351: the index of a virtual address at a level. -/
def tableIndex (level va : Nat) : Nat :=
  if level = 0 then va / 2 ^ 39 % 512
  else if level = 1 then va / 2 ^ 30 % 512
  else if level = 2 then va / 2 ^ 21 % 512
  else if level = 3 then va / 2 ^ 16 % 32
  else va / 2 ^ 12 % 16

/-- Fields of a page-table entry (R352). -/
def pteValid (e : DWord) : Bool := e.getLsbD 0
/-- LEAF. -/
def pteLeaf (e : DWord) : Bool := e.getLsbD 1
/-- R. -/
def pteR (e : DWord) : Bool := e.getLsbD 2
/-- W. -/
def pteW (e : DWord) : Bool := e.getLsbD 3
/-- X. -/
def pteX (e : DWord) : Bool := e.getLsbD 4
/-- ATTR. -/
def pteAttr (e : DWord) : Nat := (e.extractLsb' 5 2).toNat
/-- PA[51:12] as a byte address. -/
def ptePa (e : DWord) : Nat := (e.extractLsb' 12 40).toNat * 4096
/-- KEY. -/
def pteKey (e : DWord) : BitVec 6 := e.extractLsb' 52 6
/-- FIX. -/
def pteFix (e : DWord) : Bool := e.getLsbD 61

/-- R348: whether every byte of a physical page may be mapped: the whole page lies in one direct or tier range. -/
def mappable (m : Monarch) (pa size : Nat) : Bool :=
  match placeOf m pa, placeOf m (pa + size - 1) with
  | .direct a, .direct b => a == b
  | .tier a, .tier b => a == b
  | _, _ => false

/-- R348, R352: whether a valid entry is malformed at a level. -/
def malformed (m : Monarch) (level : Nat) (e : DWord) : Bool :=
  (e.extractLsb' 62 2).toNat != 0 || (e.extractLsb' 7 5).toNat != 0 || pteAttr e ≥ 2
    || (pteLeaf e && level == 0) || (!pteLeaf e && level == 4)
    || (pteLeaf e && ptePa e % 2 ^ leafBits level != 0)
    || (pteLeaf e && !mappable m (ptePa e) (2 ^ leafBits level))
    || (!pteLeaf e && (pteFix e || (e.extractLsb' 58 3).toNat != 0 || pteKey e != 0 || pteAttr e != 0
          || pteX e || pteW e || pteR e))

namespace State

/-- The core that owns a word, if any (R294). -/
def ownerOf (s : State) (pa : Nat) : Option Nat :=
  (s.homes.owners.find? (fun r => r.line == lineOf pa && r.owned.getLsbD (pa % 192 / 4))).map OwnRec.owner

/-- The word of a core's L1, where it is valid. -/
def l1Word? (s : State) (pcn pa : Nat) : Option L1Word :=
  ((s.core pcn).l1.find? (fun l => l.line == lineOf pa)).bind fun l => l.words.find? (fun w => w.idx == pa % 192 / 4)

/-- A byte as any agent that reads it at its home sees it: the owner's, where it is owned and dirty (R295, R296). -/
def agentByte (s : State) (key : BitVec 6) (pa : Nat) : Byte :=
  match s.ownerOf pa with
  | some c =>
    match s.l1Word? c pa with
    | some w => if w.owned && w.dirty then w.value.extractLsb' (8 * (pa % 4)) 8 else s.homeByte key pa
    | none => s.homeByte key pa
  | none => s.homeByte key pa

/-- Bytes as an agent reads them at their homes. -/
def agentRead (s : State) (key : BitVec 6) (pa n : Nat) : List Byte := (range pa n).map (s.agentByte key)

/-- Whether a byte is poisoned for an agent that reads it at its home: a word that its owner wrote before the poisoning stays in the
set (R309). -/
def agentPoison (s : State) (pa : Nat) : Bool :=
  s.poisonedAt pa ||
    (match s.ownerOf pa with
    | some c => (s.l1Word? c pa).any fun w => w.owned && w.dirty && w.poison
    | none => false)

/-- R353: the table entry at a level, read at its home. -/
def tableEntry (s : State) (table level va : Nat) : DWord :=
  BitVec.ofNat 64 (ofBytes (s.agentRead 0 (table + 8 * tableIndex level va) 8))

/-- R353: the walk from a level on, `fuel` levels left: the leaf and its level, or the level it stopped at. -/
def walkFrom (s : State) (va : Nat) : Nat → Nat → Nat → Except Nat (Nat × DWord)
  | 0, level, _ => .error level
  | fuel + 1, level, table =>
    let e := s.tableEntry table level va
    if !pteValid e || malformed s.monarch level e then .error level
    else if pteLeaf e then .ok (level, e)
    else s.walkFrom va fuel (level + 1) (ptePa e)

/-- R353: the walk of a region's tables. -/
def walk (s : State) (root va : Nat) : Except Nat (Nat × DWord) := s.walkFrom va 5 0 root

/-- The physical address a leaf gives. -/
def leafPa (level : Nat) (e : DWord) (va : Nat) : Nat := ptePa e + va % 2 ^ leafBits level

/-- The physical address of a virtual one in a region's tables and its page's key id, permissions apart: for what the Monarch does
itself. -/
def monarchPlace (s : State) (root va : Nat) : Option (Nat × BitVec 6) :=
  if va ≥ 2 ^ 48 then none
  else match s.walk root va with
    | .ok (level, e) => some (leafPa level e va, pteKey e)
    | .error _ => none

/-- That physical address. -/
def monarchPa (s : State) (root va : Nat) : Option Nat := (s.monarchPlace root va).map Prod.fst

/-! ## Journal and write-back -/

/-- The launch that carries a stamp. -/
def stamped? (s : State) (stamp : BitVec 6) : Option Launch :=
  s.launches.find? (fun l => l.stamp == stamp && l.state != .done)

/-- R345, R370: the journal entry a write of a stamp to a line owes, appended before the write lands: the line is read (R360, R368), of a
tier line both parts (R363), and the entry is written under the key id of the journal's page. A journal that is full leaves the launch
unjournaled from then on. -/
def journal (s : State) (stamp : BitVec 6) (line : Nat) : State :=
  if stamp = 0 ∨ (s.mark line).stamp = stamp then s
  else match s.stamped? stamp with
    | none => s
    | some l =>
      match s.region? l.rid with
      | none => s
      | some r =>
        if 256 * r.jrn.length + 256 ≤ r.jrnlen then
          match s.monarchPlace r.ptroot (r.jrnbase + 256 * r.jrn.length) with
          | some p =>
            let s := ((s.wake line).mscRequest (line * 192) 192 false).checkTag line
            let t := (s.rawWrite (some p.2) p.1 (s.journalEntry line)).modifyRegion r.rid fun r => { r with jrn := r.jrn ++ [l.id] }
            t.setMark { t.mark line with stamp := stamp }
          | none => s.modifyLaunch l.id fun l => { l with stamp := 0 }
        else s.modifyLaunch l.id fun l => { l with stamp := 0 }

/-- R368, R370: the tag of a line written, its tag-region lines journaled as the write that causes it. -/
def writeTag (s : State) (stamp : BitVec 6) (line : Nat) : State :=
  if s.tagged line then
    let ta := tagAddress s.monarch line
    ((linesOf ta 6).foldl (fun s l => s.journal stamp l) s).rawWrite none ta (s.tagOf line)
  else s

/-- R350, R363, R370: what a controller does before unwritten bytes of a line land: the channel woken, the line read and its tag checked
for a merge, the journal entry made, the memory-side cache written. -/
def beforeWrite (s : State) (stamp : BitVec 6) (line : Nat) (dirty : List Host.Cell) : State :=
  let s := s.wake line
  let s := if coversBytes dirty (line * 192) 192 then s else s.checkTag line
  (s.journal stamp line).mscWrite dirty

/-- R350, R363, R370: the controller merges a line's unwritten bytes: a merge reads the line and checks its tag, a journaled write
reads both parts of a tier line; then the journal entry, the bytes, key id and stamp, the tag. The line stays in its slice, clean. -/
def controllerWrite (s : State) (line : Nat) : State :=
  match s.sliceLine? line with
  | none => s
  | some l =>
    let dirty := s.homes.fresh.filter fun c => lineOf c.1 == line
    if dirty.isEmpty then s
    else
      let whole := (range (line * 4) 4).flatMap (s.homeSector l.key)
      let s := s.beforeWrite l.stamp line dirty
      let old := s.mark line
      let stamp := if l.stamp = 0 then old.stamp else l.stamp
      let s := s.setMem (if s.monarch.encryption && old.key != l.key then s.homes.mem.write (line * 192) whole
        else s.homes.mem.putCells dirty)
      let s := s.setFresh (s.homes.fresh.filter fun c => lineOf c.1 != line)
      let s := ((s.setMark ⟨line, l.key, stamp⟩).writeTag l.stamp line).storePoison line dirty
      s.setLines (changeWhere (fun x => x.line == line) (fun x => { x with stamp := 0 }) s.homes.lines)

/-- A line written back and dropped by its slice. -/
def dropLine (s : State) (line : Nat) : State :=
  let s := ((s.controllerWrite line).storePoison line []).showStored line
  s.setLines (s.homes.lines.filter fun x => x.line != line)

/-! ## The L1 (R233, R297) -/

/-- A core's L1 line changed; a line left without words is dropped. -/
def modifyL1 (s : State) (pcn line : Nat) (f : List L1Word → List L1Word) : State :=
  s.setL1 pcn ((changeWhere (fun (l : L1Line) => l.line == line) (fun (l : L1Line) => { l with words := f l.words }) (s.core pcn).l1).filter
    fun l => !l.words.isEmpty)

/-- The dirty owned words of a core's L1 line, as cells. -/
def dirtyCells (l : L1Line) : List Host.Cell :=
  l.words.flatMap fun w => if w.owned && w.dirty then cellsFrom (l.line * 192 + 4 * w.idx) (bytesOf 4 w.value.toNat) else []

/-- R367: a line under a key in its slice: one held under another key is written back and dropped first. -/
def lineUnder (s : State) (key : BitVec 6) (line : Nat) : State :=
  match s.sliceLine? line with
  | some l => if l.key = key then s else
      let s := s.dropLine line
      s.setLines (⟨line, key, 0, 0⟩ :: s.homes.lines)
  | none => s.setLines (⟨line, key, 0, 0⟩ :: s.homes.lines)

/-- The sectors of a line that cells cover whole, as valid bits (R293). -/
def coveredSectors (line : Nat) (cells : List Host.Cell) : BitVec 4 :=
  (range 0 4).foldl (fun m k => if coversBytes cells ((line * 4 + k) * 48) 48 then m ||| (1#4 <<< k) else m) 0

/-- Cells placed in a line's slice as unwritten bytes; `stamp` is what the write carries. -/
def sliceWrite (s : State) (line : Nat) (stamp : BitVec 6) (cells : List Host.Cell) : State :=
  let s := match s.sliceLine? line with
    | some l => if l.stamp = stamp then s else s.controllerWrite line
    | none => s.lineUnder 0 line
  (s.setFresh (placeCells s.homes.fresh cells)).setLines
    (changeWhere (fun x => x.line == line) (fun x => { x with stamp := stamp, valid := x.valid ||| coveredSectors line cells })
      s.homes.lines)

/-- Write-backs of an owner's dirty words of a line to the home, under the key of the owner's line: value, poison and stamp of
each. A word that the home holds poisoned stays so: its store performed before (R309). A write-back makes no line the more recently
used one of its slice: R293 does not say whether it counts as a use (DESIGN CHOICE, log 94). -/
def writeBack (s : State) (l : L1Line) : State :=
  l.words.foldl (fun s w =>
    if w.owned && w.dirty then
      let s := (s.lineUnder l.key l.line).sliceWrite l.line w.stamp (cellsFrom (l.line * 192 + 4 * w.idx) (bytesOf 4 w.value.toNat))
      if w.poison then
        let sec := l.line * 4 + w.idx / 12
        s.setPoisons (setPoison s.homes.poison sec (poisonSet s.homes.poison sec ||| (1#12 <<< (w.idx % 12))))
      else s
    else s) s

/-- R295: a recall: the owner writes back its dirty owned words of a line and gives them up. -/
def recallLine (s : State) (line : Nat) : State :=
  match s.homes.owners.find? (fun r => r.line == line) with
  | none => s
  | some r =>
    let s := match (s.core r.owner).l1.find? (fun l => l.line == line) with
      | some l => (s.writeBack l).modifyL1 r.owner line fun ws => ws.filter fun w => !w.owned
      | none => s
    s.setOwners (s.homes.owners.filter fun r => r.line != line)

/-- R293: the slice's replacement when a line comes to a set of 16 others: the least recently used of them without an owner, else
the least recently used one after a recall. -/
def sliceReplace (s : State) (line : Nat) : State :=
  let set := s.homes.lines.filter fun x => x.line != line && sliceSet s.monarch x.line == sliceSet s.monarch line
  if set.length < 16 then s
  else
    let free := set.filter fun x => !s.homes.owners.any fun r => r.line == x.line
    match free.getLast? with
    | some v => s.dropLine v.line
    | none =>
      match set.getLast? with
      | some v => (s.recallLine v.line).dropLine v.line
      | none => s

/-- A line in its slice under a key, most recently used (R293, R367). -/
def touch (s : State) (key : BitVec 6) (line : Nat) : State :=
  let absent := (s.sliceLine? line).isNone
  let s := s.lineUnder key line
  let s := s.setLines ((s.homes.lines.filter fun x => x.line == line) ++ s.homes.lines.filter fun x => x.line != line)
  if absent then s.sliceReplace line else s

/-- A sector brought to its slice under a key: one that is not valid there is read from its controller, which checks the tag of the
line (R293, R362, R367, R368). -/
def fetch (s : State) (key : BitVec 6) (sector : Nat) : State :=
  let line := sector / 4
  let s := s.touch key line
  if (s.sliceLine? line).any fun l => l.valid.getLsbD (sector % 4) then s
  else
    let s := ((s.wake line).mscRequest (sector * 48) 48 false).checkTag line
    s.setLines (changeWhere (fun x => x.line == line) (fun x => { x with valid := x.valid ||| (1#4 <<< (sector % 4)) }) s.homes.lines)

/-- R296: for a read of a sector the home asks its owner, other than the core that reads, for the current words: written back, kept
owned and clean. What another agent may have read has entered the owner's L1 (R295, R319). -/
def demand (s : State) (reader : Option Nat) (sector : Nat) : State :=
  match s.homes.owners.find? (fun r => r.line == sector / 4) with
  | none => s
  | some r =>
    if reader = some r.owner then s
    else match (s.core r.owner).l1.find? (fun l => l.line == sector / 4) with
      | some l => (s.writeBack { l with words := l.words.filter fun w => w.idx / 12 == sector % 4 }).modifyL1 r.owner (sector / 4) fun ws =>
          ws.map fun w => if w.owned && w.idx / 12 == sector % 4 then { w with dirty := false, shown := [] } else w
      | none => s

/-- The sectors of a range of bytes. -/
def sectorsOf (pa n : Nat) : List Nat := range (sectorOf pa) (sectorOf (pa + n - 1) + 1 - sectorOf pa)

/-- A range of bytes read at its homes, owners asked for their words first (R296). -/
def atHomes (s : State) (key : BitVec 6) (pa n : Nat) : State :=
  (sectorsOf pa n).foldl (fun s sec => (s.demand none sec).fetch key sec) s

/-- R353: the table entries that a walk reads, read at their homes. A poisoned entry counts as it is stored (DESIGN CHOICE, log 97). -/
def visitTables (s : State) (va : Nat) : Nat → Nat → Nat → State
  | 0, _, _ => s
  | fuel + 1, level, table =>
    let e := s.tableEntry table level va
    let s := s.atHomes 0 (table + 8 * tableIndex level va) 8
    if !pteValid e || malformed s.monarch level e || pteLeaf e then s else s.visitTables va fuel (level + 1) (ptePa e)

/-- The walk of a region's tables, as the homes see it. -/
def walkHomes (s : State) (root va : Nat) : State := s.visitTables va 5 0 root

/-- A write that performs at the home in one step: `cells` lie in one line. Of an owner's words in the touched sectors, those
written whole are discarded, others are written back first; all are given up (R296, R298). -/
def homeWrite (s : State) (key : BitVec 6) (stamp : BitVec 6) (line : Nat) (cells : List Host.Cell) : State :=
  let touched := fun (idx : Nat) => cells.any fun c => sectorOf c.1 == line * 4 + idx / 12
  let s := match s.homes.owners.find? (fun r => r.line == line) with
    | none => s
    | some r =>
      let s := match (s.core r.owner).l1.find? (fun (l : L1Line) => l.line == line) with
        | some l => (s.writeBack { l with words := l.words.filter fun w => touched w.idx && !coversWord cells (line * 192 + 4 * w.idx) }).modifyL1
            r.owner line fun ws => ws.filter fun w => !(w.owned && touched w.idx)
        | none => s
      let left := (range 0 48).foldl (fun (m : BitVec 48) i => if touched i then m &&& ~~~ (1#48 <<< i) else m) r.owned
      s.setOwners (if left = 0 then s.homes.owners.filter fun r => r.line != line
        else changeWhere (fun r => r.line == line) (fun r => { r with owned := left }) s.homes.owners)
  (s.touch key line).sliceWrite line stamp cells

/-- Cells of any lines written at their homes, line by line; a word written whole loses its poison (R309). -/
def homeWriteAll (s : State) (key : BitVec 6) (stamp : BitVec 6) (cells : List Host.Cell) : State :=
  let lines := (cells.map fun c => lineOf c.1).eraseDups
  (lines.foldl (fun s line => s.homeWrite key stamp line (cells.filter fun c => lineOf c.1 == line)) s).clearPoison cells

/-- R233, R297: when a set of an L1 holds more lines than ways, the least recently used one that is not reserved is written back and
replaced, and its OWNED bits are cleared. -/
def l1Replace (s : State) (pcn line : Nat) : State :=
  let c := s.core pcn
  let set := c.l1.filter fun l => l.line % 160 == line % 160
  if set.length ≤ 16 - c.split then s
  else match (set.filter fun l => l.line != line && !c.reserved.contains l.line).getLast? with
    | none => s
    | some v =>
      let s := s.writeBack v
      let s := s.setL1 pcn ((s.core pcn).l1.filter fun l => l.line != v.line)
      s.setOwners (s.homes.owners.filter fun r => !(r.line == v.line && r.owner == pcn))

/-- A line moved to the front of a core's L1, made if absent. -/
def l1Touch (s : State) (pcn : Nat) (key : BitVec 6) (line : Nat) : State :=
  let s := s.modifyCore pcn fun c =>
    match c.l1.find? (fun l => l.line == line) with
    | some l => { c with l1 := l :: c.l1.filter fun x => x.line != line }
    | none => { c with l1 := ⟨line, key, []⟩ :: c.l1 }
  s.l1Replace pcn line

/-- R233, R297: a hit makes a line the most recently used of its set. -/
def l1Use (s : State) (pcn line : Nat) : State :=
  s.setL1 pcn (((s.core pcn).l1.filter fun l => l.line == line) ++ (s.core pcn).l1.filter fun l => l.line != line)

/-- R296, R297: a sector filled from its home into a core's L1; only INVALID and SHARED words are written. -/
def lineFill (s : State) (pcn : Nat) (key : BitVec 6) (sector : Nat) : State :=
  let line := sector / 4
  let s := (s.demand (some pcn) sector).fetch key sector
  let s := s.l1Touch pcn key line
  let old := ((s.core pcn).l1.find? (fun l => l.line == line)).elim [] L1Line.words
  let bs := s.homeRead key (sector * 48) 48
  let words := (range 0 12).map fun i =>
    let idx := sector % 4 * 12 + i
    match old.find? (fun w => w.idx == idx && w.owned) with
    | some w => w
    | none => { idx := idx, value := BitVec.ofNat 32 (ofBytes (bs.drop (4 * i) |>.take 4)), owned := false, dirty := false,
                poison := s.poisonedAt (sector * 48 + 4 * i), stamp := 0, shown := [] : L1Word }
  s.setL1 pcn (changeWhere (fun (l : L1Line) => l.line == line)
    (fun (l : L1Line) => { l with words := words ++ l.words.filter fun w => w.idx / 12 != sector % 4 }) (s.core pcn).l1)

/-- R367: what a core holds of a line under another key is written back under that key before a store under this one. -/
def l1Rekey (s : State) (pcn : Nat) (key : BitVec 6) (line : Nat) : State :=
  match (s.core pcn).l1.find? (fun l => l.line == line) with
  | none => s
  | some l =>
    if l.key = key then s
    else
      let s := s.writeBack l
      s.setL1 pcn (changeWhere (fun (l : L1Line) => l.line == line)
        (fun (l : L1Line) => { l with key := key, words := l.words.map fun w => { w with dirty := false } }) (s.core pcn).l1)

/-- R295: a store's line registered at the home for a core: a recall of another owner, the ownership record, then the bytes in
the core's L1 as owned and dirty. A word written in part takes its other bytes from the home or the core's own copy. `hide`: the warp
and the tag of a store of whose instruction another line is not acknowledged yet; the core's other warps go on seeing the words as they
stood. -/
def register (s : State) (pcn : Nat) (key : BitVec 6) (stamp : BitVec 6) (line : Nat) (cells : List Host.Cell)
    (hide : Option (Nat × Nat)) : State :=
  let s := match s.homes.owners.find? (fun r => r.line == line) with
    | some r => if r.owner = pcn then s else s.recallLine line
    | none => s
  let s := (s.l1Rekey pcn key line).touch key line
  let idxs := (cells.map fun c => c.1 % 192 / 4).eraseDups
  let bits := idxs.foldl (fun (m : BitVec 48) i => m ||| (1#48 <<< i)) 0
  let rec0 := (s.homes.owners.find? (fun r => r.line == line)).elim (0#48) OwnRec.owned
  let s := s.setOwners (replaceWhere (fun r => r.line == line) ⟨line, pcn, rec0 ||| bits⟩ s.homes.owners)
  let s := s.l1Touch pcn key line
  let old := ((s.core pcn).l1.find? (fun l => l.line == line)).elim [] L1Line.words
  let fresh := idxs.map fun i =>
    let a := line * 192 + 4 * i
    let mine := old.find? (fun w => w.idx == i && w.owned)
    let base := match mine with
      | some w => bytesOf 4 w.value.toNat
      | none => s.homeRead key a 4
    let bs := (range a 4).zipWith (fun x b => (cellAt cells x).getD b) base
    let bad := match mine with | some w => w.poison | none => s.poisonedAt a
    let was := (old.find? (fun w => w.idx == i)).getD ⟨i, BitVec.ofNat 32 (ofBytes base), false, false, bad, 0, []⟩
    ({ idx := i, value := BitVec.ofNat 32 (ofBytes bs), owned := true, dirty := true,
       poison := bad && !coversWord cells a, stamp := stamp,
       shown := hide.elim was.shown fun h => ⟨h.1, h.2, was.value, was.poison⟩ :: was.shown } : L1Word)
  let s := s.setL1 pcn (changeWhere (fun (l : L1Line) => l.line == line)
    (fun (l : L1Line) => { l with words := fresh ++ l.words.filter fun w => !idxs.contains w.idx }) (s.core pcn).l1)
  s.clearPoison cells

/-- R295: every line of an instruction's store is acknowledged: its bytes enter the core's L1. -/
def reveal (s : State) (pcn cw tag : Nat) : State :=
  s.setL1 pcn ((s.core pcn).l1.map fun (l : L1Line) => { l with words := l.words.map fun (w : L1Word) =>
    { w with shown := w.shown.filter fun h => !(h.cw == cw && h.tag == tag) } })

/-- R298: a core's words of a sector become INVALID, whatever their state. -/
def invalidateWords (s : State) (pcn line : Nat) (p : Nat → Bool) : State :=
  s.modifyL1 pcn line fun ws => ws.filter fun w => !p w.idx

/-- R304: `facq` on a core: every SHARED word becomes INVALID. -/
def dropShared (s : State) (pcn : Nat) : State :=
  s.setL1 pcn (((s.core pcn).l1.map fun (l : L1Line) => { l with words := l.words.filter L1Word.owned }).filter
    fun l => !l.words.isEmpty)

/-- R307, R305: the owned words of a core's line with a property written back, kept owned and clean. -/
def cleanWords (s : State) (pcn : Nat) (l : L1Line) (p : L1Word → Bool) : State :=
  (s.writeBack { l with words := l.words.filter p }).modifyL1 pcn l.line fun ws =>
    ws.map fun w => if p w then { w with dirty := false, shown := [] } else w

/-- R343, R264: every dirty owned word of a core written back; the L1 emptied; its ownership records cleared. -/
def flushL1 (s : State) (pcn : Nat) : State :=
  let s := (s.core pcn).l1.foldl (fun s l => s.writeBack l) s
  let s := s.setL1 pcn []
  s.setOwners (s.homes.owners.filter fun r => r.owner != pcn)

end State

end Sys2Proof.Machine
end

