-- ==== Sys2Proof/Machine/Regs.lean ====
section
/-!
DEFINITION. The registers of the warp whose turn it is (R19-R38): every read and write of them goes through these accessors,
which is where s0, p7 and the interval shadows of R23-R26 have their behaviour.
-/

namespace Sys2Proof.Machine

/-! ## Shadows (R23, R26) -/

/-- The int32 range. -/
def inInt32 (x : Int) : Bool := -2147483648 ≤ x && x ≤ 2147483647

/-- R121 points 3 and 4: the shadow of a computed interval. -/
def Shadow.of (lo hi : Int) : Shadow := if inInt32 lo && inInt32 hi then .bounded lo hi else .unbounded

/-- The exact shadow of a constant (R25). -/
def Shadow.exact (x : Int) : Shadow := .of x x

/-- R26: the hull of two shadows. -/
def Shadow.hull : Shadow → Shadow → Shadow
  | .bounded l1 h1, .bounded l2 h2 => .bounded (min l1 l2) (max h1 h2)
  | _, _ => .unbounded

/-- Interval arithmetic on one operand: unbounded stays so (R121 point 2). -/
def Shadow.map (f : Int → Int → Shadow) : Shadow → Shadow
  | .bounded l h => f l h
  | .unbounded => .unbounded

/-- Interval arithmetic on two operands. -/
def Shadow.map2 (f : Int → Int → Int → Int → Shadow) : Shadow → Shadow → Shadow
  | .bounded l1 h1, .bounded l2 h2 => f l1 h1 l2 h2
  | _, _ => .unbounded

/-- The index of a scalar register; a well-formed word names 0-63 (R52). -/
def sIdx (r : BitVec 7) : Fin 64 := ⟨r.toNat % 64, Nat.mod_lt _ (by decide)⟩

/-- The index of a vector register. -/
def vIdx (r : BitVec 7) : Fin 128 := ⟨r.toNat, r.isLt⟩

/-- The index of a predicate register. -/
def pIdx {n : Nat} (r : BitVec n) : Fin 8 := ⟨r.toNat % 8, Nat.mod_lt _ (by decide)⟩

/-- The index of an array register. -/
def aIdx (r : BitVec 4) : Fin 16 := ⟨r.toNat, r.isLt⟩

/-- R29, R6: a value of MODE without its reserved bits [63:40], [31:30] and [19]. -/
def definedMode (x : DWord) : DWord := x &&& 0x000000FF3FF7FFFF#64

/-- R37, R6: a value of XREC without its reserved bits [63:54]. -/
def definedXrec (x : DWord) : DWord := x &&& 0x003FFFFFFFFFFFFF#64

namespace State

/-- The current warp changed. -/
def modWarp (s : State) (f : Warp → Warp) : State := { s with warp := f s.warp }

/-- R20: a scalar register's value; s0 reads as zero. -/
def readS (s : State) (r : BitVec 7) : DWord := if sIdx r = 0 then 0 else s.warp.sreg.get (sIdx r)

/-- R20: a scalar register's shadow; s0's is [0, 0]. -/
def shadowS (s : State) (r : BitVec 7) : Shadow := if sIdx r = 0 then .bounded 0 0 else s.warp.sshd.get (sIdx r)

/-- R20: a scalar register written with its shadow; a write to s0 is discarded. -/
def writeS (s : State) (r : BitVec 7) (x : DWord) (sh : Shadow) : State :=
  if sIdx r = 0 then s
  else { s with warp := { s.warp with
    sreg := s.warp.sreg.set (sIdx r).val x (sIdx r).isLt, sshd := s.warp.sshd.set (sIdx r).val sh (sIdx r).isLt } }

/-- A scalar register's shadow replaced (R26: a refinement moves no data); s0's is not. -/
def refineS (s : State) (r : BitVec 7) (sh : Shadow) : State :=
  if sIdx r = 0 then s
  else { s with warp := { s.warp with sshd := s.warp.sshd.set (sIdx r).val sh (sIdx r).isLt } }

/-- R21: a vector register's lanes. -/
def readV (s : State) (r : BitVec 7) : Lanes := s.warp.vreg.get (vIdx r)

/-- A vector register's shadow. -/
def shadowV (s : State) (r : BitVec 7) : Shadow := s.warp.vshd.get (vIdx r)

/-- A vector register and its shadow replaced whole. -/
def putV (s : State) (r : BitVec 7) (x : Lanes) (sh : Shadow) : State :=
  { s with warp := { s.warp with
    vreg := s.warp.vreg.set (vIdx r).val x (vIdx r).isLt, vshd := s.warp.vshd.set (vIdx r).val sh (vIdx r).isLt } }

/-- R26, R149: a vector register written under a mask: inactive lanes keep their values and the shadow takes the hull. -/
def writeV (s : State) (r : BitVec 7) (mask : Word) (x : Lanes) (sh : Shadow) : State :=
  s.putV r (Vector.ofFn fun i : Fin 32 => if mask.getLsbD i.val then x.get i else (s.readV r).get i)
    (if mask = 0xFFFFFFFF#32 then sh else (s.shadowV r).hull sh)

/-- R22: a predicate register; p7 reads as all ones. -/
def readP {n : Nat} (s : State) (r : BitVec n) : Word := if pIdx r = 7 then 0xFFFFFFFF#32 else s.warp.preg.get (pIdx r)

/-- R22, R149: a predicate written under a mask; a write to p7 is discarded. -/
def writeP {n : Nat} (s : State) (r : BitVec n) (mask x : Word) : State :=
  if pIdx r = 7 then s
  else { s with warp := { s.warp with
    preg := s.warp.preg.set (pIdx r).val ((x &&& mask) ||| (s.warp.preg.get (pIdx r) &&& ~~~mask)) (pIdx r).isLt } }

/-- R27: an array register. -/
def readA (s : State) (r : BitVec 4) : ArrayReg := s.warp.areg.get (aIdx r)

/-- An array register replaced. -/
def writeA (s : State) (r : BitVec 4) (x : ArrayReg) : State :=
  { s with warp := { s.warp with areg := s.warp.areg.set (aIdx r).val x (aIdx r).isLt } }

/-- A feed register: fa0, fa1, fb0, fb1 (R36). -/
def readF (s : State) (f : BitVec 2) : Lanes := s.warp.feeds.get ⟨f.toNat, f.isLt⟩

/-- A feed register written. -/
def writeF (s : State) (f : BitVec 2) (x : Lanes) : State :=
  { s with warp := { s.warp with feeds := s.warp.feeds.set f.toNat x f.isLt } }

/-- The program counter set. -/
def setPc (s : State) (pc : BitVec 48) : State := { s with warp := { s.warp with pc := pc } }

/-- The active mask set. -/
def setActive (s : State) (m : Word) : State := { s with warp := { s.warp with active := m } }

/-- MODE set, its reserved bits as zero (R29, R142). -/
def setMode (s : State) (x : DWord) : State := { s with warp := { s.warp with mode := definedMode x } }

/-- Flags merged into FLG (R33). -/
def orFlags (s : State) (f : BitVec 8) : State := { s with warp := { s.warp with flg := s.warp.flg ||| f } }

/-! ## MODE's fields (R29) -/

/-- GP. -/
def gp (s : State) : BitVec 3 := s.warp.mode.extractLsb' 0 3
/-- ET. -/
def et (s : State) : Nat := (s.warp.mode.extractLsb' 3 4).toNat
/-- RM. -/
def rm (s : State) : Nat := (s.warp.mode.extractLsb' 7 3).toNat
/-- SAT. -/
def sat (s : State) : Bool := s.warp.mode.getLsbD 10
/-- DZ. -/
def dz (s : State) : Bool := s.warp.mode.getLsbD 11
/-- FA. -/
def fa (s : State) : Nat := (s.warp.mode.extractLsb' 12 3).toNat
/-- FB. -/
def fb (s : State) : Nat := (s.warp.mode.extractLsb' 15 3).toNat
/-- ACC. -/
def acc (s : State) : Bool := s.warp.mode.getLsbD 18
/-- QW, signed. -/
def qw (s : State) : Int := (s.warp.mode.extractLsb' 20 10).toInt
/-- AEN. -/
def aen (s : State) : BitVec 8 := s.warp.mode.extractLsb' 32 8

/-- R32: the effective mask; a `tret.x` rerun removes the excluded lanes (R198). -/
def effMask (s : State) : Word := s.warp.active &&& s.readP s.gp &&& ~~~s.warp.exclude

/-! ## The warp's turn -/

/-- The warp of a place, current or not. -/
def warpAt? (s : State) (pcn cw : Nat) : Option Warp :=
  if s.warp.pcn = pcn ∧ s.warp.cw = cw ∧ s.warp.status ≠ .free then some s.warp
  else s.others.find? fun w => w.pcn == pcn && w.cw == cw

/-- The state with the warp of a place as the current one; as it is when no warp is there. A FREE slot is not kept. -/
def focus (s : State) (pcn cw : Nat) : State :=
  if s.warp.pcn = pcn ∧ s.warp.cw = cw ∧ s.warp.status ≠ .free then s
  else match s.others.find? fun w => w.pcn == pcn && w.cw == cw with
    | none => s
    | some w =>
      let rest := s.others.filter fun w => !(w.pcn == pcn && w.cw == cw)
      { s with warp := w, others := if s.warp.status = .free then rest else rest ++ [s.warp] }

/-- Every resident warp. -/
def warps (s : State) : List Warp := if s.warp.status = .free then s.others else s.warp :: s.others

/-- A change made to the warp of a place, the current warp staying what it is. -/
def onWarp (s : State) (pcn cw : Nat) (f : State → State) : State :=
  match s.warpAt? pcn cw with
  | none => s
  | some _ =>
    let t := f (s.focus pcn cw)
    if s.warp.status = .free ∨ (s.warp.pcn = pcn ∧ s.warp.cw = cw) then t else t.focus s.warp.pcn s.warp.cw

/-- A change made to every resident warp that has a property, one after another. -/
def onWarps (s : State) (p : Warp → Bool) (f : State → State) : State :=
  ((s.warps.filter p).map fun w => (w.pcn, w.cw)).foldl (fun s k => s.onWarp k.1 k.2 f) s

end State

/-! ## Events for Luna (R378, R379) -/

/-- The bit of the freeze mask that governs an event: corrected error, uncorrectable error, TRANSLATION, watchdog, retry storm
in that order (the spec names no order: DESIGN CHOICE, log 14); none for an event that does not freeze. -/
def freezeBit (event : Nat) : Option Nat :=
  if event = 0x30 then some 0 else if event = 0x31 then some 1 else if event = 0x40 then some 2
  else if event = 0x41 then some 3 else if event = 0x42 then some 4 else none

namespace State

/-- R378: a record put among those of its cycle, newest first: in descending order of WHO. -/
def lunaInsert (r : LunaRec) (now : List LunaRec) : List LunaRec :=
  now.takeWhile (fun x => r.who.toNat < x.who.toNat) ++ r :: now.dropWhile (fun x => r.who.toNat < x.who.toNat)

/-- R379: how many records may still be written, once one more has been: a freezing event, by the mask, lets 256 more in. -/
def lunaLeft (mask : BitVec 8) (left : Option Nat) (r : LunaRec) : Option Nat :=
  match left with
  | some n => some (n - 1)
  | none => if (freezeBit r.event.toNat).any mask.getLsbD then some 256 else none

/-- R378, R379: a record for a cluster's recorder. Of the records of one cycle those that come first in their order are written, at most 4,
and no more than a freeze still lets in; any other is dropped and counted, until a SYNC tells the count. The ring keeps the last
4,096. -/
def luna (s : State) (cl : Nat) (event who xinfo : BitVec 8) (ordinal : Word) (detail : DWord) : State :=
  let c := s.cluster cl
  let same := c.thisCycle.1 = s.clock
  let inCycle := if same then c.thisCycle.2 else 0
  let before := if same then c.leftBefore else c.left
  let room := before.elim 4 (min 4)
  let r : LunaRec := ⟨s.clock % 2 ^ 40, event, who, xinfo, ordinal, detail⟩
  let now := lunaInsert r (c.ring.take inCycle)
  let kept := now.drop (now.length - room)
  let left := kept.reverse.foldl (lunaLeft c.mask) before
  s.setCluster { c with
    ring := (kept ++ c.ring.drop inCycle).take 4096, left := left, leftBefore := before, frozen := left == some 0,
    thisCycle := (s.clock, kept.length),
    dropped := (if event = 1 ∧ kept.contains r then 0 else c.dropped) + (now.length - kept.length) }

/-- WHO of a warp (R378): core within the cluster and core warp number. -/
def whoOf (pcn cw : Nat) : BitVec 8 := BitVec.ofNat 8 (pcn % 4 * 32 + cw)

end State

end Sys2Proof.Machine
end

