-- ==== Sys2Proof/Machine/Access.lean ====
section
/-!
DEFINITION. How a warp reaches memory: leases and translation (R191, R353-R357), array registers (R179-R182, R186), the constant
space (R18, R310), loads through the L1 (R297), the store buffer (R185, R295), and the scratchpads (R16, R17, R232, R287).
-/

namespace Sys2Proof.Machine

/-! ## Causes (R195) -/

/-- ILLEGAL. -/
def cILLEGAL : BitVec 16 := 0x01
/-- ILLEGAL_IN_MODE. -/
def cMODE : BitVec 16 := 0x02
/-- MASK_INCOMPLETE. -/
def cMASK : BitVec 16 := 0x03
/-- PRIVILEGE. -/
def cPRIVILEGE : BitVec 16 := 0x04
/-- MISALIGN. -/
def cMISALIGN : BitVec 16 := 0x08
/-- BOUNDS. -/
def cBOUNDS : BitVec 16 := 0x09
/-- TRANSLATION. -/
def cTRANSLATION : BitVec 16 := 0x0A
/-- PERMISSION. -/
def cPERMISSION : BitVec 16 := 0x0B
/-- LEASE. -/
def cLEASE : BitVec 16 := 0x0C
/-- SCRATCH_RANGE. -/
def cSCRATCH : BitVec 16 := 0x0D
/-- ARITH. -/
def cARITH : BitVec 16 := 0x10
/-- DIVERGENCE_DEPTH. -/
def cDEPTH : BitVec 16 := 0x11
/-- REP_INVALID. -/
def cREP : BitVec 16 := 0x12
/-- UE. -/
def cUE : BitVec 16 := 0x18
/-- GRID_FAULT. -/
def cGRID : BitVec 16 := 0x19
/-- REMOTE. -/
def cREMOTE : BitVec 16 := 0x1A
/-- SOFTWARE. -/
def cSOFTWARE : BitVec 16 := 0x20
/-- BREAKPOINT. -/
def cBREAKPOINT : BitVec 16 := 0x21
/-- STEP. -/
def cSTEP : BitVec 16 := 0x22
/-- CODE_HEAP_FULL. -/
def cHEAP : BitVec 16 := 0x28

/-- A cause with its DETAIL (R194) and the address the record names. -/
structure Trouble where
  cause : BitVec 16
  detail : Nat
  addr : DWord
deriving DecidableEq, Repr

/-- What an access does to memory (R353). -/
inductive Access where
  | read | write | both | exec
deriving DecidableEq, Repr

/-- Whether the access writes. -/
def Access.writes : Access → Bool
  | .write => true
  | .both => true
  | _ => false

/-- R353: the DETAIL of a PERMISSION fault, when the leaf forbids an access. -/
def forbids (keyid : BitVec 6) (k : Access) (e : DWord) : Option Nat :=
  let alien := pteKey e != 0 && pteKey e != keyid
  match k with
  | .read => if !pteR e || alien then some 2 else none
  | .write => if !pteW e || alien then some 1 else none
  | .exec => if !pteX e || alien then some 3 else none
  | .both => if !pteW e || alien then some 1 else if !pteR e then some 2 else none

namespace State

/-- The current warp's core. -/
def myCore (s : State) : Core := s.core s.warp.pcn

/-- R354: whether a TLB entry answers for an address of a core's region. -/
def tlbHit (c : Core) (va : Nat) (t : TlbEntry) : Bool :=
  t.rid == c.rid && t.tgen == c.tgen && t.vpage == va / 2 ^ leafBits t.level

/-- R353, R354: the leaf of an address: core TLB, cluster TLB, then a walk; or the level the walk stopped at. -/
def leafFor (s : State) (pcn va : Nat) : Except Nat (Nat × DWord) :=
  let c := s.core pcn
  match c.tlb.find? (tlbHit c va) with
  | some t => .ok (t.level, t.entry)
  | none =>
    match (s.cluster (clusterOf pcn)).tlb.find? (tlbHit c va) with
    | some t => .ok (t.level, t.entry)
    | none => s.walk c.ptroot va

/-- R191 cases 6 and 7, R353: translation of an address for an access on a core. -/
def translate (s : State) (pcn : Nat) (k : Access) (va : Nat) : Except Trouble Phys :=
  if va ≥ 2 ^ 48 then .error ⟨cTRANSLATION, 5, BitVec.ofNat 64 va⟩
  else match s.leafFor pcn va with
    | .error level => .error ⟨cTRANSLATION, level, BitVec.ofNat 64 va⟩
    | .ok (level, e) =>
      match forbids (s.core pcn).keyid k e with
      | some d => .error ⟨cPERMISSION, d, BitVec.ofNat 64 va⟩
      | none => .ok ⟨leafPa level e va, pteKey e, pteAttr e == 1⟩

/-- A list without what lies behind its first n elements with a property. -/
def keepFirst {α : Type} (p : α → Bool) : Nat → List α → List α
  | _, [] => []
  | n, x :: xs => if p x then (match n with | 0 => keepFirst p 0 xs | n + 1 => x :: keepFirst p n xs) else x :: keepFirst p n xs

/-- R354: the set of a leaf in a cluster's TLB of 2,048 entries and 8 ways: by its page number (the spec does not say: DESIGN CHOICE,
log 74). -/
def tlbSet (t : TlbEntry) : Nat := t.vpage % 256

/-- R353, R354: the walk for an address that no TLB of a core answers, as the homes of the tables see it. -/
def visitLeaf (s : State) (pcn va : Nat) : State :=
  let c := s.core pcn
  if 2 ^ 48 ≤ va || c.tlb.any (tlbHit c va) || (s.cluster (clusterOf pcn)).tlb.any (tlbHit c va) then s else s.walkHomes c.ptroot va

/-- The walk of an access of the current warp that faults by it. -/
def walked (s : State) (t : Trouble) : State :=
  if t.cause = cTRANSLATION ∨ (t.cause = cPERMISSION ∧ t.detail ≠ 0) then s.visitLeaf s.warp.pcn t.addr.toNat else s

/-- R354: the leaf of an address, found by a walk if need be, kept in the core's 64-entry and the cluster's 2,048-entry TLB. -/
def cacheLeaf (s : State) (pcn va : Nat) : State :=
  let s := s.visitLeaf pcn va
  match s.leafFor pcn va with
  | .error _ => s
  | .ok (level, e) =>
    let c := s.core pcn
    let t : TlbEntry := ⟨c.rid, c.tgen, level, va / 2 ^ leafBits level, e⟩
    let s := s.setCore { c with tlb := (t :: c.tlb.filter (fun x => x != t)).take 64 }
    let k := s.cluster (clusterOf pcn)
    s.setCluster { k with tlb := keepFirst (fun x => tlbSet x == tlbSet t) 8 (t :: k.tlb.filter (fun x => x != t)) }

/-- R331, R191 case 5: whether an address lies in a lease range of a launch. -/
def inLease (s : State) (launch va : Nat) : Bool :=
  match s.launch? launch with
  | none => false
  | some l => l.lease.any fun r => r.1 ≤ va / 4096 && va / 4096 < r.1 + r.2

/-- The stamp a launch's writes carry (R370). -/
def stampOf (s : State) (launch : Nat) : BitVec 6 := (s.launch? launch).elim 0 Launch.stamp

end State

/-! ## Array registers (R179-R182, R186) -/

/-- Bytes of an ESIZE code (R179); the reserved codes are never bound. -/
def sizeOf (esize : Nat) : Nat := if esize ≤ 4 then 2 ^ esize else 2 ^ (esize + 1)

/-- The CONST check mode. -/
def ArrayReg.isConst (a : ArrayReg) : Bool := a.check == 2

/-- The SUPPRESS check mode. -/
def ArrayReg.suppresses (a : ArrayReg) : Bool := a.check == 0

/-- R186: whether an access is proved in bounds by its index's shadow. `unit` is the bytes an index counts. -/
def discharged (a : ArrayReg) (sh : Shadow) (imm : Int) (unit size : Nat) : Bool :=
  match sh with
  | .unbounded => false
  | .bounded lo hi =>
    0 ≤ lo + imm && (hi + imm) * unit + size ≤ a.extent.toNat * sizeOf a.esize.toNat

/-- Whether what a load has read meets a range of global memory or of a scratchpad. -/
def Early.meets (e : Early) (scratch : Option Nat) (pa n : Nat) : Bool :=
  e.scratch == scratch && e.pa < pa + n && pa < e.pa + e.bytes.length

/-- Whether it is the very access. -/
def Early.is (e : Early) (scratch : Option Nat) (pa n : Nat) : Bool :=
  e.scratch == scratch && e.pa == pa && e.bytes.length == n

/-- R295: a word of its core's L1 as a warp sees it, and whether it is poisoned: a store of another warp enters with the last line of
its instruction, the warp's own at once (R185). -/
def L1Word.seenBy (w : L1Word) (cw : Nat) : Word × Bool :=
  match (w.shown.takeWhile fun h => h.cw != cw).getLast? with
  | some h => (h.value, h.poison)
  | none => (w.value, w.poison)

/-- What becomes of one lane (R191). -/
inductive LaneFate where
  | performs (p : Phys) (constant : Option Nat)
  | suppressed
  | faults (t : Trouble)
deriving DecidableEq, Repr

namespace State

/-- R18: the launch's constant segment: global address and length. -/
def constSeg (s : State) : Nat × Nat := (s.launch? s.warp.launch).elim (0, 0) fun l => (l.constVa, l.constLen)

/-- R18: where a byte of a launch's constant segment lies: in the frame its page had when the launch was placed, if it had one. -/
def constPlace (l : Launch) (off : Nat) : Option Phys :=
  (l.constMap.getD ((l.constVa + off) / 4096 - l.constVa / 4096) none).map fun x => ⟨x.1 + (l.constVa + off) % 4096, x.2, false⟩

/-- The physical place of a byte of the constant segment; a constant load never faults on translation (R191, R357). -/
def constPhys (s : State) (off : Nat) : Phys :=
  ((s.launch? s.warp.launch).bind fun l => constPlace l off).getD ⟨s.constSeg.1 + off, 0, false⟩

/-- R182: whether FRAME serves an offset of an array register. -/
def framed (s : State) (a : ArrayReg) (off : Nat) : Bool := a.tgen == s.myCore.tgen && off < a.limit.toNat

/-- R191: the fate of one access at byte offset `off` (which is `k` units) of an array register. -/
def examine (s : State) (a : ArrayReg) (kind : Access) (proved byteForm : Bool) (k off : Int) (size : Nat) : LaneFate :=
  let addr := BitVec.ofInt 64 (a.base.toNat + off)
  if byteForm && off % size != 0 then .faults ⟨cMISALIGN, size, addr⟩
  else if !proved && k < 0 then
    if a.suppresses then .suppressed else .faults ⟨cBOUNDS, 0, addr⟩
  else if !proved && off + size > a.extent.toNat * sizeOf a.esize.toNat then
    if a.suppresses then .suppressed else .faults ⟨cBOUNDS, 1, addr⟩
  else if kind.writes && (a.ro || a.isConst) then .faults ⟨cPERMISSION, 0, addr⟩
  else if a.isConst then
    if (a.base.toNat + off).toNat + size > s.constSeg.2 then .faults ⟨cBOUNDS, 2, addr⟩
    else .performs (s.constPhys (a.base.toNat + off).toNat) (some (a.base.toNat + off).toNat)
  else
    let va := (a.base.toNat + off).toNat
    if !s.inLease s.warp.launch va then .faults ⟨cLEASE, 0, addr⟩
    else if va + size ≤ 2 ^ 48 && s.framed a off.toNat then
      if kind.writes && !a.fw then .faults ⟨cPERMISSION, 1, addr⟩
      else .performs ⟨a.frame.toNat * 4096 + a.base.toNat % 4096 + off.toNat, a.key, a.unc⟩ none
    else match s.translate s.warp.pcn kind va with
      | .error t => .faults t
      | .ok p => .performs p none

/-- R356: the bytes of the contiguous run from an address on: `fuel` further leaves of the same table. -/
def runFrom (s : State) (root : Nat) (level : Nat) (e : DWord) : Nat → Nat → Nat → Nat
  | 0, _, acc => acc
  | fuel + 1, va, acc =>
    let size := 2 ^ leafBits level
    let next := va - va % size + size
    let entries := if level = 3 then 32 else if level = 4 then 16 else 512
    if next / size % entries = 0 then acc
    else match s.walk root next with
      | .ok (l2, e2) =>
        if l2 = level ∧ ptePa e2 = ptePa e + size ∧ pteR e2 = pteR e ∧ pteW e2 = pteW e ∧ pteX e2 = pteX e
            ∧ pteKey e2 = pteKey e ∧ pteAttr e2 = pteAttr e
        then s.runFrom root level e2 fuel next (acc + size)
        else acc
      | .error _ => acc

/-- R181, R182: FRAME, LIMIT, TGEN and FW of an array register by the tables as they stand. -/
def frameOf (s : State) (a : ArrayReg) : ArrayReg :=
  let a := { a with tgen := s.myCore.tgen, frame := 0, limit := 0, fw := false, key := 0, unc := false }
  if a.isConst ∨ 5 ≤ a.esize.toNat then a
  else if !s.inLease s.warp.launch a.base.toNat then a
  else match s.translate s.warp.pcn .read a.base.toNat, s.leafFor s.warp.pcn a.base.toNat with
    | .ok p, .ok (level, e) =>
      let size := 2 ^ leafBits level
      let run := s.runFrom s.myCore.ptroot level e 15 a.base.toNat (size - a.base.toNat % size)
      { a with frame := BitVec.ofNat 40 (p.pa / 4096), fw := pteW e, key := p.key, unc := p.unc,
               limit := BitVec.ofNat 48 (min run (a.extent.toNat * sizeOf a.esize.toNat)) }
    | _, _ => a

/-- R182, R187, R192: what the retirement of an access does to its array register: the violation count, the recomputed frame
when the generation has changed, and the access count of its footprint entry. -/
def retireAccess (s : State) (k : BitVec 4) (suppressed : Nat) : State :=
  let a := s.readA k
  let a := { a with vcount := BitVec.ofNat 16 (min 65535 (a.vcount.toNat + suppressed)) }
  let a := if a.tgen = s.myCore.tgen then a else s.frameOf a
  let s := s.writeA k a
  s.modifyCore s.warp.pcn fun c =>
    let counted := changeWhere (fun f => f.reg == some (s.warp.cw, k.toNat))
      (fun (f : Footprint) => { f with count := min (2 ^ 32 - 1) (f.count + 1) }) c.footprint
    { c with footprint := counted }

/-! ## Loads that execute ahead of their turn (R45, R314) -/

/-- The current warp's load of an access: one that executed ahead is taken; what else has been read ahead of its bytes is not used any
more, so that a later load never returns an older value (R319). -/
def takeAhead (s : State) (scratch : Option Nat) (pa n : Nat) : State :=
  { s with warp := { s.warp with
    taken := s.warp.ahead.filter (·.is scratch pa n) ++ s.warp.taken
    ahead := s.warp.ahead.filter fun e => !e.meets scratch pa n } }

/-- What the load of an access that executed ahead has read. -/
def taken? (s : State) (scratch : Option Nat) (pa n : Nat) : Option Early := s.warp.taken.find? (·.is scratch pa n)

/-- A later load sees the warp's own write to bytes that had been read ahead of it (R185). -/
def dropAhead (s : State) (scratch : Option Nat) (cells : List Host.Cell) : State :=
  { s with warp := { s.warp with ahead := s.warp.ahead.filter fun e => !cells.any fun c => e.meets scratch c.1 1 } }

/-- R304, R314, R315: an acquire of the current warp: the core's SHARED words go, and its loads that had executed ahead are executed
again. -/
def acquire (s : State) : State :=
  let s := s.dropShared s.warp.pcn
  { s with warp := { s.warp with ahead := [], distrust := [] } }

/-- R317, R319, R321: what a `cwait` or a `waitg` orders before the warp's later loads. No SHARED word is removed (R298): the warp's own
loads fill the sectors again whose SHARED words its core holds now (DEDUCED, log 71). -/
def distrustShared (s : State) : State :=
  { s with warp := { s.warp with
    ahead := []
    distrust := (s.core s.warp.pcn).l1.flatMap fun (l : L1Line) => (range 0 4).filterMap fun k =>
      if l.words.any fun w => !w.owned && w.idx / 12 == k then some (l.line * 4 + k) else none } }

/-! ## Loads (R185, R297) -/

/-- The byte of the current warp's own stores that are not yet registered (R185). -/
def forwarded (s : State) (scratch : Option Nat) (a : Nat) : Option Byte :=
  s.warp.stores.reverse.findSome? fun p => if p.scratch == scratch then cellAt p.cells a else none

/-- Whether a load of a range must fill a sector it touches first: a word of it is INVALID (R297); it would join an OWNED word with a
SHARED one, which may be older than what the OWNED one replaced (R319); or the warp may not see its SHARED words (`distrustShared`). -/
def needsFill (s : State) (pa n sec : Nat) : Bool :=
  let words := ((range pa n).filter fun a => sectorOf a == sec).map (s.l1Word? s.warp.pcn)
  let owned := fun (w : Option L1Word) => w.any L1Word.owned
  words.any Option.isNone || (words.any owned && !words.all owned) || (s.warp.distrust.contains sec && !words.all owned)

/-- What a load of the current warp needs: the sectors that must be filled, one by one; an uncached page is read at its home. A load
that has executed ahead needs nothing. -/
def fillFor (s : State) (p : Phys) (n : Nat) : State :=
  let s := s.takeAhead none p.pa n
  if (s.taken? none p.pa n).isSome then s
  else if p.unc then s.atHomes p.key p.pa n
  else
    (sectorsOf p.pa n).foldl (fun s sec =>
      if s.needsFill p.pa n sec then
        let s := s.lineFill s.warp.pcn p.key sec
        { s with warp := { s.warp with distrust := s.warp.distrust.filter (· != sec) } }
      else s.l1Use s.warp.pcn (sec / 4)) s

/-- A byte as the current warp loads it, once filled. -/
def loadByte (s : State) (p : Phys) (a : Nat) : Byte :=
  match s.forwarded none a with
  | some b => b
  | none =>
    if p.unc then s.agentByte p.key a
    else match s.l1Word? s.warp.pcn a with
      | some w => (w.seenBy s.warp.cw).1.extractLsb' (8 * (a % 4)) 8
      | none => s.agentByte p.key a

/-- Bytes as the current warp loads them, once filled. -/
def loadBytes (s : State) (p : Phys) (n : Nat) : List Byte :=
  match s.taken? none p.pa n with
  | some e => e.bytes
  | none => (range p.pa n).map (s.loadByte p)

/-- R309: whether a byte that the current warp loads lies in a poisoned word. -/
def loadBad (s : State) (p : Phys) (a : Nat) : Bool :=
  (s.forwarded none a).isNone &&
    (if p.unc then s.agentPoison a
     else match s.l1Word? s.warp.pcn a with
       | some w => (w.seenBy s.warp.cw).2
       | none => s.agentPoison a)

/-- R309: which bytes of a load of a range lie in poisoned words. -/
def loadBads (s : State) (p : Phys) (n : Nat) : List Nat :=
  match s.taken? none p.pa n with
  | some e => e.bad
  | none => (range 0 n).filter fun o => s.loadBad p (p.pa + o)

/-- Whether it consumes a poisoned word. -/
def loadPoisoned (s : State) (p : Phys) (n : Nat) : Bool := !(s.loadBads p n).isEmpty

/-! ## The constant cache (R310) -/

/-- The homes of some places read, sector by sector, owners asked for their words first. -/
def visitHomes (s : State) (ps : List Phys) : State :=
  ps.foldl (fun (acc : State × Option Nat) p =>
    if acc.2 = some (sectorOf p.pa) then acc else (acc.1.atHomes p.key p.pa 1, some (sectorOf p.pa))) (s, none) |>.1

/-- A byte of a launch's constant segment at its home; one whose page had no translation at placement is not stated (log 13). -/
def constByte (s : State) (l : Launch) (off : Nat) : Byte :=
  match constPlace l off with
  | some p => s.agentByte p.key p.pa
  | none => Config.lostByte (l.constVa + off)

/-- Whether it is poisoned there. -/
def constBad (s : State) (l : Launch) (off : Nat) : Bool := (constPlace l off).any fun p => s.agentPoison p.pa

/-- R310: the constant-cache line that holds a byte of a launch's segment, most recently used: filled from its homes where it is
missing. The lines of a launch that has retired are not filled again. -/
def constFill (s : State) (pcn launch off : Nat) : State :=
  match s.launch? launch with
  | none => s
  | some l =>
    let line := off / 192
    let mine := fun (w : ConstWord) => w.launch == launch && w.idx / 48 == line
    if l.state == .done then s
    else if (s.core pcn).ccache.any mine then
      s.modifyCore pcn fun c => { c with ccache := c.ccache.filter mine ++ c.ccache.filter fun w => !mine w }
    else
      let s := s.visitHomes ((range (192 * line) 192).filterMap (constPlace l))
      let ws := (range 0 48).map fun i =>
        let at_ := 192 * line + 4 * i
        (⟨launch, 48 * line + i, BitVec.ofNat 32 (ofBytes ((range at_ 4).map (s.constByte l))),
          (range at_ 4).any (s.constBad l)⟩ : ConstWord)
      s.modifyCore pcn fun c => { c with ccache := (ws ++ c.ccache).take (48 * 341) }

/-- The constant word that holds a byte, once filled. -/
def constWord (s : State) (off : Nat) : ConstWord :=
  (s.myCore.ccache.find? fun w => w.launch == s.warp.launch && w.idx == off / 4).getD ⟨s.warp.launch, off / 4, 0, false⟩

/-- Bytes of the constant space, once filled. -/
def constBytes (s : State) (off n : Nat) : List Byte :=
  (range off n).map fun o => (s.constWord o).value.extractLsb' (8 * (o % 4)) 8

/-- Fills what an access that performs needs. -/
def fillFate (s : State) (n : Nat) : LaneFate → State
  | .performs p none => s.fillFor p n
  | .performs _ (some off) =>
    (range (off / 192) ((off + n - 1) / 192 + 1 - off / 192)).foldl
      (fun s l => s.constFill s.warp.pcn s.warp.launch (192 * l)) s
  | _ => s

/-- The bytes an access that performs returns, once filled; a suppressed one returns zeros (R192). -/
def fateBytes (s : State) (n : Nat) : LaneFate → List Byte
  | .performs p none => s.loadBytes p n
  | .performs _ (some off) => s.constBytes off n
  | _ => List.replicate n 0

/-- Whether what it returns is poisoned. -/
def fatePoisoned (s : State) (n : Nat) : LaneFate → Bool
  | .performs p none => s.loadPoisoned p n
  | .performs _ (some off) => (range off n).any fun o => (s.constWord o).poison
  | _ => false

/-! ## Stores (R185, R295) -/

/-- A tag that no store in the current warp's buffer has. -/
def nextTag (s : State) : Nat := s.warp.stores.foldl (fun n p => max n (p.tag + 1)) 0

/-- Cells of global memory put into the current warp's store buffer under a tag, one entry a line. -/
def pushTagged (s : State) (tag : Nat) (key : BitVec 6) (unc : Bool) (cells : List Host.Cell) : State :=
  let lines := (cells.map fun c => lineOf c.1).eraseDups
  let s := s.dropAhead none cells
  { s with warp := { s.warp with stores := s.warp.stores ++ lines.map fun l =>
    { tag := tag, scratch := none, line := l, key := key, uncached := unc,
      cells := placeCells [] (cells.filter fun c => lineOf c.1 == l) } } }

/-- Cells of global memory put into the current warp's store buffer. -/
def pushStore (s : State) (key : BitVec 6) (unc : Bool) (cells : List Host.Cell) : State := s.pushTagged s.nextTag key unc cells

/-- Cells of a core's SRAM put into the current warp's store buffer. -/
def pushScratch (s : State) (pcn : Nat) (cells : List Host.Cell) : State :=
  let s := s.dropAhead (some pcn) cells
  { s with warp := { s.warp with stores := s.warp.stores ++
    [{ tag := s.nextTag, scratch := some pcn, line := 0, key := 0, uncached := false, cells := placeCells [] cells }] } }

/-- Bytes written to a core's SRAM: a 4-byte word written whole loses its poison (R309). -/
def sramWrite (s : State) (pcn : Nat) (cells : List Host.Cell) : State :=
  s.modifyCore pcn fun c => { c with
    sram := c.sram.putCells cells,
    sramPoison := c.sramPoison.filter fun w => !coversWord cells (4 * w) }

/-- R295, R287: a store performs: at the scratchpad that holds it, at the home of an uncached page, or by registration; its bytes enter
the L1 with the last line of its instruction. -/
def performStore (s : State) (p : PendingStore) : State :=
  match p.scratch with
  | some pcn => s.sramWrite pcn p.cells
  | none =>
    let more := s.warp.stores.any fun q => q.tag == p.tag && q.scratch.isNone
    let t :=
      if p.uncached then (s.homeWrite p.key (s.stampOf s.warp.launch) p.line p.cells).clearPoison p.cells
      else s.register s.warp.pcn p.key (s.stampOf s.warp.launch) p.line p.cells (if more then some (s.warp.cw, p.tag) else none)
    if more then t else t.reveal s.warp.pcn s.warp.cw p.tag

/-- Whether two lists of cells hold a common byte. -/
def shareByte (a b : List Host.Cell) : Bool := a.any fun x => (cellAt b x.1).isSome

/-- R185, R287, R314: whether a store may perform now: no older store of the warp to one of its bytes, or to the same core's SRAM, waits
before it. -/
def mayPerform (ps : List PendingStore) (n : Nat) : Bool :=
  match ps[n]? with
  | none => false
  | some p => (ps.take n).all fun q => q.scratch != p.scratch || (p.scratch.isNone && !shareByte q.cells p.cells)

/-- STORE_REGISTRATION (R295): the store at a place in the current warp's buffer performs. -/
def registerNth (s : State) (n : Nat) : State :=
  match s.warp.stores[n]? with
  | none => s
  | some p =>
    if mayPerform s.warp.stores n then
      ({ s with warp := { s.warp with stores := s.warp.stores.eraseIdx n } }).performStore p
    else s

/-- R304: every store of the current warp performs, oldest first. -/
def drain (s : State) : State :=
  ((List.replicate s.warp.stores.length 0)).foldl (fun s _ => s.registerNth 0) s

/-! ## Scratchpads (R16, R17, R232, R285) -/

/-- The block of the current warp's gang on a core, unless it has retired. -/
def blockOn? (s : State) (pcn : Nat) : Option Block :=
  (s.gang? s.warp.launch s.warp.gang).bind fun g => g.blocks.find? fun b => b.pcn == pcn && !b.retired

/-- R17, R285: the core and the SRAM byte a scratchpad access names, or the DETAIL of its SCRATCH_RANGE. -/
def scratchPlace (s : State) (addr size : Nat) : Except Nat (Nat × Nat) :=
  if addr ≥ 2 ^ 22 then .error 0
  else
    let pcn := if addr / 2 ^ 21 = 1 then s.warp.pcn else s.warp.pcn / 4 * 4 + addr / 2 ^ 19 % 4
    let off := addr % 2 ^ 19
    match s.blockOn? pcn with
    | none => .error 1
    | some b => if off + size > b.scratch * 32768 then .error 0 else .ok (pcn, b.unit * 32768 + off)

/-- A byte of a scratchpad as the current warp sees it (R185, R287). -/
def scratchByte (s : State) (pcn a : Nat) : Byte := ((s.forwarded (some pcn) a)).getD ((s.core pcn).sram.get a)

/-- Bytes of a scratchpad as the current warp sees them. -/
def scratchBytes (s : State) (pcn a n : Nat) : List Byte :=
  match s.taken? (some pcn) a n with
  | some e => e.bytes
  | none => (range a n).map (s.scratchByte pcn)

/-- Which bytes of a read of a scratchpad lie in poisoned words (R309). -/
def scratchBads (s : State) (pcn a n : Nat) : List Nat :=
  match s.taken? (some pcn) a n with
  | some e => e.bad
  | none => (range 0 n).filter fun o => (s.forwarded (some pcn) (a + o)).isNone && (s.core pcn).sramPoison.contains ((a + o) / 4)

/-- Whether it consumes a poisoned word. -/
def scratchPoisoned (s : State) (pcn a n : Nat) : Bool := !(s.scratchBads pcn a n).isEmpty

/-! ## Code (R305, R306, R353) -/

/-- The word of code at an address, as the fetch of a core returns it, and its place; or why there is none (R80). A word in the
core's instruction cache is returned from there, else read at its home, never from an owner's L1 (R306). The spec does not say what a
fetch does at an address that is not a multiple of 4 (`swr` may leave one in XPC): the four bytes there are the word (DESIGN CHOICE,
log 70). -/
def fetchWord (s : State) (pcn va : Nat) : Except Trouble (Word × Nat) :=
  match s.translate pcn .exec va with
  | .error t => .error t
  | .ok p =>
    match (s.core pcn).icache.find? fun e => e.1 == p.pa with
    | some e => .ok (e.2, p.pa)
    | none =>
      if s.poisonedAt p.pa then .error ⟨cUE, 0, BitVec.ofNat 64 va⟩
      else .ok (BitVec.ofNat 32 (ofBytes (s.homeRead p.key p.pa 4)), p.pa)

/-- R306: a word of code is translated, and one that the core's instruction cache lacks is brought to its home slice, as any line is (R293,
R367, R368). -/
def bringCode (s : State) (pcn va : Nat) : State :=
  match s.translate pcn .exec va with
  | .error _ => s
  | .ok p =>
    let s := s.cacheLeaf pcn va
    if (s.core pcn).icache.any fun e => e.1 == p.pa then s else (sectorsOf p.pa 4).foldl (fun s sec => s.fetch p.key sec) s

/-- A word of code fetched: brought to its home slice, its leaf kept in the TLB, and the word in the core's instruction cache. -/
def noteFetch (s : State) (pcn va : Nat) : State :=
  let s := s.bringCode pcn va
  match s.fetchWord pcn va with
  | .error _ => s
  | .ok (w, pa) =>
    s.modifyCore pcn fun c => if c.icache.any (fun e => e.1 == pa) then c else { c with icache := (pa, w) :: c.icache }

/-- The word a region's tables show at a code address, for counting stop bits (R380). The spec does not say what a word counts as whose
page has no translation: it counts as S = 0 (DESIGN CHOICE, log 86). -/
def codeWord (s : State) (root va : Nat) : Word :=
  match s.walk root va with
  | .ok (level, e) => BitVec.ofNat 32 (ofBytes (s.homeRead (pteKey e) (leafPa level e va) 4))
  | .error _ => 0

end State

/-- R380: where a code segment ends: with the last kernel's code. -/
def CodeSegment.stop (g : CodeSegment) : Nat := g.kernels.foldl (fun n k => max n (k.base + 4 * k.words)) g.start

/-- R380: whether an address lies within some kernel's code. -/
def CodeSegment.code (g : CodeSegment) (a : Nat) : Bool := g.kernels.any fun k => k.base ≤ a && a < k.base + 4 * k.words

/-- Whether a code segment holds an address. -/
def CodeSegment.holds (g : CodeSegment) (a : Nat) : Bool := g.start ≤ a && a < g.stop

namespace State

/-- R380: whether the word at an address of a code segment counts as a stop: within some kernel's code, S = 1. -/
def stopAt (s : State) (root : Nat) (g : CodeSegment) (a : Nat) : Bool := g.code a && (s.codeWord root a).getLsbD 31

/-- R380: the code segment from the first of some kernels' headers to the end of the last one's code, with the prefix table that the
loader builds for it. -/
def prefixed (s : State) (root start : Nat) (kernels : List Segment) : CodeSegment :=
  let g : CodeSegment := ⟨start, kernels, []⟩
  let words := (g.stop - g.start + 3) / 4
  { g with counts := (range 0 (words / 64 + 1)).map fun j =>
      ((range 0 (64 * j)).filter fun i => s.stopAt root g (g.start + 4 * i)).length }

/-- The code segment a word of a launch lies in: its image's, that of another image loaded in its region, or that of a translated
function of its region. -/
def segmentOf (s : State) (launch va : Nat) : Option CodeSegment :=
  match s.launch? launch with
  | none => none
  | some l => (l.segment :: (s.launches.filter fun k => k.rid == l.rid).map Launch.segment
      ++ (s.monarch.functions.filter fun f => f.rid == l.rid).map Translated.segment).find? fun g => g.holds va

/-- R380: the count of words with S = 1 that precede a word in its code segment, by the prefix table and the words after its entry, and
whether the word has S = 1 itself. A word outside every code segment has none before it; a translated function is a segment of its
own (DESIGN CHOICE, log 73). -/
def stopCount (s : State) (launch va : Nat) : Nat × Bool :=
  match s.segmentOf launch va with
  | none => (0, false)
  | some g =>
    let root := (s.region? ((s.launch? launch).elim 0 Launch.rid)).elim 0 Region.ptroot
    let w := (va - g.start) / 4
    (g.counts.getD (w / 64) 0 + ((range (w / 64 * 64) (w % 64)).filter fun i => s.stopAt root g (g.start + 4 * i)).length,
      s.stopAt root g va)

/-- R90, R380: the ordinal cited for a word. -/
def ordinalOf (s : State) (launch va : Nat) : Word :=
  let c := s.stopCount launch va
  if c.2 then BitVec.ofNat 32 c.1 else if c.1 = 0 then 0xFFFFFFFF#32 else BitVec.ofNat 32 (c.1 - 1)

end State

end Sys2Proof.Machine
end

