-- ==== Sys2Proof/Machine/Ops.lean ====
section
/-!
DEFINITION. What every instruction shares: retirement (R43, R136), the order of its checks (R80), fault records (R193), TAKING AN
EXCEPTION (R196, R269-R272, R280) and the return from one (R198-R200, R271), and waiting (R257).
-/

namespace Sys2Proof.Machine

/-- What an instruction's fault record says of the instruction (R193): the array register its word names, whether it writes
memory, and whether it takes the guard predicate (its LANES are then the effective mask, else the active mask). -/
structure Site where
  areg : BitVec 8 := 0xFF
  writes : Bool := false
  masked : Bool := false
deriving DecidableEq, Repr

/-- An instruction that names no array register and ignores the guard. -/
def Site.scalar : Site := {}

/-- An instruction that names no array register and takes the guard. -/
def Site.lanes : Site := { masked := true }

/-- R193: what the record of an ILLEGAL word says, for the instructions that a bad operand field can make ILLEGAL: the array register
the word names, whether the instruction writes memory, whether it takes the guard (R32). -/
def siteOf : Instr → Site
  | .slda _ k _ _ | .abind k _ | .abinds k _ | .aqry _ k _ => { areg := k.setWidth 8 }
  | .acopyIn k _ | .agather k _ => { areg := k.setWidth 8 }
  | .acopyOut k _ | .ascadd k _ => { areg := k.setWidth 8, writes := true }
  | .ssta _ k _ _
  | .aaddSg _ k _ _ | .aaddfSg _ k _ _ | .aminSg _ k _ _ | .amaxSg _ k _ _ | .aminuSg _ k _ _ | .amaxuSg _ k _ _
  | .aandSg _ k _ _ | .aorSg _ k _ _ | .axorSg _ k _ _ | .axchSg _ k _ _ | .acasSg _ k _ _ =>
    { areg := k.setWidth 8, writes := true }
  | .acasVg _ k _ _ => { areg := k.setWidth 8, writes := true, masked := true }
  | .fld _ k _ _ | .tld _ k _ _ | .tldv _ k _ _ => { areg := k.setWidth 8, masked := true }
  | .tst _ k _ _ | .tstA _ k _ _ => { areg := k.setWidth 8, writes := true, masked := true }
  | .ssts .. | .vspill .. | .sspill ..
  | .aaddSs .. | .aaddfSs .. | .aminSs .. | .amaxSs .. | .aminuSs .. | .amaxuSs .. | .aandSs .. | .aorSs .. | .axorSs ..
  | .axchSs .. | .acasSs .. => { writes := true }
  | .acasVs .. => { writes := true, masked := true }
  | .iclampV .. | .vbcast .. | .vextr .. | .vcvt .. | .vcmp .. | .vfcmp .. | .pand .. | .por .. | .pxor .. | .pnot ..
  | .pandn .. | .pset .. | .pget .. | .ppopc .. | .pfirst .. | .vshflx .. | .vrot .. | .vredadd .. | .vredmin .. | .vredmax ..
  | .flds .. => .lanes
  | _ => .scalar

/-- R193: the site of a word that has the place of an instruction but for a field that must be zero (R57, R71-R77), by its major and the
field that selects the member. A word of a major all of whose instructions take the guard takes it too, even where it is none of them
(DESIGN CHOICE, log 87). -/
def siteOfFields (w : Word) : Site :=
  let k : BitVec 8 := (field w 14 4).setWidth 8
  let d : BitVec 8 := (field w 18 4).setWidth 8
  let f := (field w 0 11).toNat
  let m := (field w 22 3).toNat
  let major := (field w 25 6).toNat
  if major = 0x34 then { areg := k, writes := true, masked := true }
  else if major = 0x35 then { areg := k, writes := true }
  else if major = 0x36 then { writes := true, masked := !w.getLsbD 17 }
  else if major = 0x33 then if f = 16 ∨ f = 17 then { areg := d } else .scalar
  else if major = 0x38 then
    if f = 0 ∨ f = 2 then { areg := d } else if f = 1 ∨ f = 3 then { areg := d, writes := true } else .scalar
  else if major = 0x3E then
    if m = 0 ∨ m = 2 ∨ m = 5 then { areg := k, masked := true }
    else if m = 3 ∨ m = 4 then { areg := k, writes := true, masked := true }
    else if m = 1 then .lanes
    else .scalar
  else if (0x14 ≤ major ∧ major ≤ 0x1B) ∨ (0x20 ≤ major ∧ major ≤ 0x22) ∨ major = 0x28 ∨ major = 0x29 ∨ major = 0x3C ∨ major = 0x3D then .lanes
  else .scalar

/-- R193: the site of an ILLEGAL word. -/
def siteOfWord (w : Word) : Site := (decodeShape w).elim (siteOfFields w) siteOf

/-- The causes that a warp's own handler takes (R196). -/
def inWarpCause (c : BitVec 16) : Bool :=
  (0x01 ≤ c.toNat && c.toNat ≤ 0x0D) || (0x10 ≤ c.toNat && c.toNat ≤ 0x12) || (0x20 ≤ c.toNat && c.toNat ≤ 0x22)

/-- The lane causes (R198). -/
def laneCause (c : BitVec 16) : Bool :=
  c == cMISALIGN || c == cBOUNDS || c == cPERMISSION || c == cLEASE || c == cTRANSLATION || c == cSCRATCH

/-- The 32 bytes of a fault record (R193). -/
def FaultRec.bytes (r : FaultRec) : List Byte :=
  bytesOf 2 r.cause.toNat
    ++ bytesOf 1 ((if r.writes then 1 else 0) + (if r.whole then 2 else 0) + (if r.inRep then 4 else 0))
    ++ bytesOf 1 r.count ++ bytesOf 4 r.lanes.toNat ++ bytesOf 8 r.addr.toNat ++ bytesOf 8 r.pc.toNat
    ++ bytesOf 4 r.ordinal.toNat ++ bytesOf 1 r.areg.toNat ++ bytesOf 1 r.detail.toNat ++ bytesOf 2 r.repidx.toNat

/-- The number of lanes in a mask. -/
def popCount {n : Nat} (m : BitVec n) : Nat := (range 0 n).foldl (fun k i => if m.getLsbD i then k + 1 else k) 0

/-- The lanes of a mask, ascending (R7). -/
def lanesOf (m : Word) : List Nat := (range 0 32).filter fun i => m.getLsbD i

/-- A mask of lanes. -/
def maskOf (l : List Nat) : Word := l.foldl (fun m i => m ||| (1#32 <<< i)) 0

namespace State

/-! ## Regions as they stand for a fault (R329) -/

/-- R329: a region's effective value of a field that bit `n` of OVR governs: its own when the bit is 1 or it is a root, else its
parent's; the chain is at most as long as the list of regions. -/
def effectiveIn {α : Type} (regions : List Region) (n : Nat) (f : Region → α) (r : Region) : Nat → α
  | 0 => f r
  | fuel + 1 =>
    if r.ovr.getLsbD n ∨ r.parent = 0 then f r
    else match regions.find? fun p => p.addr == r.parent with
      | none => f r
      | some p => effectiveIn regions n f p fuel

/-- The effective value of a field of a region of the machine. -/
def effective {α : Type} (s : State) (n : Nat) (f : Region → α) (r : Region) (fuel : Nat) : α :=
  effectiveIn s.regions n f r fuel

/-- The effective POLICY of a region (R344): 0 TERMINATE, 1 HANDLER, 2 DUMP, 3 JOURNAL-RELAUNCH; TERMINATE for a region the
machine does not know. -/
def policyOf (s : State) (rid : Nat) : Nat :=
  (s.region? rid).elim 0 fun r => (s.effective 6 (fun r => r.policy) r s.regions.length).toNat

/-- The effective TRAPMODE of a region. -/
def trapmodeOf (s : State) (rid : Nat) : BitVec 2 :=
  (s.region? rid).elim 0 fun r => s.effective 8 Region.trapmode r s.regions.length

/-! ## Retirement -/

/-- R43, R136: the current instruction retires: the pc goes on, or, in a `rep`, the repetition counts. A `tret.x` exclusion ends
with the instruction it reran (R198), a back-off returns to 64 cycles (R270). -/
def retire (s : State) : State :=
  let w := s.warp
  match w.rep with
  | none =>
    { s with warp := { w with pc := w.pc + 4, exclude := 0, rerun := false, resumed := false, resumedRep := false, wait := none,
                              status := .ready, backoff := 64 } }
  | some r =>
    if w.xrep.toNat + 1 < r.n then
      { s with warp := { w with xrep := w.xrep + 1, exclude := 0, rerun := false, resumed := false, resumedRep := false, wait := none,
                                status := .ready, backoff := 64 } }
    else
      { s with warp := { w with xrep := 0, rep := none, pc := w.pc + 8, exclude := 0, rerun := false, resumed := false,
                                resumedRep := false, wait := none, status := .ready, backoff := 64 } }

/-- Retirement with a transfer of control. -/
def retireTo (s : State) (pc : BitVec 48) : State := s.retire.setPc pc

/-- The current warp waits at its instruction (R257). -/
def await (s : State) (w : Wait) : State :=
  { s with warp := { s.warp with status := if w.givesUp then .waiting else .ready, wait := some w,
                                 waitSince := if s.warp.wait.isSome then s.warp.waitSince else s.clock } }

/-! ## Fault records (R193) -/

/-- The address of the word that faults: the repeated word of a `rep` in progress (R137). -/
def faultPc (s : State) : BitVec 48 := if s.warp.rep.isSome then s.warp.pc + 4 else s.warp.pc

/-- One record. -/
def recordOf (s : State) (site : Site) (whole : Bool) (lanes : Word) (t : Trouble) : FaultRec :=
  { cause := t.cause, writes := site.writes, whole := whole, inRep := s.warp.rep.isSome, count := popCount lanes,
    lanes := lanes, addr := t.addr, pc := s.faultPc, ordinal := s.ordinalOf s.warp.launch s.faultPc.toNat,
    areg := site.areg, detail := BitVec.ofNat 8 t.detail,
    repidx := if s.warp.rep.isSome then s.warp.xrep.setWidth 16 else 0 }

/-- R193: one record for each distinct cause, DETAIL and 4 KiB page, in ascending order of its lowest lane. -/
def recordsOf (s : State) (site : Site) : List (Nat × Trouble) → Nat → List FaultRec
  | [], _ => []
  | _, 0 => []
  | (l, t) :: rest, fuel + 1 =>
    let same := fun (x : Nat × Trouble) =>
      x.2.cause == t.cause && x.2.detail == t.detail && x.2.addr.toNat / 4096 == t.addr.toNat / 4096
    s.recordOf site false (maskOf (l :: (rest.filter same).map Prod.fst)) t
      :: s.recordsOf site (rest.filter fun x => !same x) fuel

/-- Cells of any lines registered for a core, line by line, as a store's are (R295). -/
def registerAll (s : State) (pcn : Nat) (key stamp : BitVec 6) (cells : List Host.Cell) : State :=
  (cells.map fun c => lineOf c.1).eraseDups.foldl (fun s line =>
    s.register pcn key stamp line (cells.filter fun c => lineOf c.1 == line) none) s

/-- Bytes that a core writes for itself at a place, as its stores are written (DESIGN CHOICE, log 53): by registration, and on an uncached
page at their home (R352). -/
def coreWrite (s : State) (pcn : Nat) (p : Phys) (bs : List Byte) : State :=
  let cells := cellsFrom p.pa bs
  if p.unc then s.homeWriteAll p.key 0 cells else s.registerAll pcn p.key 0 cells

/-- R196: the core writes the records to the warp's record area, at the frames it had at placement. An area that has none takes no
records (DESIGN CHOICE, log 91). -/
def writeRecords (s : State) (rs : List FaultRec) : State :=
  let bs := rs.flatMap FaultRec.bytes
  let n := 4096 - s.warp.recVa % 4096
  let s := match s.warp.recAt with
    | some p => (s.coreWrite s.warp.pcn p.1 (bs.take n)).coreWrite s.warp.pcn p.2 (bs.drop n)
    | none => s
  { s with warp := { s.warp with records := rs } }

/-! ## Taking an exception -/

/-- R378: the Luna records a fault makes: 0x40 for each TRANSLATION, with its level. -/
def lunaFault (s : State) (rs : List FaultRec) : State :=
  rs.foldl (fun s r =>
    if r.cause = cTRANSLATION then
      s.luna (clusterOf s.warp.pcn) 0x40 (whoOf s.warp.pcn s.warp.cw) 0 r.ordinal (r.detail.setWidth 64)
    else s) s

/-- R196: in-warp trap entry: records, XPC, XMASK, XCAUSE, XREC, then the handler's pc. TDEPTH and REPIP are recorded (R199,
R198); the active mask, the stack, MODE, FLG, XS and every other register stay. -/
def trapEntry (s : State) : State :=
  let rs := s.warp.pending
  let s := s.writeRecords rs
  let w := s.warp
  { s with warp := { w with
    xpc := w.pc
    xmask := rs.foldl (fun m r => m ||| r.lanes) 0
    xcause := (rs.head?.map FaultRec.cause).getD 0
    xrec := BitVec.ofNat 64 ((rs.length - 1) * 2 ^ 48 + w.recVa)
    pc := BitVec.ofNat 48 (w.khdr + w.trapvec)
    tdepth := w.stack.length
    repip := w.rep.isSome
    laneTrap := some ((rs.head?.map fun r => laneCause r.cause && !r.whole).getD false)
    rep := none, wait := none, pending := [], exclude := 0, rerun := false, resumed := false, resumedRep := false,
    ahead := [], status := .ready } }

/-- The current warp is brought back to its faulting instruction: a `rep` keeps its progress in XREP (R137), and younger loads that had
executed are squashed (R47). -/
def squash (s : State) : State :=
  { s with warp := { s.warp with rep := none, wait := none, exclude := 0, rerun := false, ahead := [] } }

/-- R332: a failure of a gang of a launch reaches the Monarch: the first in time gives the launch its cause; within a microsecond,
that of the lowest gang. -/
def noteFailure (s : State) (launch gang : Nat) (cause : BitVec 16) : State :=
  let now := s.gtime / 1000
  s.modifyLaunch launch fun l =>
    if !l.failed || (l.causeAt == now && gang < l.causeGang) then
      { l with failed := true, cause := cause, causeAt := now, causeGang := gang }
    else l

/-- R274: a gang halt asked for: the gang keeps the place and the first record of the warp that caused it. GANG_HALT sends it. -/
def requestHalt (s : State) (launch gang : Nat) (place : Nat × Nat) (r : Option FaultRec) (dump : Bool) : State :=
  s.modifyGang launch gang fun g =>
    if g.asked ∨ g.state ≠ .placed then { g with second := g.second ++ r.toList }
    else { g with asked := true, halt := r, haltBy := place, haltAt := s.gtime, dumpDue := dump }

/-- R274, R280: a gang halt asked for by the current warp, which drains. -/
def askGangHalt (s : State) (r : Option FaultRec) (dump : Bool) : State :=
  let w := s.warp
  let s := (s.requestHalt w.launch w.gang (w.pcn, w.cw) r dump).noteFailure w.launch w.gang ((r.map FaultRec.cause).getD 0)
  { s.squash with warp := { s.squash.warp with status := .draining } }

/-- R346, R344: under JOURNAL-RELAUNCH every placed gang of the launch is halted without a dump. -/
def askLaunchHalt (s : State) (launch : Nat) (relaunches : Bool) : State :=
  let s := s.modifyLaunch launch fun l => { l with ending := some (l.ending.getD relaunches) }
  { s with gangs := s.gangs.map fun g =>
    if g.launch = launch ∧ g.state = .placed ∧ !g.asked then { g with asked := true, haltAt := s.gtime, dumpDue := false } else g }

/-- R270: delivery in PERMIT mode: a free permit makes the warp TRAPPED; without one it is squashed into BACKOFF, whose length
doubles with each failed try up to 8,192 cycles. -/
def permitOrBackoff (s : State) : State :=
  let c := s.myCore
  if c.permits = 0 then
    { s.squash with warp := { s.squash.warp with status := .backoff, pending := [], waitSince := s.clock + s.warp.backoff,
                                                 backoff := min 8192 (2 * s.warp.backoff) } }
  else
    let s := s.setCore { c with permits := c.permits - 1 }
    { s.squash with warp := { s.squash.warp with status := .trapped, permit := true, pending := [], backoff := 64 } }

/-- R272: the key of a trap: its cause and the page of its address, or of its PC when the address is 0. -/
def trapKey (r : FaultRec) : Nat × Nat :=
  (r.cause.toNat, (if r.addr = 0 then r.pc.toNat else r.addr.toNat) / 4096)

/-- R272: delivery in COALESCE mode. A record counts the trap that opens it: COUNT starts at 1 (DESIGN CHOICE, log 62). -/
def coalesceTrap (s : State) (r : FaultRec) : State :=
  let c := s.myCore
  let bit := 1#32 <<< s.warp.cw
  let trapped := fun (s : State) =>
    { s.squash with warp := { s.squash.warp with status := .trapped, permit := false, pending := [] } }
  if c.coalesced.any fun x => trapKey x.first == trapKey r then
    let merged := changeWhere (fun x => trapKey x.first == trapKey r)
      (fun (x : Coalesced) => { x with warps := x.warps ||| bit, count := min 0xFFFFFFFF (x.count + 1) }) c.coalesced
    trapped (s.setCore { c with coalesced := merged })
  else if c.coalesced.length < 16 then
    trapped (s.setCore { c with coalesced := c.coalesced ++ [⟨r, bit, 1, s.gtime⟩] })
  else { s with warp := { s.warp with status := .waiting, wait := some .coalescer } }

/-- R269, R280: a fault beyond the warp: its records are written, then the region's policy decides. A delivery whose handler is a
host that is not attached is answered HALT (R395). -/
def deliverBeyond (s : State) : State :=
  match s.warp.pending with
  | [] => s
  | r :: _ =>
    let policy := s.policyOf s.warp.rid
    let unheard := (s.trapmodeOf s.warp.rid).getLsbD 0 && !s.monarch.hostAttached
    let coalesce := s.myCore.coalesce
    let s := s.writeRecords s.warp.pending
    let s := s.luna (clusterOf s.warp.pcn) 0x20 (whoOf s.warp.pcn s.warp.cw) 0 r.ordinal (r.cause.setWidth 64)
    if policy = 1 then
      if unheard then s.askGangHalt (some r) false
      else if coalesce then s.coalesceTrap r else s.permitOrBackoff
    else if policy = 3 then (s.askGangHalt (some r) false).askLaunchHalt s.warp.launch false
    else s.askGangHalt (some r) (policy == 2)

/-- UE and GRID_FAULT (R269, R273): the records are written and the warp drains; WARP_HALT ends it. -/
def beginHalt (s : State) : State :=
  let s := s.writeRecords s.warp.pending
  { s.squash with warp := { s.squash.warp with status := .draining } }

/-- The fault the current warp has raised is taken: by the warp's own handler (R196), as a halt (R273), or beyond the warp. -/
def takeFault (s : State) : State :=
  match s.warp.pending with
  | [] => s
  | r :: _ =>
    let s := s.lunaFault s.warp.pending
    if r.cause = cUE ∨ r.cause = cGRID then s.beginHalt
    else if inWarpCause r.cause && s.warp.trapvec != 0 && s.warp.xcause == 0 then s.trapEntry
    else s.deliverBeyond

/-- A fault raised by the current instruction, precisely at it (R47). -/
def raise (s : State) (rs : List FaultRec) : State := ({ s with warp := { s.warp with pending := rs } }).takeFault

/-- A lane-independent fault, or one of a scalar member: one record (R193). -/
def fault (s : State) (site : Site) (t : Trouble) : State :=
  (s.walked t).raise [s.recordOf site true (if site.masked then s.effMask else s.warp.active) t]

/-- The faults of lanes, in ascending lane order (R192, R193). -/
def faultLanes (s : State) (site : Site) (l : List (Nat × Trouble)) : State :=
  (l.foldl (fun s x => s.walked x.2) s).raise (s.recordsOf site l l.length)

/-- R80: the first check that fails is taken; when all pass, the instruction goes on. -/
def checked (s : State) (site : Site) (checks : List (Bool × Trouble)) (body : State) : State :=
  match checks.find? Prod.fst with
  | some c => s.fault site c.2
  | none => body

end State

/-- ILLEGAL, detail 0 (R194). -/
def illegal : Trouble := ⟨cILLEGAL, 0, 0⟩
/-- ILLEGAL, detail 1: a descriptor, form word or program (R194). -/
def malformedForm : Trouble := ⟨cILLEGAL, 1, 0⟩
/-- ILLEGAL_IN_MODE. -/
def inMode : Trouble := ⟨cMODE, 0, 0⟩
/-- MASK_INCOMPLETE. -/
def maskIncomplete : Trouble := ⟨cMASK, 0, 0⟩
/-- DIVERGENCE_DEPTH. -/
def depthFault : Trouble := ⟨cDEPTH, 0, 0⟩

/-! ## Returning from an exception -/

/-- How a handler or a command resumes the instruction that faulted (R198, R271). -/
inductive Resume where
  | retry | skip | exclude
deriving DecidableEq, Repr

/-- Whether an instruction is a vector member, whose memory faults are lane faults (R198). -/
def vectorMember : Instr → Bool
  | .lda .. => true | .sta .. => true | .ldb .. => true | .stb .. => true | .lds .. => true | .sts .. => true
  | .aaddVg .. => true | .aaddfVg .. => true | .aminVg .. => true | .amaxVg .. => true | .aminuVg .. => true
  | .amaxuVg .. => true | .aandVg .. => true | .aorVg .. => true | .axorVg .. => true | .axchVg .. => true
  | .acasVg .. => true | .aappVg .. => true
  | .aaddVs .. => true | .aaddfVs .. => true | .aminVs .. => true | .amaxVs .. => true | .aminuVs .. => true
  | .amaxuVs .. => true | .aandVs .. => true | .aorVs .. => true | .axorVs .. => true | .axchVs .. => true
  | .acasVs .. => true | .aappVs .. => true
  | _ => false

namespace State

/-- The repeat count of the `rep` word at an address (R63, R136); 64 when it cannot be fetched, so that the retry meets the
fetch fault. -/
def repCountAt (s : State) (pc : Nat) : Nat :=
  match s.fetchWord s.warp.pcn pc with
  | .ok (w, _) => (field w 18 6).toNat + 1
  | .error _ => 64

/-- R198: resuming the instruction at `at_`, which is a `rep` in progress when `inRep`; `lane`: a lane cause of a vector member. -/
def resumeAt (s : State) (how : Resume) (at_ : BitVec 48) (inRep lane : Bool) (mask : Word) : State :=
  let w := s.warp
  let ready := fun (w : Warp) => { w with status := .ready, wait := none, rep := none, pending := [] }
  let skip :=
    if inRep then
      if w.xrep.toNat + 1 = s.repCountAt at_.toNat then { s with warp := ready { w with xrep := 0, pc := at_ + 8 } }
      else { s with warp := ready { w with xrep := w.xrep + 1, pc := at_ } }
    else { s with warp := ready { w with pc := at_ + 4 } }
  match how with
  | .retry => { s with warp := ready { w with pc := at_ } }
  | .skip => skip
  | .exclude => if lane then { s with warp := ready { w with pc := at_, exclude := mask, rerun := true } } else skip

/-- Whether the word at XPC (the repeated word, when REPIP is 1) is a vector member (R198). It decides for a warp of whose trap entry
nothing is kept: one that has been restored, or whose handler has returned from a nested trap (DEDUCED, log 58). -/
def faultedVector (s : State) : Bool :=
  match s.fetchWord s.warp.pcn (s.warp.xpc.toNat + if s.warp.repip then 4 else 0) with
  | .ok (w, _) => (match decode w with | .ok i => vectorMember i | .error _ => false)
  | .error _ => false

/-- R198-R200: the end of a handler: the depth must be that of the trap entry, XCAUSE becomes 0, REPIP is cleared. -/
def trapReturn (s : State) (how : Resume) : State :=
  s.checked .scalar [(s.warp.xcause == 0, inMode), (s.warp.stack.length != s.warp.tdepth, depthFault)] <|
    let lane := laneCause s.warp.xcause && s.warp.laneTrap.getD s.faultedVector
    let t := s.resumeAt how s.warp.xpc s.warp.repip lane s.warp.xmask
    { t with warp := { t.warp with xcause := 0, repip := false, laneTrap := none, resumed := false, resumedRep := false } }

end State

end Sys2Proof.Machine
end

