-- ==== Sys2Proof/Machine/Flags.lean ====
section
/-!
DEFINITION. The flags of FLG (R33), and the narrowing of integers with its flags (R91-R93).
-/

namespace Sys2Proof.Machine

/-- NV, invalid operation. -/
def fNV : BitVec 8 := 0x01
/-- DZ, division by zero. -/
def fDZ : BitVec 8 := 0x02
/-- OF, overflow. -/
def fOF : BitVec 8 := 0x04
/-- UF, underflow. -/
def fUF : BitVec 8 := 0x08
/-- NX, inexact. -/
def fNX : BitVec 8 := 0x10
/-- SA, integer saturation. -/
def fSA : BitVec 8 := 0x20
/-- QL, Q128 window lost. -/
def fQL : BitVec 8 := 0x40
/-- AC, checksum correction. -/
def fAC : BitVec 8 := 0x80

/-- R91: an integer element type: its width and whether it is signed. -/
structure IntTy where
  w : Nat
  signed : Bool
deriving DecidableEq, Repr

/-- R91, R30: the integer element type of an ET code 0-5; the bits of a floating element as an unsigned type of its width
(R148, the bitwise class). -/
def intTy (et : Nat) : IntTy :=
  if et = 0 then ⟨32, true⟩ else if et = 1 then ⟨32, false⟩ else if et = 2 then ⟨16, true⟩ else if et = 3 then ⟨16, false⟩
  else if et = 4 then ⟨8, true⟩ else if et = 5 then ⟨8, false⟩ else if et = 6 then ⟨32, false⟩
  else if et = 7 ∨ et = 8 then ⟨16, false⟩ else ⟨8, false⟩

/-- The least value of a type (R91). -/
def IntTy.lo (t : IntTy) : Int := if t.signed then -(2 ^ (t.w - 1)) else 0

/-- The greatest value of a type (R91). -/
def IntTy.hi (t : IntTy) : Int := if t.signed then 2 ^ (t.w - 1) - 1 else 2 ^ t.w - 1

/-- An element's bits as its value. -/
def IntTy.value (t : IntTy) (bits : Nat) : Int :=
  if t.signed && 2 ^ (t.w - 1) ≤ bits then (bits : Int) - 2 ^ t.w else bits

/-- An exact integer modulo 2^w, as bits. -/
def IntTy.bits (t : IntTy) (x : Int) : Nat := (x % 2 ^ t.w).toNat

/-- R92: an exact integer narrowed to a type, and the flag it sets. -/
def narrow (t : IntTy) (sat : Bool) (x : Int) : Nat × BitVec 8 :=
  if t.lo ≤ x ∧ x ≤ t.hi then (t.bits x, 0)
  else if sat then (t.bits (if x < t.lo then t.lo else t.hi), fSA)
  else (t.bits x, fOF)

/-- R93: quotient and remainder of a division, and its flag. -/
def divide (signed : Bool) (a b : DWord) : DWord × DWord × BitVec 8 :=
  if b = 0 then (0, a, fDZ)
  else if signed then
    if a = BitVec.intMin 64 ∧ b = -1 then (a, 0, fOF)
    else (BitVec.ofInt 64 (a.toInt.tdiv b.toInt), BitVec.ofInt 64 (a.toInt.tmod b.toInt), 0)
  else (BitVec.ofNat 64 (a.toNat / b.toNat), BitVec.ofNat 64 (a.toNat % b.toNat), 0)

/-- R59: a condition code on two values of one width. -/
def condition {n : Nat} (cc : Nat) (a b : BitVec n) : Bool :=
  if cc = 0 then a == b else if cc = 1 then a != b else if cc = 2 then a.slt b else if cc = 3 then !a.slt b
  else if cc = 4 then a.ult b else !a.ult b

end Sys2Proof.Machine
end

