-- ==== Sys2Proof/Machine/Float.lean ====
section
/-!
DEFINITION. Floating numbers at the bit (R94-R106): formats, exact values, rounding in every mode with its flags, and the
operations of R110 that round once.
-/

namespace Sys2Proof.Machine

/-- A floating format: exponent bits, fraction bits, bias, infinities (R94). -/
structure Fmt where
  eb : Nat
  fb : Nat
  bias : Nat
  inf : Bool
deriving DecidableEq, Repr

/-- F32. -/
def F32 : Fmt := ⟨8, 23, 127, true⟩
/-- F16. -/
def F16 : Fmt := ⟨5, 10, 15, true⟩
/-- BF16. -/
def BF16 : Fmt := ⟨8, 7, 127, true⟩
/-- F8A. -/
def F8A : Fmt := ⟨4, 3, 7, false⟩
/-- F8B. -/
def F8B : Fmt := ⟨5, 2, 15, true⟩

/-- The format of an ET code 6-10 (R30). -/
def fmtOf (et : Nat) : Fmt :=
  if et = 6 then F32 else if et = 7 then F16 else if et = 8 then BF16 else if et = 9 then F8A else F8B

/-- The width of a format. -/
def Fmt.width (F : Fmt) : Nat := 1 + F.eb + F.fb

/-- The sign bit as a number. -/
def Fmt.signBit (F : Fmt) (neg : Bool) : Nat := if neg then 2 ^ (F.eb + F.fb) else 0

/-- The exponent of the smallest normal (R94). -/
def Fmt.emin (F : Fmt) : Int := 1 - F.bias

/-- The canonical NaN (R95). -/
def Fmt.nan (F : Fmt) : Nat := if F.inf then (2 ^ F.eb - 1) * 2 ^ F.fb + 2 ^ (F.fb - 1) else 2 ^ (F.eb + F.fb) - 1

/-- An infinity; in F8A the canonical NaN (R101). -/
def Fmt.infinity (F : Fmt) (neg : Bool) : Nat :=
  if F.inf then F.signBit neg + (2 ^ F.eb - 1) * 2 ^ F.fb else F.nan

/-- The largest finite magnitude's bits (R95). -/
def Fmt.maxBits (F : Fmt) : Nat := if F.inf then (2 ^ F.eb - 1) * 2 ^ F.fb - 1 else 2 ^ (F.eb + F.fb) - 2

/-- A floating value: NaN, an infinity, or (−1)^neg × m × 2^e; zeros keep their sign. -/
inductive FVal where
  | nan
  | inf (neg : Bool)
  | fin (neg : Bool) (m : Nat) (e : Int)
deriving DecidableEq, Repr

/-- R94: the value of a format's bits. -/
def Fmt.decode (F : Fmt) (bits : Nat) : FVal :=
  let neg := bits / 2 ^ (F.eb + F.fb) % 2 = 1
  let ex := bits / 2 ^ F.fb % 2 ^ F.eb
  let fr := bits % 2 ^ F.fb
  if F.inf ∧ ex = 2 ^ F.eb - 1 then (if fr = 0 then .inf neg else .nan)
  else if !F.inf ∧ ex = 2 ^ F.eb - 1 ∧ fr = 2 ^ F.fb - 1 then .nan
  else if ex = 0 then .fin neg fr (F.emin - F.fb)
  else .fin neg (2 ^ F.fb + fr) (ex - F.bias - F.fb)

/-- R98: the value read under MODE.DZ. -/
def Fmt.read (F : Fmt) (dz : Bool) (bits : Nat) : FVal :=
  match F.decode bits with
  | .fin neg m e => if dz && m < 2 ^ F.fb then .fin neg 0 e else .fin neg m e
  | v => v

/-- Whether a magnitude k × 2^q exceeds the largest finite value. -/
def Fmt.exceeds (F : Fmt) (k : Nat) (q : Int) : Bool :=
  match F.decode F.maxBits with
  | .fin _ m e => if q ≤ e then k > m * 2 ^ (e - q).toNat else k * 2 ^ (q - e).toNat > m
  | _ => false

/-- R99, R102: whether the larger magnitude is chosen, from the units below (k), the remainder over 2^sh and more below. -/
def roundsUp (rm : Nat) (rand : Nat) (neg : Bool) (k rem sh : Nat) (sticky : Bool) : Bool :=
  let inexact := rem != 0 || sticky
  if rm = 0 then 2 * rem > 2 ^ sh || (2 * rem == 2 ^ sh && (sticky || k % 2 == 1))
  else if rm = 1 then false
  else if rm = 2 then inexact && !neg
  else if rm = 3 then inexact && neg
  else if rm = 4 then 2 * rem ≥ 2 ^ sh
  else inexact && rem * 2 ^ 24 / 2 ^ sh + rand ≥ 2 ^ 24

/-- A magnitude m × 2^e (a little more, when sticky) as a multiple of 2^q: the multiple chosen, whether it is the larger one, and
whether it differs. -/
def roundUnits (rm rand : Nat) (neg : Bool) (m : Nat) (e : Int) (sticky : Bool) (q : Int) : Nat × Bool × Bool :=
  if q ≤ e then
    let k := m * 2 ^ (e - q).toNat
    let up := sticky && roundsUp rm rand neg k 0 1 sticky
    (if up then k + 1 else k, up, sticky)
  else
    let sh := (q - e).toNat
    let k := m / 2 ^ sh
    let rem := m % 2 ^ sh
    let up := roundsUp rm rand neg k rem sh sticky
    (if up then k + 1 else k, up, rem != 0 || sticky)

/-- R99-R101: a non-zero magnitude rounded once to a format: its bits and flags. -/
def Fmt.round (F : Fmt) (rm rand : Nat) (dz neg : Bool) (m : Nat) (e : Int) (sticky : Bool) : Nat × BitVec 8 :=
  let q := (Nat.log2 m : Int) + e - F.fb
  let (k, up, inexact) := roundUnits rm rand neg m e sticky q
  if F.exceeds k q then
    let toInf := if rm = 0 ∨ rm = 4 then true else if rm = 1 then false else if rm = 2 then !neg
      else if rm = 3 then neg else up || !inexact
    (F.signBit neg + (if F.inf && toInf then (2 ^ F.eb - 1) * 2 ^ F.fb else F.maxBits), fOF ||| fNX)
  else if q + F.fb + (if k = 2 ^ (F.fb + 1) then 1 else 0) < F.emin then
    if dz then (F.signBit neg, fUF ||| fNX)
    else
      let (k, _, inexact) := roundUnits rm rand neg m e sticky (F.emin - F.fb)
      (F.signBit neg + k, if inexact then fUF ||| fNX else 0)
  else (F.signBit neg + ((q + F.fb + F.bias - 1) * 2 ^ F.fb + k).toNat, if inexact then fNX else 0)

/-- A finite value rounded; zeros keep their sign. -/
def Fmt.roundFin (F : Fmt) (rm rand : Nat) (dz neg : Bool) (m : Nat) (e : Int) (sticky : Bool) : Nat × BitVec 8 :=
  if m = 0 ∧ !sticky then (F.signBit neg, 0) else F.round rm rand dz neg m e sticky

/-- A signed sum of dyadics at a common exponent. -/
def sumDyadics (l : List (Int × Int)) : Int × Int :=
  let e := l.foldl (fun e t => if t.1 = 0 then e else min e t.2) 1000000
  (l.foldl (fun s t => if t.1 = 0 then s else s + t.1 * 2 ^ (t.2 - e).toNat) 0, e)

/-- A finite value as a signed dyadic. -/
def FVal.signed : FVal → Int × Int
  | .fin neg m e => (if neg then -(m : Int) else m, e)
  | _ => (0, 0)

/-- Whether a value is a negative one, zeros by their sign. -/
def FVal.isNeg : FVal → Bool
  | .fin neg _ _ => neg
  | .inf neg => neg
  | .nan => false

/-- The sign inverted. -/
def FVal.neg : FVal → FVal
  | .fin s m e => .fin (!s) m e
  | .inf s => .inf (!s)
  | .nan => .nan

/-- R97, R110, R117: the exact sum of terms rounded once: NaN terms, opposite infinities (NV), the sign of an exact zero. -/
def Fmt.sum (F : Fmt) (rm rand : Nat) (dz : Bool) (terms : List FVal) : Nat × BitVec 8 :=
  if terms.any (· == .nan) then (F.nan, 0)
  else if terms.any (· == .inf false) && terms.any (· == .inf true) then (F.nan, fNV)
  else if terms.any (· == .inf false) then (F.infinity false, 0)
  else if terms.any (· == .inf true) then (F.infinity true, 0)
  else
    let (x, e) := sumDyadics (terms.map FVal.signed)
    if x = 0 then
      let allNeg := terms.all fun t => t.isNeg && t.signed.1 == 0
      let allPos := terms.all fun t => !t.isNeg && t.signed.1 == 0
      (F.signBit (allNeg || (!allPos && rm == 3)), 0)
    else F.round rm rand dz (x < 0) x.natAbs e false

/-- The exact product of two values; 0 × ∞ is none. -/
def FVal.mul : FVal → FVal → Option FVal
  | .nan, _ => some .nan
  | _, .nan => some .nan
  | .inf s, .inf t => some (.inf (s != t))
  | .inf s, .fin t m _ => if m = 0 then none else some (.inf (s != t))
  | .fin s m _, .inf t => if m = 0 then none else some (.inf (s != t))
  | .fin s m e, .fin t n f => some (.fin (s != t) (m * n) (e + f))

/-- `vfmul` (R165). -/
def Fmt.mul (F : Fmt) (rm rand : Nat) (dz : Bool) (a b : FVal) : Nat × BitVec 8 :=
  match a.mul b with
  | none => (F.nan, fNV)
  | some .nan => (F.nan, 0)
  | some (.inf s) => (F.infinity s, 0)
  | some (.fin s m e) => F.roundFin rm rand dz s m e false

/-- The fused members (R165): ±(a × b) ± c rounded once. -/
def Fmt.fma (F : Fmt) (rm rand : Nat) (dz negP negC : Bool) (a b c : FVal) : Nat × BitVec 8 :=
  match a.mul b with
  | none => (F.nan, fNV)
  | some p => F.sum rm rand dz [if negP then p.neg else p, if negC then c.neg else c]

/-- `vfdiv` (R166). -/
def Fmt.div (F : Fmt) (rm rand : Nat) (dz : Bool) (a b : FVal) : Nat × BitVec 8 :=
  match a, b with
  | .nan, _ => (F.nan, 0)
  | _, .nan => (F.nan, 0)
  | .inf _, .inf _ => (F.nan, fNV)
  | .inf s, .fin t _ _ => (F.infinity (s != t), 0)
  | .fin s _ _, .inf t => (F.signBit (s != t), 0)
  | .fin s m e, .fin t n f =>
    if n = 0 then (if m = 0 then (F.nan, fNV) else (F.infinity (s != t), fDZ))
    else if m = 0 then (F.signBit (s != t), 0)
    else
      let sh := 96 + Nat.log2 n
      F.round rm rand dz (s != t) (m * 2 ^ sh / n) (e - f - sh) (m * 2 ^ sh % n != 0)

/-- The integer square root, by bits from `i` down. -/
def isqrtFrom (n : Nat) : Nat → Nat → Nat
  | 0, r => if (r + 1) * (r + 1) ≤ n then r + 1 else r
  | i + 1, r => isqrtFrom n i (if (r + 2 ^ (i + 1)) * (r + 2 ^ (i + 1)) ≤ n then r + 2 ^ (i + 1) else r)

/-- The integer square root. -/
def isqrt (n : Nat) : Nat := isqrtFrom n (Nat.log2 n / 2 + 1) 0

/-- `vfsqrt` (R167). -/
def Fmt.sqrt (F : Fmt) (rm rand : Nat) (dz : Bool) : FVal → Nat × BitVec 8
  | .nan => (F.nan, 0)
  | .inf s => if s then (F.nan, fNV) else (F.infinity false, 0)
  | .fin s m e =>
    if m = 0 then (F.signBit s, 0)
    else if s then (F.nan, fNV)
    else
      let m2 := (if e % 2 = 0 then m else 2 * m) * 2 ^ 128
      let e2 := if e % 2 = 0 then e - 128 else e - 129
      let r := isqrt m2
      F.round rm rand dz false r (e2 / 2) (r * r != m2)

/-- `vfrnd` (R167): rounded to an integral value of the same format. -/
def Fmt.rnd (F : Fmt) (rm rand : Nat) (dz : Bool) : FVal → Nat × BitVec 8
  | .nan => (F.nan, 0)
  | .inf s => (F.infinity s, 0)
  | .fin s m e =>
    let (k, _, inexact) := roundUnits rm rand s m e false 0
    ((F.roundFin 0 0 dz s k 0 false).1, if inexact then fNX else 0)

/-- R97: `minimumNumber` (`less` true) and `maximumNumber`, on values read under DZ; −0 lies below +0. -/
def Fmt.minMax (F : Fmt) (least dz : Bool) (x y : Nat) : Nat :=
  let back := fun (bits : Nat) => match F.read dz bits with
    | .fin s 0 _ => F.signBit s
    | _ => bits
  match F.read dz x, F.read dz y with
  | .nan, .nan => F.nan
  | .nan, _ => back y
  | _, .nan => back x
  | a, b =>
    let key := fun (v : FVal) => match v with
      | .inf s => if s then ((-1 : Int), (1 : Int), (0 : Int)) else (1, 1, 0)
      | _ => (0, 0, 0)
    let below :=
      match a, b with
      | .fin s m e, .fin t n f =>
        let (p, q) := ((FVal.fin s m e).signed, (FVal.fin t n f).signed)
        let (d, _) := sumDyadics [p, (-q.1, q.2)]
        d < 0 || (d == 0 && s && !t)
      | _, _ => (key a).1 < (key b).1
    if below == least then back x else back y

/-- R104: conversion between formats. -/
def convertFF (S D : Fmt) (rm rand : Nat) (dz : Bool) (bits : Nat) : Nat × BitVec 8 :=
  match S.read dz bits with
  | .nan => (D.nan, 0)
  | .inf s => (D.infinity s, if D.inf then 0 else fNV)
  | .fin s m e => D.roundFin rm rand dz s m e false

/-- R105: conversion to an integer type. -/
def convertFI (S : Fmt) (t : IntTy) (rm rand : Nat) (dz : Bool) (bits : Nat) : Nat × BitVec 8 :=
  match S.read dz bits with
  | .nan => (0, fNV)
  | .inf s => (t.bits (if s then t.lo else t.hi), fNV)
  | .fin s m e =>
    let (k, _, inexact) := roundUnits rm rand s m e false 0
    let x : Int := if s then -(k : Int) else k
    if x > t.hi then (t.bits t.hi, fNV) else if x < t.lo then (t.bits t.lo, fNV)
    else (t.bits x, if inexact then fNX else 0)

/-- R106: conversion from an integer. -/
def convertIF (D : Fmt) (rm rand : Nat) (dz : Bool) (x : Int) : Nat × BitVec 8 :=
  D.roundFin rm rand dz (x < 0) x.natAbs 0 false

/-- R170: the class code. -/
def Fmt.classOf (F : Fmt) (bits : Nat) : Nat :=
  match F.decode bits with
  | .nan => 8
  | .inf s => if s then 0 else 7
  | .fin s m _ =>
    if m = 0 then (if s then 3 else 4)
    else if m < 2 ^ F.fb then (if s then 2 else 5)
    else (if s then 1 else 6)

/-- The order of two values that are no NaN: −1, 0 or 1. -/
def FVal.cmp : FVal → FVal → Int
  | .inf s, .inf t => if s = t then 0 else if s then -1 else 1
  | .inf s, _ => if s then -1 else 1
  | _, .inf t => if t then 1 else -1
  | a, b => Int.sign (sumDyadics [a.signed, (-b.signed.1, b.signed.2)]).1

/-- R171: a floating relation and its NV. -/
def floatRelation (cc : Nat) (a b : FVal) : Bool × BitVec 8 :=
  if a = .nan ∨ b = .nan then
    (cc == 1 || cc == 6, if 2 ≤ cc ∧ cc ≤ 5 then fNV else 0)
  else
    let c := a.cmp b
    (if cc = 0 then c == 0 else if cc = 1 then c != 0 else if cc = 2 then c < 0 else if cc = 3 then c ≥ 0
     else if cc = 4 then c ≤ 0 else if cc = 5 then c > 0 else cc == 7, 0)

/-! ## Stochastic rounding (R102) -/

/-- One step of XS: the new halves and the step's output. -/
def xsStep (x0 x1 : DWord) : DWord × DWord × DWord :=
  let t := x0 ^^^ (x0 <<< 23)
  let t := t ^^^ (t >>> 17) ^^^ x1 ^^^ (x1 >>> 26)
  (x1, t, t + x1)

/-- rand(i): the 24-bit draw of an element position from a step's output. -/
def randAt (o : DWord) (i : Nat) : Nat :=
  let z := o + BitVec.ofNat 64 (i + 1) * 0x9E3779B97F4A7C15#64
  let z := (z ^^^ (z >>> 30)) * 0xBF58476D1CE4E5B9#64
  let z := (z ^^^ (z >>> 27)) * 0x94D049BB133111EB#64
  let z := z ^^^ (z >>> 31)
  (z.extractLsb' 40 24).toNat

namespace State

/-- The output of the step a rounding instruction draws from. -/
def draw (s : State) : DWord := (xsStep s.warp.xs0 s.warp.xs1).2.2

/-- R103: XS advances once, under RM = SR. -/
def advanceXs (s : State) : State :=
  if s.rm = 5 then
    let x := xsStep s.warp.xs0 s.warp.xs1
    { s with warp := { s.warp with xs0 := x.1, xs1 := x.2.1 } }
  else s

end State

end Sys2Proof.Machine
end

