-- ==== Sys2Proof/Machine/Approx.lean ====
section
/-!
DEFINITION. The approximate functions (R110, R168). The spec allows any value within 2 ulp of the exact result: the machine
returns the free value `Config.approx` where that lies within 2 ulp, and else the nearest value to an enclosure of the exact
result, so that a value within the bound comes out whatever the free value is (log 8). The enclosures are fixed-point numbers
of 300 fraction bits.
-/

namespace Sys2Proof.Machine

/-- floor(π/2 × 2^640). -/
def halfPi : Nat := 0x1921FB54442D18469898CC51701B839A252049C1114CF98E804177D4C76273644A29410F31C6809BBDF2A33679A748636605614DBE4BE286E9FC26ADADAA3848BC90B6AECC4BCFD8DE89885D34C6FDAD6

/-- floor(ln 2 × 2^300). -/
def ln2 : Nat := 0xB17217F7D1CF79ABC9E3B39803F2F6AF40F343267298B62D8A0D175B8BAAFA2BE7B876206DE

/-- Scale of the fixed-point numbers. -/
def one300 : Int := 2 ^ 300

/-- The exponential series: `n` more terms after the k-th. -/
def expSeries (x : Int) : Nat → Nat → Int → Int
  | 0, _, t => t
  | n + 1, k, t => t + expSeries x n (k + 1) (t * x / (k * one300))

/-- The sine or cosine series: each term is the last times −x²/((k)(k+1)). -/
def trigSeries (x2 : Int) : Nat → Nat → Int → Int
  | 0, _, t => t
  | n + 1, k, t => t + trigSeries x2 n (k + 2) (-(t * x2 / (k * (k + 1) * one300)))

/-- The series of the inverse hyperbolic tangent. -/
def atanhSeries (z2 : Int) : Nat → Nat → Int → Int
  | 0, k, t => t / k
  | n + 1, k, t => t / k + atanhSeries z2 n (k + 2) (t * z2 / one300)

/-- sin of a fixed-point angle. -/
def sin300 (x : Int) : Int := trigSeries (x * x / one300) 60 2 x

/-- cos of a fixed-point angle. -/
def cos300 (x : Int) : Int := trigSeries (x * x / one300) 60 1 one300

/-- m × 2^e modulo π/2: the quadrant modulo 4 and the rest as a fixed-point number. -/
def reduce (m : Nat) (e : Int) : Nat × Int :=
  let a := m * 2 ^ (e + 640).toNat
  (a / halfPi % 4, ((a % halfPi / 2 ^ 340 : Nat) : Int))

/-- An approximation Y × 2^e of an exact result, right to within 2^(e + 20). -/
structure Enclosed where
  y : Int
  e : Int
deriving DecidableEq, Repr

/-- sin of (−1)^neg × m × 2^e. -/
def encSin (neg : Bool) (m : Nat) (e : Int) : Enclosed :=
  let (q, r) := reduce m e
  let y := if q = 0 then sin300 r else if q = 1 then cos300 r else if q = 2 then -sin300 r else -cos300 r
  ⟨if neg then -y else y, -300⟩

/-- cos of m × 2^e. -/
def encCos (m : Nat) (e : Int) : Enclosed :=
  let (q, r) := reduce m e
  ⟨if q = 0 then cos300 r else if q = 1 then -sin300 r else if q = 2 then -cos300 r else sin300 r, -300⟩

/-- 2 to the power (−1)^neg × m × 2^e; powers beyond ±4,096 lie beyond every format and are taken as ±4,096. -/
def encExp2 (neg : Bool) (m : Nat) (e : Int) : Enclosed :=
  let big := (Nat.log2 m : Int) + e ≥ 12
  let x : Int := if big then 4096 * one300 else m * 2 ^ (e + 300).toNat
  let x := if neg then -x else x
  ⟨expSeries (x % one300 * ln2 / one300) 90 1 one300, x / one300 - 300⟩

/-- log₂ of m × 2^e. -/
def encLog2 (m : Nat) (e : Int) : Enclosed :=
  let l := Nat.log2 m
  let z : Int := ((m : Int) - 2 ^ l) * one300 / (m + 2 ^ l)
  let at_ := atanhSeries (z * z / one300) 100 1 z
  ⟨(e + l) * one300 + 2 * at_ * one300 / ln2, -300⟩

/-- The reciprocal. -/
def encRcp (neg : Bool) (m : Nat) (e : Int) : Enclosed :=
  let y : Int := (2 ^ 400 / m : Nat)
  ⟨if neg then -y else y, -400 - e⟩

/-- The reciprocal square root. -/
def encRsq (m : Nat) (e : Int) : Enclosed :=
  let m2 := if e % 2 = 0 then m else 2 * m
  let e2 := if e % 2 = 0 then e else e - 1
  ⟨(isqrt (2 ^ 800 / m2) : Nat), -400 - e2 / 2⟩

/-- R110: whether a value of a format lies within 2 ulp of every result that an enclosure allows: the ulp is that of the smallest
magnitude in it, and its width is taken off the bound. -/
def withinTwoUlp (F : Fmt) (x : Enclosed) (bits : Nat) : Bool :=
  match F.decode bits with
  | .fin s m e =>
    let ulp := max ((Nat.log2 (x.y.natAbs - 2 ^ 20) : Int) + x.e) F.emin - F.fb
    let d := (sumDyadics [(FVal.fin s m e).signed, (-x.y, x.e)])
    let bound := sumDyadics [(2, ulp), (-1, x.e + 20)]
    (sumDyadics [(d.1.natAbs, d.2), (-bound.1, bound.2)]).1 ≤ 0
  | _ => false

/-- R168: what an approximate function delivers for an enclosed result that no row names exact, from the free value. The spec does not
say whether a result is subnormal by the exact value or by the one chosen within 2 ulp, where the two lie on either side of the smallest
normal: UF and the flush under DZ = 1 follow the value chosen (DESIGN CHOICE, log 8). -/
def Fmt.deliver (F : Fmt) (dz : Bool) (cand : Nat) (x : Enclosed) : Nat × BitVec 8 :=
  let neg := x.y < 0
  let cand := cand % 2 ^ F.width
  if F.exceeds x.y.natAbs x.e then (F.signBit neg + (if F.inf then (2 ^ F.eb - 1) * 2 ^ F.fb else F.maxBits), fOF ||| fNX)
  else
    let bits := if withinTwoUlp F x cand then cand
      else min (F.roundFin 0 0 false neg x.y.natAbs x.e false).1 (F.signBit neg + F.maxBits)
    if bits % 2 ^ (F.eb + F.fb) < 2 ^ F.fb then
      (if dz then F.signBit neg else bits, fUF ||| fNX)
    else (bits, fNX)

/-- The approximate functions. -/
inductive Fn where
  | rcp | rsq | exp2 | log2 | sin | cos
deriving DecidableEq, Repr

/-- The number under which `Config.approx` is asked for a function. -/
def Fn.code : Fn → Nat
  | .rcp => 2 | .rsq => 3 | .exp2 => 5 | .log2 => 6 | .sin => 7 | .cos => 8

/-- Whether a magnitude is a power of two, and which: the exponent of m × 2^e. -/
def powerOfTwo (m : Nat) (e : Int) : Option Int := if m = 2 ^ Nat.log2 m then some ((Nat.log2 m : Int) + e) else none

/-- An integer m × 2^e, when it is one of moderate size. -/
def integral (neg : Bool) (m : Nat) (e : Int) : Option Int :=
  let sgn := fun (k : Nat) => if neg then -(k : Int) else k
  if (Nat.log2 m : Int) + e ≥ 12 then none
  else if e ≥ 0 then some (sgn (m * 2 ^ e.toNat))
  else if m % 2 ^ (-e).toNat = 0 then some (sgn (m / 2 ^ (-e).toNat)) else none

/-- R168: an approximate function on an element. -/
def Fmt.approximate (F : Fmt) (et : Nat) (dz : Bool) (fn : Fn) (bits : Nat) : Nat × BitVec 8 :=
  let cand := Config.approx fn.code et bits
  let one : Nat × BitVec 8 := F.round 0 0 dz false 1 0 false
  match F.read dz bits, fn with
  | .nan, _ => (F.nan, 0)
  | .inf s, .rcp => (F.signBit s, 0)
  | .inf s, .rsq => if s then (F.nan, fNV) else (0, 0)
  | .inf s, .exp2 => if s then (0, 0) else (F.infinity false, 0)
  | .inf s, .log2 => if s then (F.nan, fNV) else (F.infinity false, 0)
  | .inf _, .sin => (F.nan, fNV)
  | .inf _, .cos => (F.nan, fNV)
  | .fin s m e, fn =>
    if m = 0 then
      match fn with
      | .rcp => (F.infinity s, fDZ)
      | .rsq => (F.infinity s, fDZ)
      | .exp2 => one
      | .log2 => (F.infinity true, fDZ)
      | .sin => (F.signBit s, 0)
      | .cos => one
    else
      match fn with
      | .rcp =>
        (match powerOfTwo m e with
         | some k => F.round 0 0 dz s 1 (-k) false
         | none => F.deliver dz cand (encRcp s m e))
      | .rsq =>
        if s then (F.nan, fNV)
        else (match powerOfTwo m e with
          | some k => if k % 2 = 0 then F.round 0 0 dz false 1 (-(k / 2)) false else F.deliver dz cand (encRsq m e)
          | none => F.deliver dz cand (encRsq m e))
      | .exp2 =>
        (match integral s m e with
         | some k =>
           if F.emin - F.fb ≤ k then F.round 0 0 dz false 1 k false else F.deliver dz cand (encExp2 s m e)
         | none => F.deliver dz cand (encExp2 s m e))
      | .log2 =>
        if s then (F.nan, fNV)
        else (match powerOfTwo m e with
          | some k =>
            let r := F.roundFin 0 0 dz (k < 0) k.natAbs 0 false
            if r.2 = 0 then r else ((F.deliver dz cand (encLog2 m e)).1, 0)
          | none => F.deliver dz cand (encLog2 m e))
      | .sin => F.deliver dz cand (encSin s m e)
      | .cos => F.deliver dz cand (encCos m e)

end Sys2Proof.Machine
end

