-- ==== Sys2Proof/Machine/Operands.lean ====
section
/-!
DEFINITION. Operand forms: the interval rules on shadows (R121, R151), elements of a lane (R21, R150), and how every vector
instruction checks, computes and writes (R148-R153).
-/

namespace Sys2Proof.Machine

/-- What a meaning answers. -/
abbrev Out := Host.Outcome State Fault Refusal

/-! ## Computed intervals (R120, R154) -/

/-- Addition. -/
def Shadow.add : Shadow → Shadow → Shadow := Shadow.map2 fun l1 h1 l2 h2 => .of (l1 + l2) (h1 + h2)
/-- Subtraction. -/
def Shadow.sub : Shadow → Shadow → Shadow := Shadow.map2 fun l1 h1 l2 h2 => .of (l1 - h2) (h1 - l2)
/-- Multiplication: the extremes of the four endpoint products. -/
def Shadow.mul : Shadow → Shadow → Shadow := Shadow.map2 fun l1 h1 l2 h2 =>
  .of (min (min (l1 * l2) (l1 * h2)) (min (h1 * l2) (h1 * h2))) (max (max (l1 * l2) (l1 * h2)) (max (h1 * l2) (h1 * h2)))
/-- R154: a product and an addend. The ends of the sum alone are tested (R151), not those of the product. -/
def Shadow.mulAdd : Shadow → Shadow → Shadow → Shadow
  | .bounded l1 h1, .bounded l2 h2, .bounded l3 h3 =>
    .of (Min.min (Min.min (l1 * l2) (l1 * h2)) (Min.min (h1 * l2) (h1 * h2)) + l3)
      (Max.max (Max.max (l1 * l2) (l1 * h2)) (Max.max (h1 * l2) (h1 * h2)) + h3)
  | _, _, _ => .unbounded
/-- Signed minimum. -/
def Shadow.min : Shadow → Shadow → Shadow := Shadow.map2 fun l1 h1 l2 h2 => .of (Min.min l1 l2) (Min.min h1 h2)
/-- Signed maximum. -/
def Shadow.max : Shadow → Shadow → Shadow := Shadow.map2 fun l1 h1 l2 h2 => .of (Max.max l1 l2) (Max.max h1 h2)
/-- A left shift by a constant. -/
def Shadow.shl (n : Nat) : Shadow → Shadow := Shadow.map fun l h => .of (l * 2 ^ n) (h * 2 ^ n)
/-- A logical right shift by a constant, of a non-negative interval. -/
def Shadow.shr (n : Nat) : Shadow → Shadow := Shadow.map fun l h => if 0 ≤ l then .of (l / 2 ^ n) (h / 2 ^ n) else .unbounded
/-- An arithmetic right shift by a constant. -/
def Shadow.sra (n : Nat) : Shadow → Shadow := Shadow.map fun l h => .of (l / 2 ^ n) (h / 2 ^ n)
/-- AND with an immediate. -/
def Shadow.and (imm : Int) (s : Shadow) : Shadow :=
  if imm < 0 then .unbounded
  else s.map fun l h => if 0 ≤ l then .of 0 (Min.min h imm) else .of 0 imm
/-- Negation. -/
def Shadow.negate : Shadow → Shadow := Shadow.map fun l h => .of (-h) (-l)

/-! ## Elements of a lane (R21, R150) -/

/-- The bits of element j of a lane. -/
def elem (w : Nat) (x : Word) (j : Nat) : Nat := x.toNat / 2 ^ (w * j) % 2 ^ w

/-- A lane from its elements. -/
def packLane (w : Nat) (f : Nat → Nat) : Word :=
  BitVec.ofNat 32 ((range 0 (32 / w)).foldl (fun acc j => acc + f j % 2 ^ w * 2 ^ (w * j)) 0)

/-- A result computed per element: lanes, and the flags of the elements of the mask's lanes (R149). -/
def perElement (w : Nat) (mask : Word) (f : Nat → Nat → Nat × BitVec 8) : Lanes × BitVec 8 :=
  (Vector.ofFn fun i : Fin 32 => packLane w fun j => (f i.val j).1,
   (lanesOf mask).foldl (fun acc i => (range 0 (32 / w)).foldl (fun acc j => acc ||| (f i j).2) acc) 0)

/-- A lane's word by number. -/
def lane (x : Lanes) (i : Nat) : Word := x.get ⟨i % 32, Nat.mod_lt _ (by decide)⟩

/-- A result computed per lane. -/
def perLane (f : Nat → Word) : Lanes := Vector.ofFn fun i : Fin 32 => f i.val

/-- R205, R206: whether vector register n belongs to a pinned tile, by the tiles' kind and the pin mask. -/
def inTile (acc : Bool) (pin : BitVec 4) (n : Nat) : Bool := if acc then pin != 0 else pin.getLsbD (n / 32)

namespace State

/-! ## Checks of a vector instruction (R21, R148, R152, R153) -/

/-- R52, R21: a vector register the running kernel does not have. -/
def beyondVarch (s : State) (rs : List (BitVec 7)) : Bool := rs.any fun r => s.warp.varch ≤ r.toNat

/-- R205, R206, R207: whether a vector register is pinned to a tile. -/
def pinned (s : State) (r : BitVec 7) : Bool := inTile s.warp.tileAcc s.warp.pin r.toNat

/-- R80 groups 2 and 4 for a vector instruction: the registers it names, whether its type class takes the ET, whether it rounds,
and its vector destination. -/
def vectorChecks (s : State) (regs : List (BitVec 7)) (etOk rounds : Bool) (dst : Option (BitVec 7)) : List (Bool × Trouble) :=
  [(s.beyondVarch regs, illegal),
   (!etOk || (rounds && 6 ≤ s.rm) || (match dst with | some d => s.pinned d | none => false), inMode)]

/-- A vector instruction that writes vd (R149): its lanes, flags and computed shadow; a rounding one advances XS (R153). An
all-zero effective mask makes it a no-op (R48). -/
def vectorOp (s : State) (regs : List (BitVec 7)) (etOk rounds : Bool) (d : BitVec 7) (res : Lanes × BitVec 8) (sh : Shadow) :
    State :=
  s.checked .lanes (s.vectorChecks regs etOk rounds (some d)) <|
    if s.effMask = 0 then s.retire
    else
      let t := (s.writeV d s.effMask res.1 sh).orFlags res.2
      (if rounds then t.advanceXs else t).retire

/-- A vector or predicate instruction that writes a scalar (R151, R174, R176). -/
def vectorToScalar (s : State) (regs : List (BitVec 7)) (etOk rounds : Bool) (d : BitVec 7) (x : DWord) (sh : Shadow)
    (flags : BitVec 8) : State :=
  s.checked .lanes (s.vectorChecks regs etOk rounds none) <|
    if s.effMask = 0 then s.retire
    else
      let t := (s.writeS d x sh).orFlags flags
      (if rounds then t.advanceXs else t).retire

/-- A vector instruction that writes a predicate (R149). -/
def vectorToPred (s : State) (regs : List (BitVec 7)) (etOk : Bool) (d : BitVec 7) (bits : Word) (flags : BitVec 8) : State :=
  s.checked .lanes (s.vectorChecks regs etOk false none) <|
    if s.effMask = 0 then s.retire
    else ((s.writeP d s.effMask bits).orFlags flags).retire

/-- A scalar instruction's result (R119). -/
def scalarOp (s : State) (d : BitVec 7) (x : DWord) (sh : Shadow) : State := (s.writeS d x sh).retire

/-- The integer class's shadow: only I32 has an interval (R151). -/
def int32Shadow (s : State) (sh : Shadow) : Shadow := if s.et = 0 then sh else .unbounded

/-- An integer-class instruction on elements: exact integers narrowed (R92). -/
def integerOp (s : State) (regs : List (BitVec 7)) (d : BitVec 7) (sh : Shadow) (f : Nat → Nat → Int) : State :=
  s.vectorOp regs (s.et ≤ 5) false d
    (perElement (intTy s.et).w s.effMask fun i j => narrow (intTy s.et) s.sat (f i j)) (s.int32Shadow sh)

/-- Element j of lane i of a vector register, as an integer of the element type. -/
def intElem (s : State) (r : BitVec 7) (i j : Nat) : Int :=
  (intTy s.et).value (elem (intTy s.et).w (lane (s.readV r) i) j)

/-- Its bits. -/
def bitsElem (s : State) (r : BitVec 7) (i j : Nat) : Nat := elem (intTy s.et).w (lane (s.readV r) i) j

/-- A bitwise-class instruction on elements: no flags (R148, R158, R159). -/
def bitwiseOp (s : State) (regs : List (BitVec 7)) (d : BitVec 7) (sh : Shadow) (f : Nat → Nat → Nat) : State :=
  s.vectorOp regs (s.et ≤ 10) false d (perElement (intTy s.et).w s.effMask fun i j => (f i j, 0)) (s.int32Shadow sh)

/-- An untyped instruction on whole lanes: no flags. -/
def laneOp (s : State) (regs : List (BitVec 7)) (d : BitVec 7) (sh : Shadow) (f : Nat → Word) : State :=
  s.vectorOp regs true false d (perLane f, 0) sh

/-- Whether the ET is a floating one (R148). -/
def floating (s : State) : Bool := 6 ≤ s.et && s.et ≤ 10

/-- A floating-class instruction on elements. -/
def floatOp (s : State) (regs : List (BitVec 7)) (rounds : Bool) (d : BitVec 7) (f : Nat → Nat → Nat × BitVec 8) : State :=
  s.vectorOp regs s.floating rounds d (perElement (fmtOf s.et).width s.effMask f) .unbounded

/-- Element j of lane i read as a floating value under MODE.DZ (R98). -/
def floatElem (s : State) (r : BitVec 7) (i j : Nat) : FVal :=
  (fmtOf s.et).read s.dz (elem (fmtOf s.et).width (lane (s.readV r) i) j)

/-- Its bits. -/
def floatBits (s : State) (r : BitVec 7) (i j : Nat) : Nat := elem (fmtOf s.et).width (lane (s.readV r) i) j

/-- The draw of an element position (R102, R150). -/
def rand (s : State) (i j : Nat) : Nat := randAt s.draw (4 * i + j)

end State

end Sys2Proof.Machine
end

