-- ==== Sys2Proof/Machine/Scalar.lean ====
section
/-!
DEFINITION. The scalar integer instructions (R119-R121) and the interval instructions (R122-R124).
-/

namespace Sys2Proof.Machine

/-! ## Major 0x00 -/

/-- `sadd` (R120). -/
def execSadd (d a b : BitVec 7) (s : State) : Out :=
  .next (s.scalarOp d (s.readS a + s.readS b) ((s.shadowS a).add (s.shadowS b)))
/-- `ssub` (R120). -/
def execSsub (d a b : BitVec 7) (s : State) : Out :=
  .next (s.scalarOp d (s.readS a - s.readS b) ((s.shadowS a).sub (s.shadowS b)))
/-- `smul` (R120). -/
def execSmul (d a b : BitVec 7) (s : State) : Out :=
  .next (s.scalarOp d (s.readS a * s.readS b) ((s.shadowS a).mul (s.shadowS b)))
/-- `smulh` (R120). -/
def execSmulh (d a b : BitVec 7) (s : State) : Out :=
  .next (s.scalarOp d (BitVec.ofInt 64 ((s.readS a).toInt * (s.readS b).toInt / 2 ^ 64)) .unbounded)
/-- `smulhu` (R120). -/
def execSmulhu (d a b : BitVec 7) (s : State) : Out :=
  .next (s.scalarOp d (BitVec.ofNat 64 ((s.readS a).toNat * (s.readS b).toNat / 2 ^ 64)) .unbounded)
/-- `sand` (R120). -/
def execSand (d a b : BitVec 7) (s : State) : Out := .next (s.scalarOp d (s.readS a &&& s.readS b) .unbounded)
/-- `sor` (R120). -/
def execSor (d a b : BitVec 7) (s : State) : Out := .next (s.scalarOp d (s.readS a ||| s.readS b) .unbounded)
/-- `sxor` (R120). -/
def execSxor (d a b : BitVec 7) (s : State) : Out := .next (s.scalarOp d (s.readS a ^^^ s.readS b) .unbounded)
/-- The count of a register shift: bits [5:0] (R120). -/
def shiftCount (x : DWord) : Nat := x.toNat % 64
/-- `sshl` (R120). -/
def execSshl (d a b : BitVec 7) (s : State) : Out := .next (s.scalarOp d (s.readS a <<< shiftCount (s.readS b)) .unbounded)
/-- `sshr` (R120). -/
def execSshr (d a b : BitVec 7) (s : State) : Out := .next (s.scalarOp d (s.readS a >>> shiftCount (s.readS b)) .unbounded)
/-- `ssra` (R120). -/
def execSsra (d a b : BitVec 7) (s : State) : Out :=
  .next (s.scalarOp d ((s.readS a).sshiftRight (shiftCount (s.readS b))) .unbounded)
/-- `smin` (R120). -/
def execSmin (d a b : BitVec 7) (s : State) : Out :=
  .next (s.scalarOp d (if (s.readS b).slt (s.readS a) then s.readS b else s.readS a) ((s.shadowS a).min (s.shadowS b)))
/-- `smax` (R120). -/
def execSmax (d a b : BitVec 7) (s : State) : Out :=
  .next (s.scalarOp d (if (s.readS a).slt (s.readS b) then s.readS b else s.readS a) ((s.shadowS a).max (s.shadowS b)))
/-- `sminu` (R120). -/
def execSminu (d a b : BitVec 7) (s : State) : Out :=
  .next (s.scalarOp d (if (s.readS b).ult (s.readS a) then s.readS b else s.readS a) .unbounded)
/-- `smaxu` (R120). -/
def execSmaxu (d a b : BitVec 7) (s : State) : Out :=
  .next (s.scalarOp d (if (s.readS a).ult (s.readS b) then s.readS b else s.readS a) .unbounded)

/-! ## Major 0x01 -/

/-- A division's result and flag (R93). -/
def divisionOp (s : State) (d : BitVec 7) (x : DWord) (f : BitVec 8) : State := ((s.writeS d x .unbounded).orFlags f).retire
/-- `sdiv` (R93). -/
def execSdiv (d a b : BitVec 7) (s : State) : Out :=
  .next (divisionOp s d (divide true (s.readS a) (s.readS b)).1 (divide true (s.readS a) (s.readS b)).2.2)
/-- `sdivu` (R93). -/
def execSdivu (d a b : BitVec 7) (s : State) : Out :=
  .next (divisionOp s d (divide false (s.readS a) (s.readS b)).1 (divide false (s.readS a) (s.readS b)).2.2)
/-- `srem` (R93). -/
def execSrem (d a b : BitVec 7) (s : State) : Out :=
  .next (divisionOp s d (divide true (s.readS a) (s.readS b)).2.1 (divide true (s.readS a) (s.readS b)).2.2)
/-- `sremu` (R93). -/
def execSremu (d a b : BitVec 7) (s : State) : Out :=
  .next (divisionOp s d (divide false (s.readS a) (s.readS b)).2.1 (divide false (s.readS a) (s.readS b)).2.2)
/-- `spopc` (R120). -/
def execSpopc (d a : BitVec 7) (s : State) : Out := .next (s.scalarOp d (BitVec.ofNat 64 (popCount (s.readS a))) .unbounded)
/-- The number of leading zero bits of a number read in w bits. -/
def leadingZeros (w x : Nat) : Nat := if x = 0 then w else w - 1 - Nat.log2 x
/-- `sclz` (R120). -/
def execSclz (d a : BitVec 7) (s : State) : Out :=
  .next (s.scalarOp d (BitVec.ofNat 64 (leadingZeros 64 (s.readS a).toNat)) .unbounded)
/-- `sshli` (R120). -/
def execSshli (d a n : BitVec 7) (s : State) : Out :=
  .next (s.scalarOp d (s.readS a <<< n.toNat) ((s.shadowS a).shl n.toNat))
/-- `sshri` (R120). -/
def execSshri (d a n : BitVec 7) (s : State) : Out :=
  .next (s.scalarOp d (s.readS a >>> n.toNat) ((s.shadowS a).shr n.toNat))
/-- `ssrai` (R120). -/
def execSsrai (d a n : BitVec 7) (s : State) : Out :=
  .next (s.scalarOp d ((s.readS a).sshiftRight n.toNat) ((s.shadowS a).sra n.toNat))
/-- 1 when a condition holds, else 0 (R120). -/
def setOn (s : State) (cc : Nat) (d a b : BitVec 7) : State :=
  s.scalarOp d (if condition cc (s.readS a) (s.readS b) then 1 else 0) .unbounded
/-- `sset.eq` (R120). -/
def execSsetEq (d a b : BitVec 7) (s : State) : Out := .next (setOn s 0 d a b)
/-- `sset.ne` (R120). -/
def execSsetNe (d a b : BitVec 7) (s : State) : Out := .next (setOn s 1 d a b)
/-- `sset.lt` (R120). -/
def execSsetLt (d a b : BitVec 7) (s : State) : Out := .next (setOn s 2 d a b)
/-- `sset.ge` (R120). -/
def execSsetGe (d a b : BitVec 7) (s : State) : Out := .next (setOn s 3 d a b)
/-- `sset.ltu` (R120). -/
def execSsetLtu (d a b : BitVec 7) (s : State) : Out := .next (setOn s 4 d a b)
/-- `sset.geu` (R120). -/
def execSsetGeu (d a b : BitVec 7) (s : State) : Out := .next (setOn s 5 d a b)

/-! ## Majors 0x02-0x07 -/

/-- `saddi` (R120). -/
def execSaddi (d a : BitVec 7) (i : BitVec 11) (s : State) : Out :=
  .next (s.scalarOp d (s.readS a + i.signExtend 64) ((s.shadowS a).add (.exact i.toInt)))
/-- `sandi` (R120). -/
def execSandi (d a : BitVec 7) (i : BitVec 11) (s : State) : Out :=
  .next (s.scalarOp d (s.readS a &&& i.signExtend 64) ((s.shadowS a).and i.toInt))
/-- `sori` (R120). -/
def execSori (d a : BitVec 7) (i : BitVec 11) (s : State) : Out := .next (s.scalarOp d (s.readS a ||| i.signExtend 64) .unbounded)
/-- `sxori` (R120). -/
def execSxori (d a : BitVec 7) (i : BitVec 11) (s : State) : Out := .next (s.scalarOp d (s.readS a ^^^ i.signExtend 64) .unbounded)
/-- `sli` (R120). -/
def execSli (d : BitVec 7) (i : BitVec 18) (s : State) : Out := .next (s.scalarOp d (i.signExtend 64) (.exact i.toInt))
/-- `slih` (R60, R120). -/
def execSlih (d : BitVec 7) (i : BitVec 18) (s : State) : Out :=
  .next (s.scalarOp d ((s.readS d <<< 18) ||| i.setWidth 64) .unbounded)

/-! ## Interval instructions (R122-R124) -/

/-- The widened interval (R122). -/
def Shadow.widen (up down : Bool) : Shadow → Shadow
  | .bounded lo hi => .bounded (if down then -2147483648 else lo) (if up then 2147483647 else hi)
  | .unbounded => .unbounded

/-- A scalar register's interval widened; s0 keeps its own. -/
def widenScalar (s : State) (up down : Bool) (d : BitVec 7) : State := (s.refineS d ((s.shadowS d).widen up down)).retire

/-- A vector register's interval widened, whatever the masks; a pinned one faults. -/
def widenVector (s : State) (up down : Bool) (d : BitVec 7) : State :=
  s.checked .scalar [(s.beyondVarch [d], illegal), (s.pinned d, inMode)]
    (s.putV d (s.readV d) ((s.shadowV d).widen up down)).retire

/-- `iwiden.u` of a scalar (R122). -/
def execIwidenUS (d : BitVec 7) (s : State) : Out := .next (widenScalar s true false d)
/-- `iwiden.l` of a scalar (R122). -/
def execIwidenLS (d : BitVec 7) (s : State) : Out := .next (widenScalar s false true d)
/-- `iwiden.b` of a scalar (R122). -/
def execIwidenBS (d : BitVec 7) (s : State) : Out := .next (widenScalar s true true d)
/-- `iwiden.u` of a vector (R122). -/
def execIwidenUV (d : BitVec 7) (s : State) : Out := .next (widenVector s true false d)
/-- `iwiden.l` of a vector (R122). -/
def execIwidenLV (d : BitVec 7) (s : State) : Out := .next (widenVector s false true d)
/-- `iwiden.b` of a vector (R122). -/
def execIwidenBV (d : BitVec 7) (s : State) : Out := .next (widenVector s true true d)

/-- R123: the clamp interval a scalar packs. -/
def clampLo (c : DWord) : Int := (c.extractLsb' 0 32).toInt
/-- Its upper end. -/
def clampHi (c : DWord) : Int := (c.extractLsb' 32 32).toInt
/-- R123: min(max(x, lo), hi). -/
def clampTo (c : DWord) (x : Int) : Int := min (max x (clampLo c)) (clampHi c)
/-- R123: the shadow of a clamp: clamp(−∞) is min(lo, hi), clamp(+∞) is hi. -/
def clampShadow (c : DWord) : Shadow → Shadow
  | .bounded lo hi => .bounded (clampTo c lo) (clampTo c hi)
  | .unbounded => .bounded (min (clampLo c) (clampHi c)) (clampHi c)
/-- R123: NV when the interval is empty. -/
def clampFlags (c : DWord) : BitVec 8 := if clampHi c < clampLo c then fNV else 0

/-- `iclamp` of a scalar (R123). -/
def execIclampS (d a b : BitVec 7) (s : State) : Out :=
  .next ((s.writeS d (BitVec.ofInt 64 (clampTo (s.readS b) (s.readS a).toInt)) (clampShadow (s.readS b) (s.shadowS a))).orFlags
    (clampFlags (s.readS b))).retire
/-- `iclamp` of a vector (R123): lanes as I32, whatever MODE.ET says. -/
def execIclampV (d a b : BitVec 7) (s : State) : Out :=
  .next (s.vectorOp [d, a] true false d
    (perLane fun i => BitVec.ofInt 32 (clampTo (s.readS b) (lane (s.readV a) i).toInt), clampFlags (s.readS b))
    (clampShadow (s.readS b) (s.shadowV a)))

/-- R124: a shadow as a scalar. -/
def Shadow.packed : Shadow → DWord
  | .bounded lo hi => BitVec.ofInt 32 hi ++ BitVec.ofInt 32 lo
  | .unbounded => 0x800000007FFFFFFF#64

/-- `ishq` of a scalar (R124). -/
def execIshqS (d a : BitVec 7) (s : State) : Out := .next (s.scalarOp d (s.shadowS a).packed .unbounded)
/-- `ishq` of a vector (R124). -/
def execIshqV (d a : BitVec 7) (s : State) : Out :=
  .next (s.checked .scalar [(s.beyondVarch [a], illegal)] (s.scalarOp d (s.shadowV a).packed .unbounded))

end Sys2Proof.Machine
end

