-- ==== Sys2Proof/Machine/Control.lean ====
section
/-!
DEFINITION. Control flow: compare-and-branch with refinement (R125-R128), jumps and calls (R129), divergence (R130-R132), the
repeat prefix (R134-R138), `tfence` and `nop` (R139, R140).
-/

namespace Sys2Proof.Machine

/-! ## Refinement (R126, R127) -/

/-- R126: the shadow of a register known to satisfy a condition against a value. -/
def refine (cc : Nat) (v : DWord) (sh : Shadow) : Shadow :=
  if cc = 0 then (if inInt32 v.toInt then .bounded v.toInt v.toInt else sh)
  else if cc = 4 then
    if 1 ≤ v.toNat ∧ v.toNat ≤ 2 ^ 31 then
      match sh with
      | .bounded lo hi => .bounded (max lo 0) (min hi (v.toNat - 1))
      | .unbounded => .bounded 0 (v.toNat - 1)
    else sh
  else match sh with
    | .unbounded => .unbounded
    | .bounded lo hi =>
      if cc = 1 then (if lo = v.toInt then .bounded (lo + 1) hi else if hi = v.toInt then .bounded lo (hi - 1) else sh)
      else if cc = 2 then .bounded lo (min hi (v.toInt - 1))
      else if cc = 3 then .bounded (max lo v.toInt) hi
      else if 0 ≤ lo then .bounded (max lo v.toNat) hi else sh

/-- The negation of a condition (R126). -/
def negateCc (cc : Nat) : Nat := if cc % 2 = 0 then cc + 1 else cc - 1

/-- R127: the second operand's shadow, from the value of the first: the mirror of the condition, none when u + 1 overflows. -/
def mirror (cc : Nat) (u : DWord) (sh : Shadow) : Shadow :=
  if cc ≤ 1 then refine cc u sh
  else if cc ≤ 3 then (if u = BitVec.intMax 64 then sh else refine (5 - cc) (u + 1) sh)
  else if u = BitVec.allOnes 64 then sh else refine (9 - cc) (u + 1) sh

/-- A branch target: PC + 4 × offset (R54). Beyond the 48 bits of a PC it wraps, as PC + 4 does everywhere (DESIGN CHOICE, log 59). -/
def target {n : Nat} (s : State) (o : BitVec n) : BitVec 48 := s.warp.pc + 4 * o.signExtend 48

/-- `bcc` (R125-R127). -/
def execBcc (a b : BitVec 6) (c : BitVec 3) (o : BitVec 10) (s : State) : Out :=
  let ra := a.setWidth 7
  let rb := b.setWidth 7
  let u := s.readS ra
  let v := s.readS rb
  let taken := condition c.toNat u v
  let cc := if taken then c.toNat else negateCc c.toNat
  let t := if a = b then s
    else (s.refineS ra (refine cc v (s.shadowS ra))).refineS rb (mirror cc u (s.shadowS rb))
  .next (if taken then t.retireTo (target s o) else t.retire)

/-- `bcci` (R125-R127). -/
def execBcci (a i : BitVec 6) (c : BitVec 3) (o : BitVec 10) (s : State) : Out :=
  let ra := a.setWidth 7
  let v := i.signExtend 64
  let taken := condition c.toNat (s.readS ra) v
  let cc := if taken then c.toNat else negateCc c.toNat
  let t := s.refineS ra (refine cc v (s.shadowS ra))
  .next (if taken then t.retireTo (target s o) else t.retire)

/-! ## Jumps and calls (R129) -/

/-- `jmp` (R129). -/
def execJmp (o : BitVec 25) (s : State) : Out := .next (s.retireTo (target s o))

/-- The return address in the link register s63 (R20, R129), modulo 2⁴⁸ (DESIGN CHOICE, log 59). -/
def link (s : State) : State := s.writeS 63 ((s.warp.pc + 4).setWidth 64) .unbounded

/-- `call` (R129). -/
def execCall (o : BitVec 25) (s : State) : Out := .next ((link s).retireTo (target s o))

/-- R82, R129: a jump to a register's value, its checks first; `t` is the state the jump leaves. -/
def jumpTo (s : State) (x : DWord) (t : State) : State :=
  s.checked .scalar [(x.toNat % 4 != 0, ⟨cMISALIGN, 4, x⟩), (2 ^ 48 ≤ x.toNat, ⟨cTRANSLATION, 5, x⟩)]
    (t.retireTo (x.setWidth 48))

/-- `jmpi` (R129). -/
def execJmpi (a : BitVec 7) (s : State) : Out := .next (jumpTo s (s.readS a) s)
/-- `calli` (R129): the target is read before the link is written. -/
def execCalli (a : BitVec 7) (s : State) : Out := .next (jumpTo s (s.readS a) (link s))
/-- `ret` (R129). -/
def execRet (s : State) : Out := .next (jumpTo s (s.readS 63) s)

/-! ## Divergence (R130-R132) -/

/-- `brp` (R130). -/
def execBrp (p : BitVec 3) (t j : BitVec 11) (s : State) : Out :=
  let T := s.warp.active &&& s.readP p
  let F := s.warp.active &&& ~~~(s.readP p)
  let e : StackEntry := ⟨target s j, target s t, if F = 0 ∨ T = 0 then 0 else T, s.warp.active, s.warp.mode⟩
  let pushed : State := { s with warp := { s.warp with stack := e :: s.warp.stack } }
  .next (s.checked .scalar [(s.warp.stack.length == 32, depthFault)] <|
    if F = 0 then pushed.retireTo (target s t)
    else if T = 0 then pushed.retire
    else (pushed.setActive F).retire)

/-- `join` (R131). -/
def execJoin (s : State) : Out :=
  .next (match s.warp.stack with
    | [] => s.fault .scalar depthFault
    | e :: rest =>
      if e.jpc ≠ s.warp.pc then s.fault .scalar depthFault
      else if e.pmask ≠ 0 then
        let t : State := { s with warp := { s.warp with
          stack := { e with pmask := 0 } :: rest, active := e.pmask, mode := e.mode } }
        t.retireTo e.ppc
      else
        let t : State := { s with warp := { s.warp with stack := rest, active := e.jmask, mode := e.mode } }
        t.retire)

/-- `bany` (R132). -/
def execBany (p : BitVec 3) (o : BitVec 11) (s : State) : Out :=
  .next (if s.warp.active &&& s.readP p ≠ 0 then s.retireTo (target s o) else s.retire)
/-- `ball` (R132). -/
def execBall (p : BitVec 3) (o : BitVec 11) (s : State) : Out :=
  .next (if s.warp.active &&& s.readP p = s.warp.active then s.retireTo (target s o) else s.retire)

/-! ## The repeat prefix (R134-R138) -/

/-- The major of a word (R50). -/
def majorOf (w : Word) : Nat := (field w 25 6).toNat

/-- The stepped field of a word at a position: its lowest bit and width by the word's format (R134); none where the format has
no field there. -/
def steppedField (w : Word) (pos : Nat) : Option (Nat × Nat) :=
  let m := majorOf w
  let si := m = 0x06 ∨ m = 0x07 ∨ m = 0x18
  let v2i := (0x02 ≤ m ∧ m ≤ 0x05) ∨ (0x19 ≤ m ∧ m ≤ 0x1B)
  let mf := (0x2C ≤ m ∧ m ≤ 0x32) ∨ (0x34 ≤ m ∧ m ≤ 0x36) ∨ m = 0x3E
  let x := m = 0x33 ∨ (0x37 ≤ m ∧ m ≤ 0x39)
  if pos = 0 then (if m = 0x3E then some (18, 2) else some (18, 7))
  else if pos = 1 then
    (if si then none else if mf then some (14, 4) else if m = 0x3D then some (16, 2) else some (11, 7))
  else
    (if si ∨ v2i ∨ x then none else if mf then some (7, 7) else if m = 0x3D then some (9, 6) else some (4, 7))

/-- R134: a word with the field at a position increased; none where there is no such field or it would leave its width. -/
def stepField (w : Word) (pos by_ : Nat) : Option Word :=
  if by_ = 0 then some w
  else match steppedField w pos with
    | none => none
    | some (lo, n) =>
      if w.toNat / 2 ^ lo % 2 ^ n + by_ < 2 ^ n then some (w + BitVec.ofNat 32 (by_ * 2 ^ lo)) else none

/-- R63: the stride of a code. -/
def strideOf (c : BitVec 3) : Nat := if c = 0 then 0 else 2 ^ (c.toNat - 1)

/-- R134: repetition j of a word. -/
def repetition (w : Word) (sd sa sb j : Nat) : Option Word :=
  match stepField w 0 (j * sd) with
  | none => none
  | some w1 => match stepField w1 1 (j * sa) with
    | none => none
    | some w2 => stepField w2 2 (j * sb)

/-- The vector registers an instruction's word names (R52). -/
def vectorRegs : Instr → List (BitVec 7)
  | .iwidenUV d => [d] | .iwidenLV d => [d] | .iwidenBV d => [d] | .iclampV d a _ => [d, a] | .ishqV _ a => [a]
  | .vadd d a b => [d, a, b] | .vsub d a b => [d, a, b] | .vmul d a b => [d, a, b] | .vmulh d a b => [d, a, b]
  | .vand d a b => [d, a, b] | .vor d a b => [d, a, b] | .vxor d a b => [d, a, b] | .vandn d a b => [d, a, b]
  | .vshl d a b => [d, a, b] | .vshr d a b => [d, a, b] | .vsra d a b => [d, a, b] | .vmin d a b => [d, a, b]
  | .vmax d a b => [d, a, b] | .vmad d a b => [d, a, b] | .vabs d a => [d, a] | .vneg d a => [d, a]
  | .vpopc d a => [d, a] | .vclz d a => [d, a] | .vbrev d a => [d, a] | .vmov d a => [d, a] | .vlane d => [d]
  | .vbcast d _ => [d] | .vextr _ a _ => [a] | .vcvt d a _ => [d, a] | .vsel d a b _ => [d, a, b] | .vcmp _ a b _ => [a, b]
  | .vmovi d _ => [d] | .vaddi d a _ => [d, a] | .vandi d a _ => [d, a] | .vshli d a _ => [d, a] | .vshri d a _ => [d, a]
  | .vsrai d a _ => [d, a] | .vfadd d a b => [d, a, b] | .vfsub d a b => [d, a, b] | .vfmul d a b => [d, a, b]
  | .vfma d a b => [d, a, b] | .vfms d a b => [d, a, b] | .vfnma d a b => [d, a, b] | .vfnms d a b => [d, a, b]
  | .vfmin d a b => [d, a, b] | .vfmax d a b => [d, a, b] | .vfdiv d a b => [d, a, b] | .vfabs d a => [d, a]
  | .vfneg d a => [d, a] | .vfrcp d a => [d, a] | .vfrsq d a => [d, a] | .vfsqrt d a => [d, a] | .vfexp2 d a => [d, a]
  | .vflog2 d a => [d, a] | .vfsin d a => [d, a] | .vfcos d a => [d, a] | .vfrnd d a => [d, a] | .vfclass d a => [d, a]
  | .vfcmp _ a b _ => [a, b] | .vshfl d a b => [d, a, b] | .vshflx d a _ => [d, a] | .vrot d a _ => [d, a]
  | .vredadd _ a => [a] | .vredmin _ a => [a] | .vredmax _ a => [a] | .vscan d a => [d, a]
  | .lda d _ x _ => [d, x] | .sta d _ x _ => [d, x] | .ldb d _ x _ => [d, x] | .stb d _ x _ => [d, x]
  | .lds d x _ => [d, x] | .sts d x _ => [d, x] | .vspill d _ => [d] | .vfill d _ => [d]
  | .aaddVg d _ x _ => [d, x] | .aaddfVg d _ x _ => [d, x] | .aminVg d _ x _ => [d, x] | .amaxVg d _ x _ => [d, x]
  | .aminuVg d _ x _ => [d, x] | .amaxuVg d _ x _ => [d, x] | .aandVg d _ x _ => [d, x] | .aorVg d _ x _ => [d, x]
  | .axorVg d _ x _ => [d, x] | .axchVg d _ x _ => [d, x] | .acasVg d _ x _ => [d, d + 1, x] | .aappVg d _ x _ => [d, x]
  | .aaddVs d x _ => [d, x] | .aaddfVs d x _ => [d, x] | .aminVs d x _ => [d, x] | .amaxVs d x _ => [d, x]
  | .aminuVs d x _ => [d, x] | .amaxuVs d x _ => [d, x] | .aandVs d x _ => [d, x] | .aorVs d x _ => [d, x]
  | .axorVs d x _ => [d, x] | .axchVs d x _ => [d, x] | .acasVs d x _ => [d, d + 1, x] | .aappVs d x _ => [d, x]
  | .qpop d _ => [d] | .fmov _ a => [a] | .tcvt d _ => [d] | .tsld v _ _ _ _ => [v] | .tsst v _ _ _ _ => [v]
  | _ => []

/-- R81: a word that may not follow `rep`: control flow, a barrier, system, `mxon` or `mxoff`. -/
def unrepeatable (w : Word) : Bool :=
  let m := majorOf w
  (0x0C ≤ m && m ≤ 0x13) || m == 0x3A || m == 0x3F || (m == 0x3C && (w.toNat % 16 == 5 || w.toNat % 16 == 6))

/-- R135: whether every non-zero stride names a field of a word's format. -/
def stridesNamed (w : Word) (sd sa sb : Nat) : Bool :=
  (sd == 0 || (steppedField w 0).isSome) && (sa == 0 || (steppedField w 1).isSome) && (sb == 0 || (steppedField w 2).isSome)

/-- R81, R135: whether every repetition of a word is a legal instruction of the running kernel. -/
def repeats (s : State) (w : Word) (n sd sa sb : Nat) : Bool :=
  !unrepeatable w && stridesNamed w sd sa sb && (range 0 n).all fun j =>
    match repetition w sd sa sb j with
    | none => false
    | some x => match decode x with
      | .ok i => !s.beyondVarch (vectorRegs i)
      | .error _ => false

/-- `rep` (R134-R136): the following word is checked; the repetitions from XREP on then follow, one a turn; with none left,
XREP := 0 and the warp goes on past the word. -/
def execRep (c : BitVec 6) (x y z : BitVec 3) (s : State) : Out :=
  let n := c.toNat + 1
  let next := s.warp.pc + 4
  let s := s.bringCode s.warp.pcn next.toNat
  .next (match s.fetchWord s.warp.pcn next.toNat with
    | .error t => s.fault .scalar { t with addr := next.setWidth 64 }
    | .ok (w, _) =>
      s.checked .scalar [(!repeats s w n (strideOf x) (strideOf y) (strideOf z), ⟨cREP, 0, next.setWidth 64⟩)] <|
        if n ≤ s.warp.xrep.toNat then
          let t : State := { s with warp := { s.warp with xrep := 0 } }
          t.retireTo (s.warp.pc + 8)
        else
          { s with warp := { s.warp with rep := some ⟨n, strideOf x, strideOf y, strideOf z, w⟩, status := .ready,
                                          resumed := s.warp.resumedRep, resumedRep := false } })

/-- The word of the repetition to run next (R136). -/
def repWord (w : Warp) (r : Rep) : Option Word := repetition r.word r.sd r.sa r.sb w.xrep.toNat

/-! ## `tfence`, `nop` (R139, R140) -/

/-- `tfence` (R139). -/
def execTfence (s : State) : Out :=
  .next (s.checked .scalar [(s.warp.flg &&& s.aen != 0, ⟨cARITH, 0, 0⟩)] s.retire)
/-- `nop` (R140). -/
def execNop (s : State) : Out := .next s.retire

end Sys2Proof.Machine
end

