-- ==== Sys2Proof/Machine/System.lean ====
section
/-!
DEFINITION. Mode and system instructions (R142-R147): MODE, the system registers, FLG, XS, the progress counters; `trap`, `bkpt`
and `tret` (R197-R200).
-/

namespace Sys2Proof.Machine

/-- `mset` (R142). -/
def execMset (a : BitVec 7) (s : State) : Out := .next ((s.setMode (s.readS a)).retire)

/-- R142: where a field of MODE lies and how wide it is. -/
def modeField (f : BitVec 4) : Nat × Nat :=
  if f = 0 then (0, 3) else if f = 1 then (3, 4) else if f = 2 then (7, 3) else if f = 3 then (10, 1) else if f = 4 then (11, 1)
  else if f = 5 then (12, 3) else if f = 6 then (15, 3) else if f = 7 then (18, 1) else if f = 8 then (20, 10) else (32, 8)

/-- `mseti` (R142): v holds value bits [13:7], w bits [6:0]. -/
def execMseti (v w : BitVec 7) (f : BitVec 4) (s : State) : Out :=
  let lo := (modeField f).1
  let n := (modeField f).2
  let x := (v.toNat * 128 + w.toNat) % 2 ^ n
  .next ((s.setMode ((s.warp.mode &&& ~~~(BitVec.ofNat 64 ((2 ^ n - 1) * 2 ^ lo))) ||| BitVec.ofNat 64 (x * 2 ^ lo))).retire)

/-- `mget` (R143). -/
def execMget (d : BitVec 7) (s : State) : Out := .next (s.scalarOp d s.warp.mode .unbounded)

/-- R38: the value and shadow of a system register. -/
def sysRead (s : State) (n : Nat) : DWord × Shadow :=
  let w := s.warp
  let small := fun (x : Nat) (hi : Int) => (BitVec.ofNat 64 x, Shadow.bounded 0 hi)
  let wide := fun (x : DWord) => (x, Shadow.unbounded)
  if n = 0x00 then (match w.index with | some i => small i 15 | none => (255, .bounded 255 255))
  else if n = 0x01 then small w.block 3
  else if n = 0x02 then wide (BitVec.ofNat 64 w.gang)
  else if n = 0x03 then small (w.pcn % 4) 3
  else if n = 0x04 then small (w.pcn / 4 % 16) 15
  else if n = 0x05 then small (w.pcn / 64) 3
  else if n = 0x06 then small w.cw 31
  else if n = 0x07 then small w.stack.length 32
  else if n = 0x10 then wide (BitVec.ofNat 64 s.clock + w.clkOff)
  else if n = 0x11 then wide (BitVec.ofNat 64 (s.gtime + (s.region? w.rid).elim 0 Region.gtimeOff))
  else if n = 0x20 then wide ((s.region? w.rid).elim 0 fun r => r.feat[0])
  else if n = 0x21 then wide ((s.region? w.rid).elim 0 fun r => r.feat[1])
  else if n = 0x22 then wide ((s.region? w.rid).elim 0 fun r => r.feat[2])
  else if n = 0x23 then wide ((s.region? w.rid).elim 0 fun r => r.feat[3])
  else if n = 0x24 then wide ((s.region? w.rid).elim 0 Region.miggen)
  else if n = 0x30 then wide (w.xpc.setWidth 64)
  else if n = 0x31 then wide (w.xmask.setWidth 64)
  else if n = 0x32 then wide (w.xcause.setWidth 64)
  else if n = 0x33 then wide w.xrec
  else wide (w.xrep.setWidth 64)

/-- `srd` (R144, R38). -/
def execSrd (d a : BitVec 7) (s : State) : Out :=
  .next (s.checked .scalar [(!sysRegListed a, illegal)] (s.scalarOp d (sysRead s a.toNat).1 (sysRead s a.toNat).2))

/-- R38: the writable system registers. -/
def sysWritable (n : Nat) : Bool := 0x30 ≤ n && n ≤ 0x34

/-- R144: a system register written; it keeps only its defined bits. -/
def sysWrite (s : State) (n : Nat) (x : DWord) : State :=
  let w := s.warp
  { s with warp :=
    if n = 0x30 then { w with xpc := x.setWidth 48 }
    else if n = 0x31 then { w with xmask := x.setWidth 32 }
    else if n = 0x32 then { w with xcause := x.setWidth 16 }
    else if n = 0x33 then { w with xrec := definedXrec x }
    else { w with xrep := x.setWidth 6 } }

/-- `swr` (R144): an unlisted number is ILLEGAL, a read-only one PRIVILEGE. -/
def execSwr (d a : BitVec 7) (s : State) : Out :=
  .next (s.checked .scalar [(!sysRegListed d, illegal), (!sysWritable d.toNat, ⟨cPRIVILEGE, 0, 0⟩)]
    (sysWrite s d.toNat (s.readS a)).retire)

/-- `flgr` (R145). -/
def execFlgr (d : BitVec 7) (s : State) : Out := .next (s.scalarOp d (s.warp.flg.setWidth 64) .unbounded)

/-- `flgc` (R145). -/
def execFlgc (a : BitVec 7) (s : State) : Out :=
  .next ({ s with warp := { s.warp with flg := s.warp.flg &&& ~~~((s.readS a).setWidth 8) } } : State).retire

/-- `xseed` (R146). -/
def execXseed (a : BitVec 7) (s : State) : Out :=
  let x0 := s.readS a
  let x1 := s.readS (a + 1)
  .next ({ s with warp := { s.warp with xs0 := x0, xs1 := if x0 = 0 ∧ x1 = 0 then 0x9E3779B97F4A7C15#64 else x1 } } : State).retire

/-- `pmark` (R147). -/
def execPmark (n : BitVec 3) (s : State) : Out :=
  .next ((s.modifyCore s.warp.pcn fun c =>
    { c with pmark := c.pmark.set n.toNat (c.pmark.get ⟨n.toNat, n.isLt⟩ + 1) n.isLt }).retire)

/-- `trap` (R197). -/
def execTrap (n : BitVec 6) (s : State) : Out := .next (s.fault .scalar ⟨cSOFTWARE, n.toNat, 0⟩)

/-- R380: a warp stopped for the debugger: TRAPPED without a permit, at its instruction. Stop reasons in Luna's DETAIL: the cause
STEP for a single step and BREAKPOINT for a `bkpt` (R195), 1 for a breakpoint (the spec names no codes: DESIGN CHOICE, log 14). -/
def State.debugStop (s : State) (reason : Nat) : State :=
  let s := s.luna (State.clusterOf s.warp.pcn) 0x21 (State.whoOf s.warp.pcn s.warp.cw) 0
    (s.ordinalOf s.warp.launch s.faultPc.toNat) (BitVec.ofNat 64 reason)
  { s with warp := { s.warp with status := .trapped, permit := false, wait := some (.inWarpStop reason), stepping := false } }

/-- `bkpt` (R197): a stop for the debugger when the region routes breakpoints to the Monarch, after which the debugger's RETRY
goes on past it; else the fault BREAKPOINT. -/
def execBkpt (s : State) : Out :=
  .next (if s.myCore.trapmode.getLsbD 1 then (if s.warp.resumed then s.retire else s.debugStop cBREAKPOINT.toNat)
    else s.fault .scalar ⟨cBREAKPOINT, 0, 0⟩)

/-- `tret.r` (R198). -/
def execTretR (s : State) : Out := .next (s.trapReturn .retry)
/-- `tret.s` (R198). -/
def execTretS (s : State) : Out := .next (s.trapReturn .skip)
/-- `tret.x` (R198). -/
def execTretX (s : State) : Out := .next (s.trapReturn .exclude)

end Sys2Proof.Machine
end

