-- ==== Sys2Proof/Machine/VectorInt.lean ====
section
/-!
DEFINITION. Vector instructions on integers and bits (R154-R164), the predicates (R173, R174) and the movement of whole lanes
(R175).
-/

namespace Sys2Proof.Machine

/-! ## Integer arithmetic (R154-R156) -/

/-- `vadd` (R154). -/
def execVadd (d a b : BitVec 7) (s : State) : Out :=
  .next (s.integerOp [d, a, b] d ((s.shadowV a).add (s.shadowV b)) fun i j => s.intElem a i j + s.intElem b i j)
/-- `vsub` (R154). -/
def execVsub (d a b : BitVec 7) (s : State) : Out :=
  .next (s.integerOp [d, a, b] d ((s.shadowV a).sub (s.shadowV b)) fun i j => s.intElem a i j - s.intElem b i j)
/-- `vmul` (R154). -/
def execVmul (d a b : BitVec 7) (s : State) : Out :=
  .next (s.integerOp [d, a, b] d ((s.shadowV a).mul (s.shadowV b)) fun i j => s.intElem a i j * s.intElem b i j)
/-- `vmulh` (R154): the high half of the exact product, not narrowed. -/
def execVmulh (d a b : BitVec 7) (s : State) : Out :=
  .next (s.vectorOp [d, a, b] (s.et ≤ 5) false d
    (perElement (intTy s.et).w s.effMask fun i j =>
      ((intTy s.et).bits (s.intElem a i j * s.intElem b i j / 2 ^ (intTy s.et).w), 0)) .unbounded)
/-- `vmin` (R154). -/
def execVmin (d a b : BitVec 7) (s : State) : Out :=
  .next (s.integerOp [d, a, b] d ((s.shadowV a).min (s.shadowV b)) fun i j => min (s.intElem a i j) (s.intElem b i j))
/-- `vmax` (R154). -/
def execVmax (d a b : BitVec 7) (s : State) : Out :=
  .next (s.integerOp [d, a, b] d ((s.shadowV a).max (s.shadowV b)) fun i j => max (s.intElem a i j) (s.intElem b i j))
/-- `vmad` (R154): narrowed once. -/
def execVmad (d a b : BitVec 7) (s : State) : Out :=
  .next (s.integerOp [d, a, b] d ((s.shadowV a).mulAdd (s.shadowV b) (s.shadowV d)) fun i j =>
    s.intElem a i j * s.intElem b i j + s.intElem d i j)
/-- `vabs` (R155). -/
def execVabs (d a : BitVec 7) (s : State) : Out :=
  .next (s.integerOp [d, a] d .unbounded fun i j => (s.intElem a i j).natAbs)
/-- `vneg` (R155). -/
def execVneg (d a : BitVec 7) (s : State) : Out :=
  .next (s.integerOp [d, a] d (s.shadowV a).negate fun i j => - s.intElem a i j)
/-- `vaddi` (R156). -/
def execVaddi (d a : BitVec 7) (i : BitVec 11) (s : State) : Out :=
  .next (s.integerOp [d, a] d ((s.shadowV a).add (.bounded i.toInt i.toInt)) fun l j => s.intElem a l j + i.toInt)

/-! ## Logic (R157) -/

/-- `vand` (R157). -/
def execVand (d a b : BitVec 7) (s : State) : Out :=
  .next (s.laneOp [d, a, b] d .unbounded fun i => lane (s.readV a) i &&& lane (s.readV b) i)
/-- `vor` (R157). -/
def execVor (d a b : BitVec 7) (s : State) : Out :=
  .next (s.laneOp [d, a, b] d .unbounded fun i => lane (s.readV a) i ||| lane (s.readV b) i)
/-- `vxor` (R157). -/
def execVxor (d a b : BitVec 7) (s : State) : Out :=
  .next (s.laneOp [d, a, b] d .unbounded fun i => lane (s.readV a) i ^^^ lane (s.readV b) i)
/-- `vandn` (R157). -/
def execVandn (d a b : BitVec 7) (s : State) : Out :=
  .next (s.laneOp [d, a, b] d .unbounded fun i => lane (s.readV a) i &&& ~~~lane (s.readV b) i)
/-- R157: the interval of `vandi`; an unbounded operand gives W = 1 (R151). -/
def execVandi (d a : BitVec 7) (i : BitVec 11) (s : State) : Out :=
  .next (s.laneOp [d, a] d ((s.shadowV a).and i.toInt) fun l => lane (s.readV a) l &&& i.signExtend 32)

/-! ## Shifts and bit counts (R158, R159) -/

/-- A left shift of an element of width w. -/
def shiftLeft (w a n : Nat) : Nat := if n < w then a * 2 ^ n % 2 ^ w else 0
/-- A logical right shift. -/
def shiftRight (w a n : Nat) : Nat := if n < w then a / 2 ^ n else 0
/-- An arithmetic right shift, sign in. -/
def shiftArith (w a n : Nat) : Nat := (⟨w, true⟩ : IntTy).bits ((⟨w, true⟩ : IntTy).value a / 2 ^ (min n (w - 1)))
/-- Bit k moved to bit w − 1 − k. -/
def reverseBits (w a : Nat) : Nat := (range 0 w).foldl (fun acc k => acc + a / 2 ^ k % 2 * 2 ^ (w - 1 - k)) 0
/-- The number of 1 bits of an element. -/
def onesIn (w a : Nat) : Nat := (range 0 w).foldl (fun acc k => acc + a / 2 ^ k % 2) 0

/-- `vshl` (R158). -/
def execVshl (d a b : BitVec 7) (s : State) : Out :=
  .next (s.bitwiseOp [d, a, b] d .unbounded fun i j => shiftLeft (intTy s.et).w (s.bitsElem a i j) (s.bitsElem b i j))
/-- `vshr` (R158). -/
def execVshr (d a b : BitVec 7) (s : State) : Out :=
  .next (s.bitwiseOp [d, a, b] d .unbounded fun i j => shiftRight (intTy s.et).w (s.bitsElem a i j) (s.bitsElem b i j))
/-- `vsra` (R158). -/
def execVsra (d a b : BitVec 7) (s : State) : Out :=
  .next (s.bitwiseOp [d, a, b] d .unbounded fun i j => shiftArith (intTy s.et).w (s.bitsElem a i j) (s.bitsElem b i j))
/-- `vshli` (R158). -/
def execVshli (d a : BitVec 7) (n : BitVec 5) (s : State) : Out :=
  .next (s.bitwiseOp [d, a] d ((s.shadowV a).shl n.toNat) fun i j => shiftLeft (intTy s.et).w (s.bitsElem a i j) n.toNat)
/-- `vshri` (R158). -/
def execVshri (d a : BitVec 7) (n : BitVec 5) (s : State) : Out :=
  .next (s.bitwiseOp [d, a] d ((s.shadowV a).shr n.toNat) fun i j => shiftRight (intTy s.et).w (s.bitsElem a i j) n.toNat)
/-- `vsrai` (R158). -/
def execVsrai (d a : BitVec 7) (n : BitVec 5) (s : State) : Out :=
  .next (s.bitwiseOp [d, a] d ((s.shadowV a).sra n.toNat) fun i j => shiftArith (intTy s.et).w (s.bitsElem a i j) n.toNat)
/-- `vpopc` (R159). -/
def execVpopc (d a : BitVec 7) (s : State) : Out :=
  .next (s.bitwiseOp [d, a] d .unbounded fun i j => onesIn (intTy s.et).w (s.bitsElem a i j))
/-- `vclz` (R159). -/
def execVclz (d a : BitVec 7) (s : State) : Out :=
  .next (s.bitwiseOp [d, a] d .unbounded fun i j => leadingZeros (intTy s.et).w (s.bitsElem a i j))
/-- `vbrev` (R159). -/
def execVbrev (d a : BitVec 7) (s : State) : Out :=
  .next (s.bitwiseOp [d, a] d .unbounded fun i j => reverseBits (intTy s.et).w (s.bitsElem a i j))

/-! ## Moves (R160-R162) -/

/-- `vmov` (R160). -/
def execVmov (d a : BitVec 7) (s : State) : Out := .next (s.laneOp [d, a] d (s.shadowV a) fun i => lane (s.readV a) i)
/-- `vlane` (R160). -/
def execVlane (d : BitVec 7) (s : State) : Out := .next (s.laneOp [d] d (.bounded 0 31) fun i => BitVec.ofNat 32 i)
/-- `vmovi` (R160). -/
def execVmovi (d : BitVec 7) (i : BitVec 18) (s : State) : Out :=
  .next (s.laneOp [d] d (.bounded i.toInt i.toInt) fun _ => i.signExtend 32)
/-- `vbcast` (R160). -/
def execVbcast (d a : BitVec 7) (s : State) : Out :=
  .next (s.laneOp [d] d (s.shadowS a) fun _ => (s.readS a).setWidth 32)
/-- `vextr` (R161). -/
def execVextr (d a b : BitVec 7) (s : State) : Out :=
  .next (s.vectorToScalar [a] true false d ((lane (s.readV a) ((s.readS b).toNat % 32)).signExtend 64) (s.shadowV a) 0)
/-- `vsel` (R162). -/
def execVsel (d a b : BitVec 7) (p : BitVec 3) (s : State) : Out :=
  .next (s.laneOp [d, a, b] d ((s.shadowV a).hull (s.shadowV b)) fun i =>
    if (s.readP p).getLsbD i then lane (s.readV a) i else lane (s.readV b) i)

/-! ## Comparison (R164) -/

/-- `vcmp` (R164): lanes compared as integers of 32 bits, whatever MODE.ET says. -/
def execVcmp (d a b : BitVec 7) (c : BitVec 4) (s : State) : Out :=
  .next (s.vectorToPred [a, b] true d
    (maskOf ((range 0 32).filter fun i => condition c.toNat (lane (s.readV a) i) (lane (s.readV b) i))) 0)

/-! ## Predicates (R173, R174) -/

/-- `pand` (R173). -/
def execPand (d a b : BitVec 7) (s : State) : Out := .next (s.vectorToPred [] true d (s.readP a &&& s.readP b) 0)
/-- `por` (R173). -/
def execPor (d a b : BitVec 7) (s : State) : Out := .next (s.vectorToPred [] true d (s.readP a ||| s.readP b) 0)
/-- `pxor` (R173). -/
def execPxor (d a b : BitVec 7) (s : State) : Out := .next (s.vectorToPred [] true d (s.readP a ^^^ s.readP b) 0)
/-- `pnot` (R173). -/
def execPnot (d a : BitVec 7) (s : State) : Out := .next (s.vectorToPred [] true d (~~~s.readP a) 0)
/-- `pandn` (R173). -/
def execPandn (d a b : BitVec 7) (s : State) : Out := .next (s.vectorToPred [] true d (s.readP a &&& ~~~s.readP b) 0)
/-- `pset` (R173). -/
def execPset (d a : BitVec 7) (s : State) : Out := .next (s.vectorToPred [] true d ((s.readS a).setWidth 32) 0)
/-- `pget` (R174). -/
def execPget (d a : BitVec 7) (s : State) : Out :=
  .next (s.vectorToScalar [] true false d ((s.readP a).setWidth 64) .unbounded 0)
/-- `ppopc` (R174). -/
def execPpopc (d a : BitVec 7) (s : State) : Out :=
  .next (s.vectorToScalar [] true false d (BitVec.ofNat 64 (popCount (s.readP a &&& s.effMask))) (.bounded 0 32) 0)
/-- `pfirst` (R174). -/
def execPfirst (d a : BitVec 7) (s : State) : Out :=
  .next (s.vectorToScalar [] true false d (BitVec.ofNat 64 ((lanesOf (s.readP a &&& s.effMask)).headD 32)) (.bounded 0 32) 0)

/-! ## Cross-lane movement (R175) -/

/-- `vshfl` (R175). -/
def execVshfl (d a b : BitVec 7) (s : State) : Out :=
  .next (s.laneOp [d, a, b] d (s.shadowV a) fun i => lane (s.readV a) ((lane (s.readV b) i).toNat % 32))
/-- `vshflx` (R175). -/
def execVshflx (d a b : BitVec 7) (s : State) : Out :=
  .next (s.laneOp [d, a] d (s.shadowV a) fun i => lane (s.readV a) (i ^^^ (s.readS b).toNat % 32))
/-- `vrot` (R175). -/
def execVrot (d a b : BitVec 7) (s : State) : Out :=
  .next (s.laneOp [d, a] d (s.shadowV a) fun i => lane (s.readV a) ((i + (s.readS b).toNat % 32) % 32))

end Sys2Proof.Machine
end

