-- ==== Sys2Proof/Machine/VectorFloat.lean ====
section
/-!
DEFINITION. Conversion (R163), floating arithmetic (R165-R170) and comparison (R171), reductions and scans (R176, R177).
-/

namespace Sys2Proof.Machine

/-! ## Conversion (R163) -/

/-- The width of an element type (R30). -/
def widthOf (et : Nat) : Nat := (intTy et).w

/-- R163: one element converted between two types. -/
def convert (src dst rm rand : Nat) (sat dz : Bool) (bits : Nat) : Nat × BitVec 8 :=
  if src ≤ 5 then
    (if dst ≤ 5 then narrow (intTy dst) sat ((intTy src).value bits)
     else convertIF (fmtOf dst) rm rand dz ((intTy src).value bits))
  else if dst ≤ 5 then convertFI (fmtOf src) (intTy dst) rm rand dz bits
  else convertFF (fmtOf src) (fmtOf dst) rm rand dz bits

/-- `vcvt` (R163): a rounding instruction when either type is floating. -/
def execVcvt (d a : BitVec 7) (t : BitVec 4) (s : State) : Out :=
  let ws := widthOf s.et
  let wd := widthOf t.toNat
  let c := min (32 / ws) (32 / wd)
  .next (s.vectorOp [d, a] (s.et ≤ 10) (6 ≤ s.et || 6 ≤ t.toNat) d
    (perElement wd s.effMask fun i j =>
      if j < c then convert s.et t.toNat s.rm (s.rand i j) s.sat s.dz (elem ws (lane (s.readV a) i) j) else (0, 0))
    (if s.et = 0 ∧ t = 0 then s.shadowV a else .unbounded))

/-! ## Floating arithmetic (R165-R167) -/

/-- `vfadd` (R165). -/
def execVfadd (d a b : BitVec 7) (s : State) : Out :=
  .next (s.floatOp [d, a, b] true d fun i j =>
    (fmtOf s.et).sum s.rm (s.rand i j) s.dz [s.floatElem a i j, s.floatElem b i j])
/-- `vfsub` (R165). -/
def execVfsub (d a b : BitVec 7) (s : State) : Out :=
  .next (s.floatOp [d, a, b] true d fun i j =>
    (fmtOf s.et).sum s.rm (s.rand i j) s.dz [s.floatElem a i j, (s.floatElem b i j).neg])
/-- `vfmul` (R165). -/
def execVfmul (d a b : BitVec 7) (s : State) : Out :=
  .next (s.floatOp [d, a, b] true d fun i j =>
    (fmtOf s.et).mul s.rm (s.rand i j) s.dz (s.floatElem a i j) (s.floatElem b i j))
/-- The fused members: signs of the product and of c. -/
def fusedOp (s : State) (negP negC : Bool) (d a b : BitVec 7) : State :=
  s.floatOp [d, a, b] true d fun i j =>
    (fmtOf s.et).fma s.rm (s.rand i j) s.dz negP negC (s.floatElem a i j) (s.floatElem b i j) (s.floatElem d i j)
/-- `vfma` (R165). -/
def execVfma (d a b : BitVec 7) (s : State) : Out := .next (fusedOp s false false d a b)
/-- `vfms` (R165). -/
def execVfms (d a b : BitVec 7) (s : State) : Out := .next (fusedOp s false true d a b)
/-- `vfnma` (R165). -/
def execVfnma (d a b : BitVec 7) (s : State) : Out := .next (fusedOp s true false d a b)
/-- `vfnms` (R165). -/
def execVfnms (d a b : BitVec 7) (s : State) : Out := .next (fusedOp s true true d a b)
/-- `vfmin` (R97, R165). -/
def execVfmin (d a b : BitVec 7) (s : State) : Out :=
  .next (s.floatOp [d, a, b] false d fun i j => ((fmtOf s.et).minMax true s.dz (s.floatBits a i j) (s.floatBits b i j), 0))
/-- `vfmax` (R97, R165). -/
def execVfmax (d a b : BitVec 7) (s : State) : Out :=
  .next (s.floatOp [d, a, b] false d fun i j => ((fmtOf s.et).minMax false s.dz (s.floatBits a i j) (s.floatBits b i j), 0))
/-- `vfdiv` (R166). -/
def execVfdiv (d a b : BitVec 7) (s : State) : Out :=
  .next (s.floatOp [d, a, b] true d fun i j =>
    (fmtOf s.et).div s.rm (s.rand i j) s.dz (s.floatElem a i j) (s.floatElem b i j))
/-- `vfabs` (R167): the sign bit cleared, whatever DZ says. -/
def execVfabs (d a : BitVec 7) (s : State) : Out :=
  .next (s.floatOp [d, a] false d fun i j => (s.floatBits a i j % (fmtOf s.et).signBit true, 0))
/-- `vfneg` (R167): the sign bit inverted. -/
def execVfneg (d a : BitVec 7) (s : State) : Out :=
  .next (s.floatOp [d, a] false d fun i j => (s.floatBits a i j ^^^ (fmtOf s.et).signBit true, 0))
/-- `vfsqrt` (R167). -/
def execVfsqrt (d a : BitVec 7) (s : State) : Out :=
  .next (s.floatOp [d, a] true d fun i j => (fmtOf s.et).sqrt s.rm (s.rand i j) s.dz (s.floatElem a i j))
/-- `vfrnd` (R167). -/
def execVfrnd (d a : BitVec 7) (s : State) : Out :=
  .next (s.floatOp [d, a] true d fun i j => (fmtOf s.et).rnd s.rm (s.rand i j) s.dz (s.floatElem a i j))
/-- `vfclass` (R170). -/
def execVfclass (d a : BitVec 7) (s : State) : Out :=
  .next (s.floatOp [d, a] false d fun i j => ((fmtOf s.et).classOf (s.floatBits a i j), 0))

/-! ## Approximate functions (R168) -/

/-- An approximate function on every element. -/
def approxOp (s : State) (fn : Fn) (d a : BitVec 7) : State :=
  s.floatOp [d, a] false d fun i j => (fmtOf s.et).approximate s.et s.dz fn (s.floatBits a i j)
/-- `vfrcp` (R168). -/
def execVfrcp (d a : BitVec 7) (s : State) : Out := .next (approxOp s .rcp d a)
/-- `vfrsq` (R168). -/
def execVfrsq (d a : BitVec 7) (s : State) : Out := .next (approxOp s .rsq d a)
/-- `vfexp2` (R168). -/
def execVfexp2 (d a : BitVec 7) (s : State) : Out := .next (approxOp s .exp2 d a)
/-- `vflog2` (R168). -/
def execVflog2 (d a : BitVec 7) (s : State) : Out := .next (approxOp s .log2 d a)
/-- `vfsin` (R168). -/
def execVfsin (d a : BitVec 7) (s : State) : Out := .next (approxOp s .sin d a)
/-- `vfcos` (R168). -/
def execVfcos (d a : BitVec 7) (s : State) : Out := .next (approxOp s .cos d a)

/-! ## Comparison (R171) -/

/-- `vfcmp` (R171). -/
def execVfcmp (d a b : BitVec 7) (c : BitVec 4) (s : State) : Out :=
  let rel := fun (i : Nat) => floatRelation c.toNat (F32.read s.dz (lane (s.readV a) i).toNat) (F32.read s.dz (lane (s.readV b) i).toNat)
  .next (s.vectorToPred [a, b] (s.et == 6) d (maskOf ((range 0 32).filter fun i => (rel i).1))
    ((lanesOf s.effMask).foldl (fun f i => f ||| (rel i).2) 0))

/-! ## Reductions and scans (R112, R176, R177) -/

/-- The bits of an F32 value once read under DZ. -/
def readBits (dz : Bool) (bits : Nat) : Nat :=
  match F32.read dz bits with
  | .fin s 0 _ => F32.signBit s
  | _ => bits

/-- F32 addition of bits read under DZ. -/
def addF32 (rm rand : Nat) (dz : Bool) (x y : Nat) : Nat × BitVec 8 := F32.sum rm rand dz [F32.read dz x, F32.read dz y]

/-- R112, R176: a node of the tree of `vredadd` at a level, its lowest lane `l`: its value, absent or bits, and the flags of the
nodes below it. The node draws rand(4l + m − 1). -/
def treeNode (s : State) (a : BitVec 7) : Nat → Nat → Option Nat × BitVec 8
  | 0, l => (if s.effMask.getLsbD l then some (readBits s.dz (lane (s.readV a) l).toNat) else none, 0)
  | m + 1, l =>
    let x := treeNode s a m l
    let y := treeNode s a m (l + 2 ^ m)
    match x.1, y.1 with
    | some p, some q =>
      let r := addF32 s.rm (randAt s.draw (4 * l + m)) s.dz p q
      (some r.1, x.2 ||| y.2 ||| r.2)
    | some p, none => (some p, x.2 ||| y.2)
    | none, q => (q, x.2 ||| y.2)

/-- The integer elements of the active lanes. -/
def activeElems (s : State) (a : BitVec 7) : List Int :=
  (lanesOf s.effMask).flatMap fun i => (range 0 (32 / (intTy s.et).w)).map fun j => s.intElem a i j

/-- An integer of the element type as a scalar: sign- or zero-extended. -/
def extended (s : State) (bits : Nat) : DWord := BitVec.ofInt 64 ((intTy s.et).value bits)

/-- `vredadd` (R176). -/
def execVredadd (d a : BitVec 7) (s : State) : Out :=
  .next (
    if s.et = 6 then
      let r := treeNode s a 5 0
      s.vectorToScalar [a] true true d (BitVec.ofNat 64 (r.1.getD 0)) .unbounded r.2
    else
      let r := narrow (intTy s.et) s.sat ((activeElems s a).foldl (· + ·) 0)
      s.vectorToScalar [a] (s.et ≤ 6) false d (extended s r.1) .unbounded r.2)

/-- R176: an extreme of the active elements. -/
def extremeOp (s : State) (least : Bool) (d a : BitVec 7) : State :=
  if s.et = 6 then
    let xs := (lanesOf s.effMask).map fun i => (lane (s.readV a) i).toNat
    let r := match xs with
      | [] => 0
      | [x] => F32.minMax least s.dz x x
      | x :: rest => rest.foldl (F32.minMax least s.dz) x
    s.vectorToScalar [a] true false d (BitVec.ofNat 64 r) .unbounded 0
  else
    let r := match activeElems s a with
      | [] => (0 : Int)
      | x :: rest => rest.foldl (if least then min else max) x
    s.vectorToScalar [a] (s.et ≤ 6) false d (BitVec.ofInt 64 r) (if s.et = 0 then s.shadowV a else .unbounded) 0

/-- `vredmin` (R176). -/
def execVredmin (d a : BitVec 7) (s : State) : Out := .next (extremeOp s true d a)
/-- `vredmax` (R176). -/
def execVredmax (d a : BitVec 7) (s : State) : Out := .next (extremeOp s false d a)

/-- R177: the scan of integer position j over lanes: per lane, bits and flag. -/
def scanInts (s : State) (a : BitVec 7) (j : Nat) : List Nat → Int → List (Nat × (Nat × BitVec 8))
  | [], _ => []
  | i :: rest, acc =>
    let acc := acc + s.intElem a i j
    (i, narrow (intTy s.et) s.sat acc) :: scanInts s a j rest acc

/-- R177: the scan of F32 lanes; the addition that makes lane L draws rand(4L). -/
def scanFloats (s : State) (a : BitVec 7) : List Nat → Option Nat → List (Nat × (Nat × BitVec 8))
  | [], _ => []
  | i :: rest, acc =>
    let x := readBits s.dz (lane (s.readV a) i).toNat
    let r := match acc with
      | none => (x, 0)
      | some y => addF32 s.rm (randAt s.draw (4 * i)) s.dz y x
    (i, r) :: scanFloats s a rest (some r.1)

/-- `vscan` (R177). -/
def execVscan (d a : BitVec 7) (s : State) : Out :=
  let scans := if s.et = 6 then [scanFloats s a (lanesOf s.effMask) none]
    else (range 0 (32 / widthOf s.et)).map fun j => scanInts s a j (lanesOf s.effMask) 0
  .next (s.vectorOp [d, a] (s.et ≤ 6) (s.et == 6) d
    (perElement (widthOf s.et) s.effMask fun i j => ((scans.getD j []).lookup i).getD (0, 0)) .unbounded)

end Sys2Proof.Machine
end

