-- ==== Sys2Proof/Machine/MemAccess.lean ====
section
/-!
DEFINITION. A warp's own memory instructions: loads and stores through array registers (R179, R184-R187, R191, R192), the
scratchpad (R188), spills and fills (R189, R190), binding and query of array registers (R180-R183).
-/

namespace Sys2Proof.Machine

/-! ## Accesses through array registers -/

/-- One access of an instruction: its lane, its byte offset from BASE, and what becomes of it. -/
structure LaneAccess where
  lane : Nat
  off : Int
  fate : LaneFate
deriving DecidableEq, Repr

/-- The faults among accesses. -/
def LaneAccess.troubles (l : List LaneAccess) : List (Nat × Trouble) :=
  l.filterMap fun x => match x.fate with | .faults t => some (x.lane, t) | _ => none

/-- How many accesses are suppressed. -/
def LaneAccess.suppressed (l : List LaneAccess) : Nat := (l.filter fun x => x.fate == .suppressed).length

namespace State

/-- R184, R191: the accesses of a member at the given indices, each with its lane. -/
def arrayAccesses (s : State) (a : ArrayReg) (kind : Access) (byteForm : Bool) (sh : Shadow) (imm : Int)
    (idx : List (Nat × Int)) : List LaneAccess :=
  let size := sizeOf a.esize.toNat
  let proved := discharged a sh imm (if byteForm then 1 else size) size
  idx.map fun x =>
    let k := x.2 + imm
    let off := if byteForm then k else k * size
    ⟨x.1, off, s.examine a kind proved byteForm k off size⟩

/-- The leaves that performing accesses took from the tables, kept in the TLBs (R354). -/
def cacheAccesses (s : State) (a : ArrayReg) (l : List LaneAccess) : State :=
  l.foldl (fun s x =>
    match x.fate with
    | .performs _ none => if s.framed a x.off.toNat then s else s.cacheLeaf s.warp.pcn (a.base.toNat + x.off.toNat)
    | _ => s) s

/-- What performing loads need of the L1, the constant cache and the TLBs. -/
def fillAccesses (s : State) (a : ArrayReg) (size : Nat) (l : List LaneAccess) : State :=
  l.foldl (fun s x => s.fillFate size x.fate) (s.cacheAccesses a l)

/-- R187: the lines of a vector access's footprint, by the shadow of its index: at most 16 of them are reserved. A byte that has no
translation, or lies in the constant space, has no line. -/
def footprintLines (s : State) (a : ArrayReg) (byteForm : Bool) (sh : Shadow) (imm : Int) : List Nat :=
  match sh with
  | .unbounded => []
  | .bounded lo hi =>
    let size := sizeOf a.esize.toNat
    let f : Int := if byteForm then 1 else size
    let first := max 0 (f * (lo + imm))
    let stop := min (a.extent.toNat * size : Int) (f * (hi + imm + 1) + size - f)
    if a.isConst || stop ≤ first || 16 * 192 < stop - first then []
    else
      let lines := ((range first.toNat (stop - first).toNat).filterMap fun off =>
        if s.framed a off then some (lineOf (a.frame.toNat * 4096 + a.base.toNat % 4096 + off))
        else match s.translate s.warp.pcn .read (a.base.toNat + off) with
          | .ok p => some (lineOf p.pa)
          | .error _ => none).eraseDups
      if lines.length ≤ 16 then lines else []

/-- R187, R233: `fillAccesses` while the L1 holds the lines of the access's footprint. -/
def fillReserved (s : State) (a : ArrayReg) (byteForm : Bool) (sh : Shadow) (imm : Int) (l : List LaneAccess) : State :=
  let lines := s.footprintLines a byteForm sh imm
  let s := (s.modifyCore s.warp.pcn fun c => { c with reserved := lines }).fillAccesses a (sizeOf a.esize.toNat) l
  s.modifyCore s.warp.pcn fun c => { c with reserved := [] }

/-- R309: the accesses that consume poison, as faults. -/
def poisonedAccesses (s : State) (a : ArrayReg) (size : Nat) (l : List LaneAccess) : List (Nat × Trouble) :=
  l.filterMap fun x =>
    if s.fatePoisoned size x.fate then some (x.lane, ⟨cUE, 0, BitVec.ofInt 64 (a.base.toNat + x.off)⟩) else none

/-- Stores in order, those next to each other on pages of one key id and attribute taken together. -/
def kindRuns : List (Phys × List Host.Cell) → List (BitVec 6 × Bool × List Host.Cell)
  | [] => []
  | (p, cs) :: rest =>
    match kindRuns rest with
    | (k, u, ds) :: more => if k = p.key ∧ u = p.unc then (k, u, cs ++ ds) :: more else (p.key, p.unc, cs) :: (k, u, ds) :: more
    | [] => [(p.key, p.unc, cs)]

/-- What performing accesses store, each where it lies, in ascending lane order. -/
def storesOf (size : Nat) (data : Nat → Nat) (l : List LaneAccess) : List (Phys × List Host.Cell) :=
  l.filterMap fun x => match x.fate with
    | .performs p none => some (p, cellsFrom p.pa (bytesOf size (data x.lane)))
    | _ => none

/-- R185: the stores of performing accesses put into the store buffer, a higher lane's after a lower one's. -/
def pushAccesses (s : State) (size : Nat) (data : Nat → Nat) (l : List LaneAccess) : State :=
  (kindRuns (storesOf size data l)).foldl (fun t r => t.pushTagged s.nextTag r.1 r.2.1 r.2.2) s

/-- The site of an instruction that names an array register. -/
def arraySite (k : BitVec 4) (writes masked : Bool) : Site := { areg := k.setWidth 8, writes := writes, masked := masked }

/-- The indices of a vector member: lanes of the effective mask, read as I32. -/
def vectorIndices (s : State) (x : BitVec 7) : List (Nat × Int) :=
  (lanesOf s.effMask).map fun i => (i, (lane (s.readV x) i).toInt)

/-- `lda`, `ldb` (R184, R191, R192). -/
def vectorLoad (s : State) (byteForm : Bool) (d : BitVec 7) (k : BitVec 4) (x m : BitVec 7) : State :=
  let a := s.readA k
  let size := sizeOf a.esize.toNat
  let site := arraySite k false true
  s.checked site [(s.beyondVarch [d, x], illegal), (3 ≤ a.esize.toNat || s.pinned d, inMode)] <|
    if s.effMask = 0 then s.retire
    else
      let l := s.arrayAccesses a .read byteForm (s.shadowV x) m.toInt (s.vectorIndices x)
      match LaneAccess.troubles l with
      | [] =>
        let s := s.fillReserved a byteForm (s.shadowV x) m.toInt l
        (match s.poisonedAccesses a size l with
        | [] =>
          let res := perLane fun i => (l.find? fun x => x.lane == i).elim 0 fun x => BitVec.ofNat 32 (ofBytes (s.fateBytes size x.fate))
          ((s.writeV d s.effMask res .unbounded).retireAccess k (LaneAccess.suppressed l)).retire
        | ts => s.faultLanes site ts)
      | ts => s.faultLanes site ts

/-- `sta`, `stb`. -/
def vectorStore (s : State) (byteForm : Bool) (d : BitVec 7) (k : BitVec 4) (x m : BitVec 7) : State :=
  let a := s.readA k
  let size := sizeOf a.esize.toNat
  let site := arraySite k true true
  s.checked site [(s.beyondVarch [d, x], illegal), (3 ≤ a.esize.toNat, inMode)] <|
    if s.effMask = 0 then s.retire
    else
      let l := s.arrayAccesses a .write byteForm (s.shadowV x) m.toInt (s.vectorIndices x)
      match LaneAccess.troubles l with
      | [] =>
        let data := fun i => (lane (s.readV d) i).toNat
        (((s.cacheAccesses a l).pushAccesses size data l).retireAccess k (LaneAccess.suppressed l)).retire
      | ts => s.faultLanes site ts

/-- `slda` (R184): performed once, whatever the masks. -/
def scalarLoad (s : State) (d : BitVec 7) (k : BitVec 4) (x m : BitVec 7) : State :=
  let a := s.readA k
  let size := sizeOf a.esize.toNat
  let site := arraySite k false false
  s.checked site [(4 ≤ a.esize.toNat, inMode)] <|
    let l := s.arrayAccesses a .read false (s.shadowS x) m.toInt [(0, (s.readS x).toInt)]
    match LaneAccess.troubles l with
    | (_, t) :: _ => s.fault site t
    | [] =>
      let s := s.fillAccesses a size l
      match s.poisonedAccesses a size l with
      | (_, t) :: _ => s.fault site t
      | [] =>
        let v := l.head?.elim 0 fun x => ofBytes (s.fateBytes size x.fate)
        ((s.writeS d (BitVec.ofNat 64 v) .unbounded).retireAccess k (LaneAccess.suppressed l)).retire

/-- `ssta`. -/
def scalarStore (s : State) (d : BitVec 7) (k : BitVec 4) (x m : BitVec 7) : State :=
  let a := s.readA k
  let size := sizeOf a.esize.toNat
  let site := arraySite k true false
  s.checked site [(4 ≤ a.esize.toNat, inMode)] <|
    let l := s.arrayAccesses a .write false (s.shadowS x) m.toInt [(0, (s.readS x).toInt)]
    match LaneAccess.troubles l with
    | (_, t) :: _ => s.fault site t
    | [] =>
      (((s.cacheAccesses a l).pushAccesses size (fun _ => (s.readS d).toNat) l).retireAccess k
        (LaneAccess.suppressed l)).retire

end State

/-- `lda` (R184). -/
def execLda (d : BitVec 7) (a : BitVec 4) (x m : BitVec 7) (s : State) : Out := .next (s.vectorLoad false d a x m)
/-- `sta` (R184). -/
def execSta (d : BitVec 7) (a : BitVec 4) (x m : BitVec 7) (s : State) : Out := .next (s.vectorStore false d a x m)
/-- `ldb` (R184). -/
def execLdb (d : BitVec 7) (a : BitVec 4) (x m : BitVec 7) (s : State) : Out := .next (s.vectorLoad true d a x m)
/-- `stb` (R184). -/
def execStb (d : BitVec 7) (a : BitVec 4) (x m : BitVec 7) (s : State) : Out := .next (s.vectorStore true d a x m)
/-- `slda` (R184). -/
def execSlda (d : BitVec 7) (a : BitVec 4) (x m : BitVec 7) (s : State) : Out := .next (s.scalarLoad d a x m)
/-- `ssta` (R184). -/
def execSsta (d : BitVec 7) (a : BitVec 4) (x m : BitVec 7) (s : State) : Out := .next (s.scalarStore d a x m)

/-! ## Scratchpad (R188) -/

namespace State

/-- The current warp's stores to a core's SRAM perform. -/
def drainTo (s : State) (pcn : Nat) : State :=
  (List.replicate s.warp.stores.length 0).foldl (fun s _ =>
    match s.warp.stores.findIdx? fun p => p.scratch == some pcn with
    | some n => s.registerNth n
    | none => s) s

/-- The store in a buffer that must perform first for one at a place to do so: an older one that shares a byte with it goes before it
(`mayPerform`). -/
def firstOf (ps : List PendingStore) : Nat → Nat → Nat
  | 0, k => k
  | fuel + 1, k =>
    match (range 0 k).find? fun i => (ps[i]?).any fun q => q.scratch.isNone && (ps[k]?).any fun p => shareByte q.cells p.cells with
    | some i => firstOf ps fuel i
    | none => k

/-- R185, R319: the current warp's older stores to bytes of global memory perform before its update, or its read at the home, of them. It is
ordered with no other store (R314). -/
def drainOver (s : State) (pa n : Nat) : State :=
  (List.replicate s.warp.stores.length 0).foldl (fun s _ =>
    match s.warp.stores.findIdx? fun p => p.scratch.isNone && p.cells.any fun c => pa ≤ c.1 && c.1 < pa + n with
    | some k => s.registerNth (firstOf s.warp.stores k k)
    | none => s) s

/-- What a load of n bytes of a scratchpad needs: it waits for the warp's older stores to the same words to perform, whichever path they
took (R287). A load that has executed ahead needs nothing. -/
def settleOwn (s : State) (pcn a n : Nat) : State :=
  let s := s.takeAhead (some pcn) a n
  if (s.taken? (some pcn) a n).isSome then s
  else if s.warp.stores.any fun p => p.scratch == some pcn && p.cells.any fun c => a / 4 ≤ c.1 / 4 && c.1 / 4 < (a + n + 3) / 4 then
    s.drainTo pcn
  else s

/-- R188: the place of a scratchpad access of `size` bytes whose address must be a multiple of `align`. An address below 0 lies
beyond the scratchpads as one above them does. -/
def scratchAccess (s : State) (addr : Int) (size align : Nat) : Except Trouble (Nat × Nat) :=
  if addr % align != 0 then .error ⟨cMISALIGN, align, BitVec.ofInt 64 addr⟩
  else if addr < 0 then .error ⟨cSCRATCH, 0, BitVec.ofInt 64 addr⟩
  else match s.scratchPlace addr.toNat size with
    | .error d => .error ⟨cSCRATCH, d, BitVec.ofInt 64 addr⟩
    | .ok p => .ok p

/-- The scratchpad places of the active lanes of an index register: byte addresses index + step. -/
def scratchLanes (s : State) (x : BitVec 7) (step : Int) : List (Nat × Int × Except Trouble (Nat × Nat)) :=
  (lanesOf s.effMask).map fun i =>
    let addr := (lane (s.readV x) i).toNat + step
    (i, addr, s.scratchAccess addr 4 4)

end State

/-- The faults among scratchpad accesses. -/
def scratchTroubles (l : List (Nat × Int × Except Trouble (Nat × Nat))) : List (Nat × Trouble) :=
  l.filterMap fun x => match x.2.2 with | .error t => some (x.1, t) | .ok _ => none

/-- The places of those that perform. -/
def scratchPlaces (l : List (Nat × Int × Except Trouble (Nat × Nat))) : List (Nat × Int × Nat × Nat) :=
  l.filterMap fun x => match x.2.2 with | .ok p => some (x.1, x.2.1, p) | .error _ => none

/-- `lds` (R188). -/
def execLds (d x m : BitVec 7) (s : State) : Out :=
  .next (s.checked .lanes [(s.beyondVarch [d, x], illegal), (s.pinned d, inMode)] <|
    if s.effMask = 0 then s.retire
    else
      let l := s.scratchLanes x (4 * m.toInt)
      match scratchTroubles l with
      | [] =>
        let ps := scratchPlaces l
        let s := ps.foldl (fun s p => s.settleOwn p.2.2.1 p.2.2.2 4) s
        (match ps.filterMap fun p => if s.scratchPoisoned p.2.2.1 p.2.2.2 4 then
              some (p.1, (⟨cUE, 0, BitVec.ofInt 64 p.2.1⟩ : Trouble)) else none with
        | [] =>
          let res := perLane fun i => (ps.find? fun p => p.1 == i).elim 0 fun p =>
            BitVec.ofNat 32 (ofBytes (s.scratchBytes p.2.2.1 p.2.2.2 4))
          (s.writeV d s.effMask res .unbounded).retire
        | ts => s.faultLanes .lanes ts)
      | ts => s.faultLanes .lanes ts)

/-- `sts` (R188): one store for each core it reaches, the higher lane last. -/
def execSts (d x m : BitVec 7) (s : State) : Out :=
  .next (s.checked { writes := true, masked := true } [(s.beyondVarch [d, x], illegal)] <|
    if s.effMask = 0 then s.retire
    else
      let l := s.scratchLanes x (4 * m.toInt)
      match scratchTroubles l with
      | [] =>
        let ps := scratchPlaces l
        let cores := (ps.map fun p => p.2.2.1).eraseDups
        (cores.foldl (fun s c => s.pushScratch c
          ((ps.filter fun p => p.2.2.1 == c).flatMap fun p => cellsFrom p.2.2.2 (bytesOf 4 (lane (s.readV d) p.1).toNat))) s).retire
      | ts => s.faultLanes { writes := true, masked := true } ts)

namespace State

/-- A scalar scratchpad read: the state after the warp's older stores there and the bytes go on, or the fault is taken. -/
def scratchLoad (s : State) (addr : Int) (size align : Nat) (body : State → List Byte → State) : State :=
  match s.scratchAccess addr size align with
  | .error t => s.fault .scalar t
  | .ok p =>
    let s := s.settleOwn p.1 p.2 size
    if s.scratchPoisoned p.1 p.2 size then s.fault .scalar ⟨cUE, 0, BitVec.ofInt 64 addr⟩
    else body s (s.scratchBytes p.1 p.2 size)

/-- A scalar scratchpad store. -/
def scratchStore (s : State) (addr : Int) (align : Nat) (bs : List Byte) : State :=
  match s.scratchAccess addr bs.length align with
  | .error t => s.fault { writes := true } t
  | .ok p => (s.pushScratch p.1 (cellsFrom p.2 bs)).retire

end State

/-- `slds` (R188). -/
def execSlds (d x m : BitVec 7) (s : State) : Out :=
  .next (s.scratchLoad ((s.readS x).toNat + 8 * m.toInt) 8 8 fun s bs => s.scalarOp d (BitVec.ofNat 64 (ofBytes bs)) .unbounded)
/-- `ssts` (R188). -/
def execSsts (d x m : BitVec 7) (s : State) : Out :=
  .next (s.scratchStore ((s.readS x).toNat + 8 * m.toInt) 8 (bytesOf 8 (s.readS d).toNat))

/-! ## Spills and fills (R189, R190) -/

/-- The lanes of a vector as bytes. -/
def laneBytes (x : Lanes) : List Byte := (range 0 32).flatMap fun i => bytesOf 4 (lane x i).toNat

/-- Lanes from bytes. -/
def lanesFrom (bs : List Byte) : Lanes := perLane fun i => BitVec.ofNat 32 (ofBytes ((bs.drop (4 * i)).take 4))

/-- A signed 32-bit number as bytes. -/
def int32Bytes (x : Int) : List Byte := bytesOf 4 (BitVec.ofInt 32 x).toNat

/-- R189: the record of a vector register, 144 bytes. -/
def vectorRecord (x : Lanes) (sh : Shadow) : List Byte :=
  let body := laneBytes x ++ (match sh with
    | .bounded lo hi => int32Bytes lo ++ int32Bytes hi ++ [1, 0, 0, 0]
    | .unbounded => int32Bytes 0 ++ int32Bytes 0 ++ [1, 1, 0, 0])
  body ++ bytesOf 4 (crc32c body).toNat

/-- R189: the record of a scalar register, 16 bytes. -/
def scalarRecord (x : DWord) (sh : Shadow) : List Byte :=
  bytesOf 8 x.toNat ++ (match sh with
    | .bounded lo hi => int32Bytes lo ++ int32Bytes hi
    | .unbounded => int32Bytes 2147483647 ++ int32Bytes (-2147483648))

/-- A signed 32-bit number from a record's bytes. -/
def int32At (bs : List Byte) (o : Nat) : Int := (BitVec.ofNat 32 (ofBytes ((bs.drop o).take 4))).toInt

/-- R190: the shadow a vector fill gives. -/
def recordShadow (bs : List Byte) : Shadow :=
  let lo := int32At bs 128
  let hi := int32At bs 132
  if bs.getD 136 0 ≠ 1 ∨ (bs.getD 137 0).toNat ≠ 0 ∨ bs.getD 138 0 ≠ 0 ∨ bs.getD 139 0 ≠ 0
      ∨ ofBytes ((bs.drop 140).take 4) ≠ (crc32c (bs.take 140)).toNat ∨ lo > hi
      ∨ (range 0 32).any (fun i => int32At bs (4 * i) < lo || hi < int32At bs (4 * i)) then .unbounded
  else .bounded lo hi

/-- R190: the shadow a scalar fill gives. -/
def scalarRecordShadow (bs : List Byte) : Shadow :=
  let v := (BitVec.ofNat 64 (ofBytes (bs.take 8))).toInt
  let lo := int32At bs 8
  let hi := int32At bs 12
  if lo > hi ∨ v < lo ∨ hi < v then .unbounded else .bounded lo hi

/-- `vspill` (R189). -/
def execVspill (d a : BitVec 7) (s : State) : Out :=
  .next (s.checked { writes := true } [(s.beyondVarch [d], illegal)]
    (s.scratchStore (s.readS a).toNat 48 (vectorRecord (s.readV d) (s.shadowV d))))
/-- `vfill` (R190). -/
def execVfill (d a : BitVec 7) (s : State) : Out :=
  .next (s.checked .scalar [(s.beyondVarch [d], illegal), (s.pinned d, inMode)]
    (s.scratchLoad (s.readS a).toNat 144 48 fun s bs => (s.putV d (lanesFrom bs) (recordShadow bs)).retire))
/-- `sspill` (R189). -/
def execSspill (d a : BitVec 7) (s : State) : Out :=
  .next (s.scratchStore (s.readS a).toNat 16 (scalarRecord (s.readS d) (s.shadowS d)))
/-- `sfill` (R190). -/
def execSfill (d a : BitVec 7) (s : State) : Out :=
  .next (s.scratchLoad (s.readS a).toNat 16 16 fun s bs =>
    s.scalarOp d (BitVec.ofNat 64 (ofBytes (bs.take 8))) (scalarRecordShadow bs))

/-! ## Binding (R180-R183, R187) -/

/-- R187: an entry that no longer records the binding of those registers of a warp. -/
def Footprint.release (f : Footprint) (cw : Nat) (regs : Nat → Bool) : Footprint :=
  { f with reg := f.reg.filter fun r => !(r.1 == cw && regs r.2) }

namespace State

/-- R191 cases 5-7 for a global access of a scalar member that names no array register: where its bytes lie, or its fault.
The bytes lie on one page. -/
def globalPlace (s : State) (kind : Access) (va size : Nat) : Except Trouble Phys :=
  if !s.inLease s.warp.launch va then .error ⟨cLEASE, 0, BitVec.ofNat 64 va⟩
  else match s.translate s.warp.pcn kind va with
    | .error t => .error t
    | .ok p => if va + size ≤ 2 ^ 48 then .ok p else .error ⟨cTRANSLATION, 5, BitVec.ofNat 64 va⟩

/-- R181: a descriptor's fields bound, or the fault. `bad`: a reserved bit is set; `addr`: the address of the access that read them,
0 when none did (R193). The footprint table takes the binding, and the entry bound longest ago leaves a full one: an update of
an access count does not make an entry recently written (R187 does not say: DESIGN CHOICE, log 61). -/
def bindTo (s : State) (site : Site) (k : BitVec 4) (base : DWord) (extent form : Nat) (bad : Bool) (addr : DWord) : State :=
  let esize := form % 16
  let check := form / 16 % 4
  let size := sizeOf esize
  let isConst := check == 2
  let beyond := isConst && base.toNat + extent * size > s.constSeg.2
  s.checked site [(bad || 12 ≤ esize || check == 3, malformedForm),
      (esize ≤ 4 && base.toNat % size != 0, ⟨cMISALIGN, size, addr⟩),
      (beyond, ⟨cBOUNDS, 2, addr⟩)] <|
    let a : ArrayReg := { ArrayReg.start with
      base := base.setWidth 48, extent := BitVec.ofNat 31 extent, esize := BitVec.ofNat 4 esize,
      check := BitVec.ofNat 2 check, ro := isConst || form / 64 % 2 == 1 }
    let t := s.writeA k (s.frameOf a)
    (t.modifyCore t.warp.pcn fun c => { c with
      footprint := (⟨some (t.warp.cw, k.toNat), c.rid, base.toNat, extent * size, 0⟩
        :: c.footprint.map (Footprint.release · t.warp.cw (· == k.toNat))).take 64 }).retire

end State

/-- `abind` (R180, R181). -/
def execAbind (d : BitVec 4) (a : BitVec 7) (s : State) : Out :=
  let site := State.arraySite d false false
  let va := s.readS a
  .next (s.checked site [(va.toNat % 32 != 0, ⟨cMISALIGN, 32, va⟩)] <|
    match s.globalPlace .read va.toNat 32 with
    | .error t => s.fault site t
    | .ok p =>
      let s := (s.fillFor p 32).cacheLeaf s.warp.pcn va.toNat
      if s.loadPoisoned p 32 then s.fault site ⟨cUE, 0, va⟩
      else
        let bs := s.loadBytes p 32
        let base := BitVec.ofNat 64 (ofBytes (bs.take 8))
        let extent := ofBytes ((bs.drop 8).take 4)
        let form := (bs.getD 12 0).toNat
        s.bindTo site d base (extent % 2 ^ 31) (form % 128)
          ((bs.drop 13).any (· != 0) || 128 ≤ form || 2 ^ 31 ≤ extent || 2 ^ 48 ≤ base.toNat) va)

/-- `abinds` (R180, R181). -/
def execAbinds (d : BitVec 4) (a : BitVec 7) (s : State) : Out :=
  let base := s.readS a
  let form := s.readS (a + 1)
  .next (s.bindTo (State.arraySite d false false) d base (form.toNat % 2 ^ 31) (form.toNat / 2 ^ 32 % 128)
    (2 ^ 39 ≤ form.toNat || form.getLsbD 31 || 2 ^ 48 ≤ base.toNat) 0)

/-- `aqry` (R183). -/
def execAqry (d : BitVec 7) (k : BitVec 4) (f : BitVec 3) (s : State) : Out :=
  let a := s.readA k
  .next (
    if f = 0 then s.scalarOp d (a.base.setWidth 64) .unbounded
    else if f = 1 then s.scalarOp d (a.extent.setWidth 64) (.bounded a.extent.toNat a.extent.toNat)
    else if f = 2 then s.scalarOp d (BitVec.ofNat 64 ((if a.ro then 64 else 0) + 16 * a.check.toNat + a.esize.toNat)) .unbounded
    else if f = 3 then s.scalarOp d (a.vcount.setWidth 64) (.bounded 0 65535)
    else if f = 4 then s.scalarOp d (a.limit.setWidth 64) .unbounded
    else s.scalarOp d (a.tgen.setWidth 64) .unbounded)

end Sys2Proof.Machine
end

