-- ==== Sys2Proof/Machine/Atomics.lean ====
section
/-!
DEFINITION. Atomics (R299-R302), fences (R304), `dwb`, `iinv` and `fetchb` (R305-R307).
-/

namespace Sys2Proof.Machine

/-! ## The update (R300) -/

/-- The OPs of R300, but for `aapp`. -/
inductive AtomicOp where
  | add | addf | min | max | minu | maxu | and | or | xor | xch | cas
deriving DecidableEq, Repr

/-- R300: the new value of a word of n bits, and the flags. -/
def AtomicOp.apply (op : AtomicOp) (n rm : Nat) (dz : Bool) (old x y : Nat) : Nat × BitVec 8 :=
  let t : IntTy := ⟨n, true⟩
  match op with
  | .add => ((old + x) % 2 ^ n, 0)
  | .addf => addF32 rm 0 dz old x
  | .min => (if t.value x < t.value old then x else old, 0)
  | .max => (if t.value old < t.value x then x else old, 0)
  | .minu => (Min.min old x, 0)
  | .maxu => (Max.max old x, 0)
  | .and => (old &&& x, 0)
  | .or => (old ||| x, 0)
  | .xor => (old ^^^ x, 0)
  | .xch => (x, 0)
  | .cas => (if old = x then y else old, 0)

/-- R302: the orders of an atomic: `.acq` and `.ar` acquire. -/
def acquires (r : BitVec 2) : Bool := r.getLsbD 0
/-- R302: `.rel` and `.ar` release. -/
def releases (r : BitVec 2) : Bool := r.getLsbD 1

namespace State

/-! ## Performing at the home -/

/-- R300: one indivisible update of a global word at its home, made for a core and a launch: the state, the old value and the
flags. The owner of the word is recalled first, and the requester's copy becomes INVALID (R298). -/
def updateAt (s : State) (pcn launch : Nat) (p : Phys) (size : Nat) (f : Nat → Nat × BitVec 8) : State × Nat × BitVec 8 :=
  let line := lineOf p.pa
  let s := if (range p.pa size).any fun a => (s.ownerOf a).isSome then s.recallLine line else s
  let s := s.fetch p.key (sectorOf p.pa)
  let old := ofBytes (s.homeRead p.key p.pa size)
  let r := f old
  let s := s.sliceWrite line (s.stampOf launch) (cellsFrom p.pa (bytesOf size r.1))
  (s.invalidateWords pcn line fun i => p.pa % 192 / 4 ≤ i && i * 4 < p.pa % 192 + size, old, r.2)

/-- The update of an atomic of the current warp: its own stores to the word perform first (R185), and what it has read ahead of the word
is older than the update (R319). -/
def updateGlobal (s : State) (p : Phys) (size : Nat) (f : Nat → Nat × BitVec 8) : State × Nat × BitVec 8 :=
  ((s.drainOver p.pa size).dropAhead none (cellsFrom p.pa (List.replicate size 0))).updateAt s.warp.pcn s.warp.launch p size f

/-- R300: one indivisible update of a scratchpad word at its home core. -/
def updateScratch (s : State) (pcn a size : Nat) (f : Nat → Nat × BitVec 8) : State × Nat × BitVec 8 :=
  let s := (s.drainTo pcn).dropAhead (some pcn) (cellsFrom a (List.replicate size 0))
  let old := ofBytes ((range a size).map (s.core pcn).sram.get)
  let r := f old
  (s.sramWrite pcn (cellsFrom a (bytesOf size r.1)), old, r.2)

/-- R302: what an order does before the first lane performs. -/
def beforeAtomic (s : State) (r : BitVec 2) : State := if releases r then s.drain else s

/-- R302: what an order does after the last lane performs. -/
def afterAtomic (s : State) (r : BitVec 2) : State := if acquires r then s.acquire else s

/-- The lanes' updates in ascending order: the state, each lane's old value, the flags. -/
def updates {α : Type} (f : State → α → State × Nat × BitVec 8) :
    List (Nat × α) → State → State × List (Nat × Nat) × BitVec 8
  | [], s => (s, [], 0)
  | (l, x) :: rest, s =>
    let r := f s x
    let t := updates f rest r.1
    (t.1, (l, r.2.1) :: t.2.1, r.2.2 ||| t.2.2)

/-- Old values as lanes; a lane without one receives 0. -/
def oldLanes (l : List (Nat × Nat)) : Lanes := perLane fun i => BitVec.ofNat 32 ((l.lookup i).getD 0)

/-- The registers of a vector atomic: `acas` names d + 1 too. -/
def atomicRegs (op : AtomicOp) (d x : BitVec 7) : List (BitVec 7) := if op = .cas then [d, d + 1, x] else [d, x]

/-- R300: whether MODE forbids an atomic: `aaddf` under a stochastic or reserved RM. -/
def atomicMode (s : State) (op : AtomicOp) : Bool := op == .addf && 5 ≤ s.rm

/-- The accesses that perform, with their lanes. -/
def performing (l : List LaneAccess) : List (Nat × Phys) :=
  l.filterMap fun x => match x.fate with | .performs p _ => some (x.lane, p) | _ => none

/-- The warp's own stores to the words its atomic updates perform first (R185). -/
def reaching (s : State) (size : Nat) (l : List (Nat × Phys)) : State := l.foldl (fun s q => s.drainOver q.2.pa size) s

/-- A vector global atomic (R299, R300). -/
def atomicVg (s : State) (op : AtomicOp) (d : BitVec 7) (k : BitVec 4) (x : BitVec 7) (r : BitVec 2) : State :=
  let a := s.readA k
  let site := arraySite k true true
  s.checked site [(s.beyondVarch (atomicRegs op d x), illegal),
      (a.esize != 2 || s.pinned d || s.atomicMode op, inMode)] <|
    if s.effMask = 0 then s.retire
    else
      let l := s.arrayAccesses a .both false (s.shadowV x) 0 (s.vectorIndices x)
      match LaneAccess.troubles l with
      | [] =>
        let s := ((s.cacheAccesses a l).beforeAtomic r).reaching 4 (State.performing l)
        (match (performing l).filterMap fun q => if (range q.2.pa 4).any s.agentPoison then
              some (q.1, (⟨cUE, 0, BitVec.ofInt 64 (a.base.toNat + ((l.find? fun y => y.lane == q.1).elim 0 LaneAccess.off))⟩ : Trouble))
            else none with
        | [] =>
          let vd := s.readV d
          let ve := s.readV (d + 1)
          let u := updates (fun s (q : Nat × Phys) => s.updateGlobal q.2 4 fun old =>
            op.apply 32 s.rm s.dz old (lane vd q.1).toNat (lane ve q.1).toNat) ((performing l).map fun q => (q.1, q)) s
          ((((u.1.writeV d u.1.effMask (oldLanes u.2.1) .unbounded).orFlags u.2.2).afterAtomic r).retireAccess k
            (LaneAccess.suppressed l)).retire
        | ts => s.faultLanes site ts)
      | ts => s.faultLanes site ts

/-- A scalar global atomic. -/
def atomicSg (s : State) (op : AtomicOp) (d : BitVec 7) (k : BitVec 4) (x : BitVec 7) (r : BitVec 2) : State :=
  let a := s.readA k
  let size := sizeOf a.esize.toNat
  let site := arraySite k true false
  s.checked site [(!(a.esize == 2 || a.esize == 3) || s.atomicMode op || (op == .addf && a.esize == 3), inMode)] <|
    let l := s.arrayAccesses a .both false (s.shadowS x) 0 [(0, (s.readS x).toInt)]
    match LaneAccess.troubles l with
    | (_, t) :: _ => s.fault site t
    | [] =>
      let s := ((s.cacheAccesses a l).beforeAtomic r).reaching size (State.performing l)
      let n := 8 * size
      match performing l with
      | [] => (((s.writeS d 0 .unbounded).afterAtomic r).retireAccess k (LaneAccess.suppressed l)).retire
      | (_, p) :: _ =>
        if (range p.pa size).any s.agentPoison then
          s.fault site ⟨cUE, 0, BitVec.ofInt 64 (a.base.toNat + (l.head?.elim 0 LaneAccess.off))⟩
        else
          let u := s.updateGlobal p size fun old =>
            op.apply n s.rm s.dz old ((s.readS d).toNat % 2 ^ n) ((s.readS (d + 1)).toNat % 2 ^ n)
          ((((u.1.writeS d (BitVec.ofNat 64 u.2.1) .unbounded).orFlags u.2.2).afterAtomic r).retireAccess k 0).retire

/-- A vector scratch atomic. -/
def atomicVs (s : State) (op : AtomicOp) (d x : BitVec 7) (r : BitVec 2) : State :=
  let site : Site := { writes := true, masked := true }
  s.checked site [(s.beyondVarch (atomicRegs op d x), illegal), (s.pinned d || s.atomicMode op, inMode)] <|
    if s.effMask = 0 then s.retire
    else
      let l := s.scratchLanes x 0
      match scratchTroubles l with
      | [] =>
        let s := s.beforeAtomic r
        let ps := scratchPlaces l
        (match ps.filterMap fun p => if s.scratchPoisoned p.2.2.1 p.2.2.2 4 then
              some (p.1, (⟨cUE, 0, BitVec.ofInt 64 p.2.1⟩ : Trouble)) else none with
        | [] =>
          let vd := s.readV d
          let ve := s.readV (d + 1)
          let u := updates (fun s (q : Nat × Nat × Nat) => s.updateScratch q.2.1 q.2.2 4 fun old =>
            op.apply 32 s.rm s.dz old (lane vd q.1).toNat (lane ve q.1).toNat) (ps.map fun p => (p.1, p.1, p.2.2)) s
          (((u.1.writeV d u.1.effMask (oldLanes u.2.1) .unbounded).orFlags u.2.2).afterAtomic r).retire
        | ts => s.faultLanes site ts)
      | ts => s.faultLanes site ts

/-- A scalar scratch atomic: an 8-byte word. -/
def atomicSs (s : State) (op : AtomicOp) (d x : BitVec 7) (r : BitVec 2) : State :=
  let site : Site := { writes := true }
  s.checked site [(op == .addf, inMode)] <|
    match s.scratchAccess (s.readS x).toNat 8 8 with
    | .error t => s.fault site t
    | .ok p =>
      let s := s.beforeAtomic r
      if s.scratchPoisoned p.1 p.2 8 then s.fault site ⟨cUE, 0, s.readS x⟩
      else
        let u := s.updateScratch p.1 p.2 8 fun old =>
          op.apply 64 s.rm s.dz old (s.readS d).toNat (s.readS (d + 1)).toNat
        (((u.1.writeS d (BitVec.ofNat 64 u.2.1) .unbounded).orFlags u.2.2).afterAtomic r).retire

/-! ## Append (R301) -/

/-- R301: what each lane of the effective mask receives. -/
def appendLanes (s : State) (old : Nat) : Lanes :=
  perLane fun i => BitVec.ofNat 32 (old + ((lanesOf s.effMask).filter fun j => j < i).length)

end State

/-- `aapp` on a global counter (R301). -/
def execAappVg (d : BitVec 7) (k : BitVec 4) (x : BitVec 7) (r : BitVec 2) (s : State) : Out :=
  let a := s.readA k
  let site := State.arraySite k true true
  .next (s.checked site [(s.beyondVarch [d, x], illegal), (a.esize != 2 || s.pinned d, inMode)] <|
    if s.effMask = 0 then s.retire
    else
      let l := s.arrayAccesses a .both false (s.shadowV x) 0 ((s.vectorIndices x).take 1)
      match LaneAccess.troubles l with
      | [] =>
        let s := ((s.cacheAccesses a l).beforeAtomic r).reaching 4 (State.performing l)
        (match State.performing l with
        | [] => ((((s.writeV d s.effMask (perLane fun _ => 0) .unbounded)).afterAtomic r).retireAccess k 1).retire
        | (i, p) :: _ =>
          if (range p.pa 4).any s.agentPoison then
            s.faultLanes site [(i, ⟨cUE, 0, BitVec.ofInt 64 (a.base.toNat + (l.head?.elim 0 LaneAccess.off))⟩)]
          else
            let u := s.updateGlobal p 4 fun old => ((old + popCount s.effMask) % 2 ^ 32, 0)
            (((u.1.writeV d u.1.effMask (u.1.appendLanes u.2.1) .unbounded).afterAtomic r).retireAccess k 0).retire)
      | ts => s.faultLanes site ts)

/-- `aapp` on a scratchpad counter (R301). -/
def execAappVs (d x : BitVec 7) (r : BitVec 2) (s : State) : Out :=
  let site : Site := { writes := true, masked := true }
  .next (s.checked site [(s.beyondVarch [d, x], illegal), (s.pinned d, inMode)] <|
    if s.effMask = 0 then s.retire
    else match (s.scratchLanes x 0).head? with
      | none => s.retire
      | some (i, addr, .error t) => s.faultLanes site [(i, { t with addr := BitVec.ofInt 64 addr })]
      | some (i, addr, .ok p) =>
        let s := s.beforeAtomic r
        if s.scratchPoisoned p.1 p.2 4 then s.faultLanes site [(i, ⟨cUE, 0, BitVec.ofInt 64 addr⟩)]
        else
          let u := s.updateScratch p.1 p.2 4 fun old => ((old + popCount s.effMask) % 2 ^ 32, 0)
          ((u.1.writeV d u.1.effMask (u.1.appendLanes u.2.1) .unbounded).afterAtomic r).retire)

/-! ## The members -/

/-- `aadd`, a vector global form (R300). -/
def execAaddVg (d : BitVec 7) (k : BitVec 4) (x : BitVec 7) (r : BitVec 2) (s : State) : Out := .next (s.atomicVg .add d k x r)
/-- `aaddf`, a vector global form (R300). -/
def execAaddfVg (d : BitVec 7) (k : BitVec 4) (x : BitVec 7) (r : BitVec 2) (s : State) : Out := .next (s.atomicVg .addf d k x r)
/-- `amin`, a vector global form (R300). -/
def execAminVg (d : BitVec 7) (k : BitVec 4) (x : BitVec 7) (r : BitVec 2) (s : State) : Out := .next (s.atomicVg .min d k x r)
/-- `amax`, a vector global form (R300). -/
def execAmaxVg (d : BitVec 7) (k : BitVec 4) (x : BitVec 7) (r : BitVec 2) (s : State) : Out := .next (s.atomicVg .max d k x r)
/-- `aminu`, a vector global form (R300). -/
def execAminuVg (d : BitVec 7) (k : BitVec 4) (x : BitVec 7) (r : BitVec 2) (s : State) : Out := .next (s.atomicVg .minu d k x r)
/-- `amaxu`, a vector global form (R300). -/
def execAmaxuVg (d : BitVec 7) (k : BitVec 4) (x : BitVec 7) (r : BitVec 2) (s : State) : Out := .next (s.atomicVg .maxu d k x r)
/-- `aand`, a vector global form (R300). -/
def execAandVg (d : BitVec 7) (k : BitVec 4) (x : BitVec 7) (r : BitVec 2) (s : State) : Out := .next (s.atomicVg .and d k x r)
/-- `aor`, a vector global form (R300). -/
def execAorVg (d : BitVec 7) (k : BitVec 4) (x : BitVec 7) (r : BitVec 2) (s : State) : Out := .next (s.atomicVg .or d k x r)
/-- `axor`, a vector global form (R300). -/
def execAxorVg (d : BitVec 7) (k : BitVec 4) (x : BitVec 7) (r : BitVec 2) (s : State) : Out := .next (s.atomicVg .xor d k x r)
/-- `axch`, a vector global form (R300). -/
def execAxchVg (d : BitVec 7) (k : BitVec 4) (x : BitVec 7) (r : BitVec 2) (s : State) : Out := .next (s.atomicVg .xch d k x r)
/-- `acas`, a vector global form (R300). -/
def execAcasVg (d : BitVec 7) (k : BitVec 4) (x : BitVec 7) (r : BitVec 2) (s : State) : Out := .next (s.atomicVg .cas d k x r)

/-- `aadd`, a scalar global form (R300). -/
def execAaddSg (d : BitVec 7) (k : BitVec 4) (x : BitVec 7) (r : BitVec 2) (s : State) : Out := .next (s.atomicSg .add d k x r)
/-- `aaddf`, a scalar global form (R300). -/
def execAaddfSg (d : BitVec 7) (k : BitVec 4) (x : BitVec 7) (r : BitVec 2) (s : State) : Out := .next (s.atomicSg .addf d k x r)
/-- `amin`, a scalar global form (R300). -/
def execAminSg (d : BitVec 7) (k : BitVec 4) (x : BitVec 7) (r : BitVec 2) (s : State) : Out := .next (s.atomicSg .min d k x r)
/-- `amax`, a scalar global form (R300). -/
def execAmaxSg (d : BitVec 7) (k : BitVec 4) (x : BitVec 7) (r : BitVec 2) (s : State) : Out := .next (s.atomicSg .max d k x r)
/-- `aminu`, a scalar global form (R300). -/
def execAminuSg (d : BitVec 7) (k : BitVec 4) (x : BitVec 7) (r : BitVec 2) (s : State) : Out := .next (s.atomicSg .minu d k x r)
/-- `amaxu`, a scalar global form (R300). -/
def execAmaxuSg (d : BitVec 7) (k : BitVec 4) (x : BitVec 7) (r : BitVec 2) (s : State) : Out := .next (s.atomicSg .maxu d k x r)
/-- `aand`, a scalar global form (R300). -/
def execAandSg (d : BitVec 7) (k : BitVec 4) (x : BitVec 7) (r : BitVec 2) (s : State) : Out := .next (s.atomicSg .and d k x r)
/-- `aor`, a scalar global form (R300). -/
def execAorSg (d : BitVec 7) (k : BitVec 4) (x : BitVec 7) (r : BitVec 2) (s : State) : Out := .next (s.atomicSg .or d k x r)
/-- `axor`, a scalar global form (R300). -/
def execAxorSg (d : BitVec 7) (k : BitVec 4) (x : BitVec 7) (r : BitVec 2) (s : State) : Out := .next (s.atomicSg .xor d k x r)
/-- `axch`, a scalar global form (R300). -/
def execAxchSg (d : BitVec 7) (k : BitVec 4) (x : BitVec 7) (r : BitVec 2) (s : State) : Out := .next (s.atomicSg .xch d k x r)
/-- `acas`, a scalar global form (R300). -/
def execAcasSg (d : BitVec 7) (k : BitVec 4) (x : BitVec 7) (r : BitVec 2) (s : State) : Out := .next (s.atomicSg .cas d k x r)

/-- `aadd`, a vector scratch form (R300). -/
def execAaddVs (d x : BitVec 7) (r : BitVec 2) (s : State) : Out := .next (s.atomicVs .add d x r)
/-- `aaddf`, a vector scratch form (R300). -/
def execAaddfVs (d x : BitVec 7) (r : BitVec 2) (s : State) : Out := .next (s.atomicVs .addf d x r)
/-- `amin`, a vector scratch form (R300). -/
def execAminVs (d x : BitVec 7) (r : BitVec 2) (s : State) : Out := .next (s.atomicVs .min d x r)
/-- `amax`, a vector scratch form (R300). -/
def execAmaxVs (d x : BitVec 7) (r : BitVec 2) (s : State) : Out := .next (s.atomicVs .max d x r)
/-- `aminu`, a vector scratch form (R300). -/
def execAminuVs (d x : BitVec 7) (r : BitVec 2) (s : State) : Out := .next (s.atomicVs .minu d x r)
/-- `amaxu`, a vector scratch form (R300). -/
def execAmaxuVs (d x : BitVec 7) (r : BitVec 2) (s : State) : Out := .next (s.atomicVs .maxu d x r)
/-- `aand`, a vector scratch form (R300). -/
def execAandVs (d x : BitVec 7) (r : BitVec 2) (s : State) : Out := .next (s.atomicVs .and d x r)
/-- `aor`, a vector scratch form (R300). -/
def execAorVs (d x : BitVec 7) (r : BitVec 2) (s : State) : Out := .next (s.atomicVs .or d x r)
/-- `axor`, a vector scratch form (R300). -/
def execAxorVs (d x : BitVec 7) (r : BitVec 2) (s : State) : Out := .next (s.atomicVs .xor d x r)
/-- `axch`, a vector scratch form (R300). -/
def execAxchVs (d x : BitVec 7) (r : BitVec 2) (s : State) : Out := .next (s.atomicVs .xch d x r)
/-- `acas`, a vector scratch form (R300). -/
def execAcasVs (d x : BitVec 7) (r : BitVec 2) (s : State) : Out := .next (s.atomicVs .cas d x r)

/-- `aadd`, a scalar scratch form (R300). -/
def execAaddSs (d x : BitVec 7) (r : BitVec 2) (s : State) : Out := .next (s.atomicSs .add d x r)
/-- `aaddf`, a scalar scratch form (R300). -/
def execAaddfSs (d x : BitVec 7) (r : BitVec 2) (s : State) : Out := .next (s.atomicSs .addf d x r)
/-- `amin`, a scalar scratch form (R300). -/
def execAminSs (d x : BitVec 7) (r : BitVec 2) (s : State) : Out := .next (s.atomicSs .min d x r)
/-- `amax`, a scalar scratch form (R300). -/
def execAmaxSs (d x : BitVec 7) (r : BitVec 2) (s : State) : Out := .next (s.atomicSs .max d x r)
/-- `aminu`, a scalar scratch form (R300). -/
def execAminuSs (d x : BitVec 7) (r : BitVec 2) (s : State) : Out := .next (s.atomicSs .minu d x r)
/-- `amaxu`, a scalar scratch form (R300). -/
def execAmaxuSs (d x : BitVec 7) (r : BitVec 2) (s : State) : Out := .next (s.atomicSs .maxu d x r)
/-- `aand`, a scalar scratch form (R300). -/
def execAandSs (d x : BitVec 7) (r : BitVec 2) (s : State) : Out := .next (s.atomicSs .and d x r)
/-- `aor`, a scalar scratch form (R300). -/
def execAorSs (d x : BitVec 7) (r : BitVec 2) (s : State) : Out := .next (s.atomicSs .or d x r)
/-- `axor`, a scalar scratch form (R300). -/
def execAxorSs (d x : BitVec 7) (r : BitVec 2) (s : State) : Out := .next (s.atomicSs .xor d x r)
/-- `axch`, a scalar scratch form (R300). -/
def execAxchSs (d x : BitVec 7) (r : BitVec 2) (s : State) : Out := .next (s.atomicSs .xch d x r)
/-- `acas`, a scalar scratch form (R300). -/
def execAcasSs (d x : BitVec 7) (r : BitVec 2) (s : State) : Out := .next (s.atomicSs .cas d x r)

/-! ## Fences (R304) -/

/-- `facq` (R304). -/
def execFacq (s : State) : Out := .next s.acquire.retire
/-- `frel` (R304): the copies a `cwait` awaited are complete when it retired (R243). -/
def execFrel (s : State) : Out := .next s.drain.retire
/-- `ffull` (R304): a load returns its data when it retires, so none is outstanding. -/
def execFfull (s : State) : Out := .next s.drain.acquire.retire

/-! ## Writing back and fetching code (R305-R307) -/

namespace State

/-- The bytes a table entry of a level covers, as a power of two. -/
def entryBits (level : Nat) : Nat :=
  if level = 0 then 39 else if level = 1 then 30 else if level = 2 then 21 else if level = 3 then 16 else 12

/-- R305: the physical runs of a range of addresses: address and length; what has no translation is passed over. `fuel` steps,
each past one leaf or one missing entry. -/
def runsOf (s : State) (pcn : Nat) : Nat → Nat → Nat → List (Nat × Nat)
  | 0, _, _ => []
  | fuel + 1, va, stop =>
    if stop ≤ va then []
    else match s.leafFor pcn va with
      | .ok (level, e) =>
        let n := min (stop - va) (2 ^ leafBits level - va % 2 ^ leafBits level)
        (leafPa level e va, n) :: s.runsOf pcn fuel (va + n) stop
      | .error level =>
        let size := 2 ^ entryBits level
        s.runsOf pcn fuel (va - va % size + size) stop

/-- Whether any byte of a word at a physical address lies in runs. -/
def inRuns (runs : List (Nat × Nat)) (pa : Nat) : Bool := runs.any fun r => r.1 < pa + 4 && pa < r.1 + r.2

/-- R305: the dirty owned words of runs in a core's L1 written back; they stay owned, clean. -/
def writeBackRuns (s : State) (pcn : Nat) (runs : List (Nat × Nat)) : State :=
  (s.core pcn).l1.foldl (fun s (l : L1Line) =>
    s.cleanWords pcn l fun w => inRuns runs (l.line * 192 + 4 * w.idx)) s

/-- R305: the range of `dwb` and `iinv`, or its fault; a length of 0 does nothing. -/
def codeRange (s : State) (d a : BitVec 7) (body : List (Nat × Nat) → State) : State :=
  let lo := (s.readS d).toNat
  let n := (s.readS a).toNat % 2 ^ 32
  s.checked .scalar [(n != 0 && lo + n > 2 ^ 48, ⟨cTRANSLATION, 5, s.readS d⟩)] <|
    body (if n = 0 then [] else s.runsOf s.warp.pcn (n / 4096 + 2) lo (lo + n))

end State

/-- `dwb` (R305). -/
def execDwb (d a : BitVec 7) (s : State) : Out :=
  .next (s.codeRange d a fun runs =>
    (if (s.readS a).toNat % 2 ^ 32 = 0 then s else s.drain.writeBackRuns s.warp.pcn runs).retire)
/-- `iinv` (R305): every core's instruction cache. -/
def execIinv (d a : BitVec 7) (s : State) : Out :=
  .next (s.codeRange d a fun runs =>
    ({ s with cores := s.cores.map fun (c : Core) => { c with icache := c.icache.filter fun e => !State.inRuns runs e.1 } } : State).retire)
/-- `fetchb` (R307): no word is fetched before its turn. -/
def execFetchb (s : State) : Out := .next s.retire

end Sys2Proof.Machine
end

