-- ==== Sys2Proof/Machine/Links.lean ====
section
/-!
DEFINITION. The sending side of the fabric's links (R387, R388): ports, replay buffers, paths, and what one module sends another.
-/

namespace Sys2Proof.Machine

namespace State

/-! ## Ports -/

/-- A port; one nothing has happened to runs on its 8 lanes. -/
def port (s : State) (id : Nat) : Port :=
  (s.fabric.ports.find? fun p => p.id == id).getD
    { id := id, sparedLane := none, lanes := 8, down := false, retraining := false, nextSeq := 0, lastAck := 0, replays := [],
      delivered := [], sendSeq := 0, buffer := [], waiting := [] }

/-- A port replaced. -/
def setPort (s : State) (p : Port) : State :=
  { s with fabric := { s.fabric with ports := replaceWhere (fun x => x.id == p.id) p s.fabric.ports } }

/-! ## Paths (R388) -/

/-- The ports by which paths to a module begin, in the order they are tried: at least two different ones of the sixteen (R388). -/
def routes (peer : Nat) : List Nat :=
  let first := Config.firstPath peer % 16
  first :: (first + 1 + Config.secondPath peer % 15) % 16 :: (Config.otherPaths peer).map (· % 16)

/-- The port of the first path to a module whose link is not down. -/
def pathTo (s : State) (peer : Nat) : Option Nat := (routes peer).find? fun p => !(s.port p).down

/-- R388, R393: whether a module is lost: recorded as lost, or unreachable. -/
def isLost (s : State) (peer : Nat) : Bool := s.fabric.lost.contains peer || (s.pathTo peer).isNone

/-! ## Sending (R387) -/

end State

/-- The bytes of data in what is said. -/
def Message.data : Message → Nat
  | .row _ bytes _ => bytes.length
  | .rowCopy _ _ _ bytes _ => bytes.length
  | .rowLog _ _ _ log => 20 * log.length
  | .region a => a.cells.foldl (fun n x => n + x.2.length) 0
  | .rowRead .. | .rowAdd .. | .added .. | .restore _ | .restored _ | .forget _ => 0

/-- The flits a message takes: one for each 224 bytes of its data, and at least one. How a payload holds a message is not stated
(DESIGN CHOICE, log 98). -/
def Message.parts (m : Message) : Nat := max 1 ((m.data + 223) / 224)

/-- KIND of what a flit says. -/
def Message.kind : Message → Nat
  | .rowRead .. | .rowAdd .. => 1
  | .row .. | .added .. => 2
  | .rowCopy .. | .rowLog .. | .restore _ | .restored _ | .forget _ | .region _ => 3

namespace State

/-- A flit put on a port's link, and kept in its replay buffer until it is acknowledged; while the buffer is full or the port stalls it
waits. -/
def transmit (s : State) (id : Nat) (f : Flit) : State :=
  let p := s.port id
  if p.retraining || 512 ≤ p.buffer.length || !p.waiting.isEmpty then s.setPort { p with waiting := p.waiting ++ [f] }
  else
    let t := s.setPort { p with buffer := p.buffer ++ [f] }
    { t with fabric := { t.fabric with sent := t.fabric.sent ++ [(id, f)] } }

/-- R387: a flit to a module by a port that this module composes: its part of a message, with the number it had first, if it was sent by
another path before (R388). It takes the next number of the port's order. -/
def compose (s : State) (id peer : Nat) (m : Message) (part : Nat) (first : Option Word) : State :=
  let p := s.port id
  let first := first.getD p.sendSeq
  let payload := Config.flitPayload peer first.toNat part
  let head := BitVec.ofNat 128 (m.kind + 2 ^ 16 * Config.moduleNumber + 2 ^ 32 * peer + 2 ^ 64 * p.sendSeq.toNat
    + 2 ^ 96 * (p.nextSeq - 1).toNat)
  (s.setPort { p with sendSeq := p.sendSeq + 1 }).transmit id
    { seq := p.sendSeq, ack := p.nextSeq - 1, dest := peer, src := Config.moduleNumber, kind := m.kind, payload := payload,
      check := Config.flitCheck (payload ++ head), text := m, part := part, first := first }

/-- What this module sends to another, by the first path that is left; there is none to a module that is unreachable. -/
def send (s : State) (peer : Nat) (m : Message) : State :=
  match s.pathTo peer with
  | none => s
  | some id => (range 0 m.parts).foldl (fun s part => s.compose id peer m part none) s

/-- Flits that wait put on a port's link, as its buffer has room. -/
def sendWaiting (s : State) (id : Nat) : State :=
  let p := s.port id
  if p.retraining || p.down then s
  else
    let now := p.waiting.take (512 - p.buffer.length)
    let t := s.setPort { p with buffer := p.buffer ++ now, waiting := p.waiting.drop now.length }
    { t with fabric := { t.fabric with sent := t.fabric.sent ++ now.map fun f => (id, f) } }

/-- R387: an ACK: the flits up to a number have arrived, and leave the replay buffer. -/
def acknowledged (s : State) (id : Nat) (ack : Word) : State :=
  let p := s.port id
  (s.setPort { p with lastAck := ack, buffer := p.buffer.filter fun f => 2 ^ 31 ≤ (ack - f.seq).toNat }).sendWaiting id

/-- R387: a flit whose CHECK failed at the peer is sent again from the replay buffer, and after it those that follow it in SEQ order. -/
def resend (s : State) (id : Nat) (seq : Word) : State :=
  { s with fabric := { s.fabric with sent := s.fabric.sent
      ++ ((s.port id).buffer.dropWhile fun f => f.seq != seq).map fun f => (id, f) } }

/-- R388: the unacknowledged flits of a port sent again after a stall. -/
def replayBuffer (s : State) (id : Nat) : State :=
  let t : State := { s with fabric := { s.fabric with sent := s.fabric.sent ++ (s.port id).buffer.map fun f => (id, f) } }
  t.sendWaiting id

/-- R388: what a link that is down had not delivered moves to the next paths. A flit takes the next number of its new port's order, so that
it is acknowledged and replayed there, and carries its original number, by which the destination knows it (DEDUCED, log 79). -/
def reroute (s : State) (id : Nat) : State :=
  let p := s.port id
  (p.buffer ++ p.waiting).foldl (fun s f => match s.pathTo f.dest with
    | none => s
    | some q => s.compose q f.dest f.text f.part (some f.first)) (s.setPort { p with buffer := [], waiting := [] })

end State

end Sys2Proof.Machine
end

