-- ==== Sys2Proof/Machine/Hawkmoth.lean ====
section
/-!
DEFINITION. Hawkmoth (R235-R252): arrival words, copies, batches, waiting on arrivals and on words, streams and queues. A copy moves
its data one destination sector at a time, each a step of its own.
-/

namespace Sys2Proof.Machine

namespace State

/-! ## Arrival words (R235-R237) -/

/-- Words of a core's SRAM marked poisoned. -/
def poisonScratch (s : State) (pcn a n : Nat) : State :=
  s.modifyCore pcn fun c => { c with sramPoison := (c.sramPoison ++ range (a / 4) ((a + n - 1) / 4 + 1 - a / 4)).eraseDups }

/-- Whether a word of a core's SRAM holds poison. -/
def sramPoisoned (s : State) (pcn a n : Nat) : Bool := (range a n).any fun x => (s.core pcn).sramPoison.contains (x / 4)

/-- R236: an update that Hawkmoth makes: from the stored bits when the word is poisoned, the poison staying, logged. -/
def hawkUpdate (s : State) (pcn a n : Nat) (f : List Byte → List Byte) : State :=
  let bad := s.sramPoisoned pcn a n
  let s := s.sramWrite pcn (cellsFrom a (f ((s.core pcn).sram.read a n)))
  if bad then (s.poisonScratch pcn a n).report 0x236 [pcn, a] else s

end State

/-- R236: an arrival of b bytes (b = 0 when `armw` sets the target) on the 16 bytes of an arrival word. -/
def arrivalWord (bs : List Byte) (target : Option Nat) (b : Nat) : List Byte :=
  let t := target.getD (ofBytes (bs.take 6))
  let c := ofBytes ((bs.drop 6).take 6) + b
  let beyond := c > 2 ^ 48 - 1
  let c := if beyond then 2 ^ 48 - 1 else c
  let g := ofBytes ((bs.drop 12).take 2)
  let flags := ofBytes ((bs.drop 14).take 2)
  let g := if t = 0 then g else (g + c / t) % 65536
  let c := if t = 0 then c else c % t
  bytesOf 6 t ++ bytesOf 6 c ++ bytesOf 2 g ++ bytesOf 2 (if beyond && flags % 2 == 0 then flags + 1 else flags)

/-- R237: whether a generation has been reached. -/
def reached (instar g : Nat) : Bool := (instar + 65536 - g) % 65536 < 32768

namespace State

/-- R236: an arrival at a scratchpad. -/
def arrive (s : State) (at_ : Nat × Nat) (b : Nat) : State := s.hawkUpdate at_.1 at_.2 16 fun bs => arrivalWord bs none b

/-- R241: a drop counted, saturating. -/
def countDrop (s : State) (dv : Option (Nat × Nat)) : State :=
  match dv with
  | none => s
  | some p => s.hawkUpdate p.1 p.2 4 fun bs => bytesOf 4 (min (2 ^ 32 - 1) (ofBytes bs + 1))

/-! ## What Hawkmoth reads -/

/-- A byte of a launch's constant space at its home and whether it is poisoned (R18, R357). -/
def constHome (s : State) (launch off : Nat) : Byte × Bool :=
  (s.launch? launch).elim (Config.lostByte off, false) fun l => (s.constByte l off, s.constBad l off)

/-- The homes of bytes of a launch's constant space visited. -/
def visitConst (s : State) (launch off n : Nat) : State :=
  (s.launch? launch).elim s fun l => s.visitHomes ((range off n).filterMap (constPlace l))

/-! ## Checks of a copy (R238, R239) -/

end State

/-- The operands of a copy (R238). -/
structure CopyArgs where
  op : CopyOp
  areg : ArrayReg
  count : Nat
  /-- first element of an `acopy` -/
  first : Int
  side : Nat
  list : Nat
  aw : Option Nat
  dv : Option Nat
  /-- AWADDR and DVADDR as the control word holds them -/
  awaddr : Nat
  dvaddr : Nat
deriving DecidableEq, Repr

/-- Whether the copy is an `acopy`. -/
def CopyArgs.plain (c : CopyArgs) : Bool := c.op == .copyIn || c.op == .copyOut
/-- Whether it writes memory (R193). -/
def CopyArgs.stores (c : CopyArgs) : Bool := c.op == .copyOut || c.op == .scatterAdd
/-- Element or row size. -/
def CopyArgs.size (c : CopyArgs) : Nat := sizeOf c.areg.esize.toNat
/-- Whether the array register names a pool table (R389). -/
def ArrayReg.pooled (a : ArrayReg) : Bool := 5 ≤ a.esize.toNat
/-- The global address of its first element, for an `acopy`. -/
def CopyArgs.start (c : CopyArgs) : Int := c.areg.base.toNat + c.first * c.size

/-- R239 check 3: the scratchpad addresses of the operands, each with its alignment; DVADDR and AWADDR whatever DV and AW are. -/
def CopyArgs.alignments (c : CopyArgs) : List (Nat × Nat) :=
  (c.side, min c.size 16) :: (if c.plain then [] else [(c.list, 4)]) ++ [(c.dvaddr, 4), (c.awaddr, 16)]

/-- R239 check 4: the scratchpad ranges named. -/
def CopyArgs.ranges (c : CopyArgs) : List (Nat × Nat) :=
  if c.count = 0 then []
  else (c.side, c.count * c.size) :: (if c.plain then [] else [(c.list, 4 * c.count)]) ++ c.dv.toList.map (fun a => (a, 4))
    ++ c.aw.toList.map (fun a => (a, 16))

/-- The fault of the lowest address. -/
def lowest (l : List Trouble) : Option Trouble :=
  l.foldl (fun (m : Option Trouble) t => match m with
    | none => some t
    | some x => if t.addr.toNat < x.addr.toNat then some t else some x) none

namespace State

/-- The operands of a copy, from its register triple. -/
def copyArgs (s : State) (op : CopyOp) (k : BitVec 4) (a : BitVec 7) : CopyArgs :=
  let c := s.readS (a + 2)
  { op := op, areg := s.readA k, count := (c.extractLsb' 0 18).toNat, first := (s.readS a).toInt, side := (s.readS (a + 1)).toNat,
    list := (s.readS a).toNat, aw := if c.getLsbD 18 then some (c.extractLsb' 19 22).toNat else none,
    dv := if c.getLsbD 41 then some (c.extractLsb' 42 22).toNat else none, awaddr := (c.extractLsb' 19 22).toNat,
    dvaddr := (c.extractLsb' 42 22).toNat }

/-- R17, R239: a scratchpad range's place, or the fault at its lowest byte outside. -/
def scratchRange (s : State) (addr n : Nat) : Except Trouble (Nat × Nat) :=
  match s.scratchPlace addr n with
  | .ok p => .ok p
  | .error 1 => .error ⟨cSCRATCH, 1, BitVec.ofNat 64 addr⟩
  | .error d =>
    -- the first byte of the range that has no place alone
    match s.scratchPlace addr 1 with
    | .error _ => .error ⟨cSCRATCH, d, BitVec.ofNat 64 addr⟩
    | .ok _ =>
      let window := (s.blockOn? (if addr / 2 ^ 21 = 1 then s.warp.pcn else s.warp.pcn / 4 * 4 + addr / 2 ^ 19 % 4)).elim 0
        fun b => b.scratch * 32768
      .error ⟨cSCRATCH, d, BitVec.ofNat 64 (addr - addr % 2 ^ 19 + window)⟩

/-- R335, R239 check 7: the first address of a range that no lease range of a launch holds. `fuel`: one more than the ranges. -/
def firstUnleased (ranges : List (Nat × Nat)) : Nat → Nat → Nat → Option Nat
  | 0, va, stop => if va < stop then some va else none
  | fuel + 1, va, stop =>
    if stop ≤ va then none
    else match ranges.find? fun r => r.1 ≤ va / 4096 && va / 4096 < r.1 + r.2 with
      | none => some va
      | some r => firstUnleased ranges fuel ((r.1 + r.2) * 4096) stop

/-- Whether a launch's lease ranges hold a range of bytes; if not, the lowest address outside. -/
def unleased (s : State) (va n : Nat) : Option Nat :=
  (s.launch? s.warp.launch).elim (some va) fun l => firstUnleased l.lease (l.lease.length + 1) va (va + n)

/-- A piece put before pieces that may go on where it ends. -/
def joinPiece (x : Piece) : List Piece → List Piece
  | [] => [x]
  | y :: ys =>
    if x.pa + x.len = y.pa ∧ x.key = y.key ∧ x.unc = y.unc then { x with len := x.len + y.len } :: ys else x :: y :: ys

/-- R239 check 8: the physical pieces of a global range, or the fault at its lowest address. `fuel` leaves at most. -/
def piecesOf (s : State) (kind : Access) : Nat → Nat → Nat → Nat → Except Trouble (List Piece)
  | 0, _, _, _ => .ok []
  | fuel + 1, off, va, stop =>
    if stop ≤ va then .ok []
    else match s.translate s.warp.pcn kind va, s.leafFor s.warp.pcn va with
      | .ok p, .ok (level, _) =>
        let n := min (stop - va) (2 ^ leafBits level - va % 2 ^ leafBits level)
        (match s.piecesOf kind fuel (off + n) (va + n) stop with
        | .ok rest => .ok (joinPiece ⟨off, p.pa, n, p.key, p.unc⟩ rest)
        | .error t => .error t)
      | .error t, _ => .error t
      | .ok _, .error level => .error ⟨cTRANSLATION, level, BitVec.ofNat 64 va⟩

/-- R353, R354: the leaves of a global range found, by walks where the TLBs lack them, and kept there. `fuel` leaves at most. -/
def reachRange (s : State) : Nat → Nat → Nat → State
  | 0, _, _ => s
  | fuel + 1, va, stop =>
    if stop ≤ va then s
    else
      let s := s.cacheLeaf s.warp.pcn va
      match s.leafFor s.warp.pcn va with
      | .ok (level, _) => s.reachRange fuel (va + min (stop - va) (2 ^ leafBits level - va % 2 ^ leafBits level)) stop
      | .error _ => s

/-- The pool table an array register names, in this module's directory (R389). -/
def poolTable? (s : State) (a : ArrayReg) : Option PoolTable :=
  if a.base.toNat = 0 then none else s.fabric.tables.find? fun t => t.id == a.base.toNat

/-- R390: the fault of a copy through a pool table. -/
def poolTrouble (s : State) (c : CopyArgs) : Option Trouble :=
  let lease := fun (d : Nat) => some (⟨cLEASE, d, c.areg.base.setWidth 64⟩ : Trouble)
  match s.poolTable? c.areg with
  | none => lease 0
  | some t =>
    match t.grants.find? fun g => g.1 == s.warp.rid with
    | none => lease 0
    | some g =>
      if t.rowSize ≠ c.size then lease 1
      else if (c.op == .gather && !g.2.1) || (c.op == .scatterAdd && !g.2.2) then lease 2
      else none

/-- R239 checks 1-4. -/
def copyFirst (s : State) (c : CopyArgs) : Option Trouble :=
  if (c.plain && (c.dv.isSome || c.dvaddr != 0)) || (c.aw.isSome && c.stores) then some malformedForm
  else if (c.plain && c.areg.pooled)
      || (c.op == .scatterAdd && (c.areg.esize.toNat ≤ 1 || !(s.et == 0 || s.et == 1 || s.et == 6) || (s.et == 6 && 5 ≤ s.rm))) then
    some inMode
  else match lowest (c.alignments.filterMap fun x =>
      if x.1 % x.2 != 0 then some ⟨cMISALIGN, x.2, BitVec.ofNat 64 x.1⟩ else none) with
    | some t => some t
    | none => lowest (c.ranges.filterMap fun x => match s.scratchRange x.1 x.2 with | .error t => some t | .ok _ => none)

/-- R239 check 5: whether an `acopy` leaves its array, and the fault of that. -/
def copyBounds (c : CopyArgs) : Option Trouble :=
  let at_ := fun (e : Int) => BitVec.ofInt 64 (c.areg.base.toNat + e * c.size)
  if !c.plain then none
  else if c.first < 0 then some ⟨cBOUNDS, 0, at_ c.first⟩
  else if c.first + c.count > c.areg.extent.toNat then some ⟨cBOUNDS, 1, at_ (max c.first c.areg.extent.toNat)⟩
  else none

/-- R239 checks 6-8 of a copy that is not suppressed: its pieces, or its fault. -/
def copyGlobal (s : State) (c : CopyArgs) : Except Trouble (List Piece) :=
  let n := if c.plain then c.count * c.size else c.areg.extent.toNat * c.size
  let va := if c.plain then c.start.toNat else c.areg.base.toNat
  if c.stores && (c.areg.ro || c.areg.isConst) then .error ⟨cPERMISSION, 0, BitVec.ofNat 64 va⟩
  else if c.areg.pooled then (match s.poolTrouble c with | some t => .error t | none => .ok [])
  else if c.areg.isConst then .ok (if c.plain then [⟨0, va, n, 0, false⟩] else [])
  else match s.unleased va n with
    | some a => .error ⟨cLEASE, 0, BitVec.ofNat 64 a⟩
    | none =>
      if c.plain then s.piecesOf (if c.stores then .write else .read) (n / 4096 + 2) 0 va (va + n) else .ok []

/-- R239 check 8: the leaves that a copy which has passed its checks took from the tables. -/
def reachCopy (s : State) (c : CopyArgs) : State :=
  let n := c.count * c.size
  if !c.plain || c.areg.pooled || c.areg.isConst then s else s.reachRange (n / 4096 + 2) c.start.toNat (c.start.toNat + n)

/-! ## Issue (R239, R242) -/

/-- The offsets at which destination sectors begin in n bytes of which the first lies at `phase`. -/
def sectorStarts (phase n : Nat) : List Nat :=
  if n = 0 then [] else (range (phase / 48) ((phase + n - 1) / 48 + 1 - phase / 48)).map fun k => max (48 * k) phase - phase

/-- R239: a copy that has passed its checks takes a slot, retires and joins the open batch. -/
def grantCopy (s : State) (k : BitVec 4) (c : CopyArgs) (pieces : List Piece) (suppressed : Bool) : State :=
  let place := fun (a n : Nat) => match s.scratchRange a n with | .ok p => p | .error _ => (s.warp.pcn, 0)
  let n := c.count * c.size
  let woff := c.side % 2 ^ 19
  let todo := if c.count = 0 then []
    else match c.op with
      | .copyOut => if suppressed then [] else pieces.flatMap fun p => (sectorStarts p.pa p.len).map (· + p.off)
      | .scatterAdd => range 0 (n / 4)
      | _ => sectorStarts woff n
  let version := if c.areg.pooled then (s.poolTable? c.areg).map fun t => (t.id, t.current) else none
  let core := s.myCore
  let copy : Copy :=
    { id := core.nextCopy, cw := s.warp.cw, launch := s.warp.launch, op := c.op, areg := c.areg, count := c.count,
      side := place c.side n, woff := woff, list := if c.plain then (0, 0) else place c.list (4 * c.count),
      aw := if c.count = 0 then none else c.aw.map fun a => place a 16,
      dv := if c.count = 0 then none else c.dv.map fun a => place a 4,
      mode := s.warp.mode, suppressed := suppressed, batch := none, version := version, pieces := pieces, indices := none,
      todo := todo, arrivals := [], rows := [], badWords := [], asked := [] }
  let s := s.setCore { core with copies := core.copies ++ [copy], nextCopy := core.nextCopy + 1 }
  (s.retireAccess k (if suppressed then 1 else 0)).retire

/-- R239: a copy executes: its checks, then its slot, for which it waits. The warp's stores have performed (R317). -/
def tryCopy (s : State) (op : CopyOp) (k : BitVec 4) (a : BitVec 7) : State :=
  let s := s.drain
  let c := s.copyArgs op k a
  let site : Site := { areg := k.setWidth 8, writes := c.stores }
  let go := fun (s : State) (pieces : List Piece) (suppressed : Bool) =>
    if 64 ≤ s.myCore.copies.length then s.await (.copySlot op k a) else s.grantCopy k c pieces suppressed
  match s.copyFirst c with
  | some t => s.fault site t
  | none =>
    match copyBounds c with
    | some t => if c.areg.suppresses then go s [] true else s.fault site t
    | none =>
      match s.copyGlobal c with
      | .error t => s.fault site t
      | .ok pieces => go (s.reachCopy c) pieces false

end State

/-- `acopy.in` (R238-R241). -/
def execAcopyIn (d : BitVec 4) (a : BitVec 7) (s : State) : Out := .next (s.tryCopy .copyIn d a)
/-- `acopy.out` (R238-R241). -/
def execAcopyOut (d : BitVec 4) (a : BitVec 7) (s : State) : Out := .next (s.tryCopy .copyOut d a)
/-- `agather` (R238-R241). -/
def execAgather (d : BitVec 4) (a : BitVec 7) (s : State) : Out := .next (s.tryCopy .gather d a)
/-- `ascadd` (R238-R241). -/
def execAscadd (d : BitVec 4) (a : BitVec 7) (s : State) : Out := .next (s.tryCopy .scatterAdd d a)

/-! ## Moving the data (R240, R241) -/

/-- Row or element size of a copy. -/
def Copy.size (c : Copy) : Nat := sizeOf c.areg.esize.toNat

/-- The bytes of the destination sector that begins at an offset of the copy. -/
def Copy.chunk (c : Copy) (o : Nat) : Nat :=
  match c.op with
  | .copyOut => (c.pieces.find? fun p => p.off ≤ o && o < p.off + p.len).elim 0 fun p =>
      min (p.off + p.len - o) (48 - (p.pa + (o - p.off)) % 48)
  | .scatterAdd => 4
  | _ => min (c.count * c.size - o) (48 - (c.woff + o) % 48)

/-- The member that a row, or an element, of a copy has been asked of. -/
def Copy.askedOf (c : Copy) (m : Nat) : Option Nat := c.asked.lookup m

/-- Whether it has been asked of one. -/
def Copy.hasAsked (c : Copy) (m : Nat) : Bool := (c.askedOf m).isSome

/-- The members of whom the row at a position of a copy's index list, or elements of it, have been asked. -/
def Copy.rowAsked (c : Copy) (m : Nat) : List Nat :=
  c.asked.filterMap fun x => if (if c.op == .gather then x.1 else x.1 / (c.size / 4)) == m then some x.2 else none

/-- R241: whether an index is dropped before its row is looked for. -/
def Copy.outside (c : Copy) (idx : Int) : Bool := idx < 0 || (c.areg.extent.toNat : Int) ≤ idx

namespace State

/-- A copy in flight on a core. -/
def copy? (s : State) (pcn id : Nat) : Option Copy := (s.core pcn).copies.find? fun c => c.id == id

/-- A copy changed. -/
def modifyCopy (s : State) (pcn id : Nat) (f : Copy → Copy) : State :=
  s.modifyCore pcn fun c => { c with copies := changeWhere (fun x => x.id == id) f c.copies }

/-- R241: the index list, read whole before any row. A poisoned word of it counts as it is stored, and nothing is marked or raised for it:
the spec says what becomes of poison in a source sector of the data, and nothing of a list's (DESIGN CHOICE, log 88). -/
def readIndices (s : State) (pcn id : Nat) : State :=
  match s.copy? pcn id with
  | none => s
  | some c =>
    if c.indices.isSome || c.op == .copyIn || c.op == .copyOut then s
    else
      let l := (range 0 c.count).map fun m => (BitVec.ofNat 32 (ofBytes ((s.core c.list.1).sram.read (c.list.2 + 4 * m) 4))).toInt
      s.modifyCopy pcn id fun c => { c with indices := some l }

/-- The index of a row of a copy. -/
def indexOf (c : Copy) (m : Nat) : Int := (c.indices.getD []).getD m (-1)

/-- R241: where a row of a table in global memory lies; none where the index is dropped. -/
def rowPlace (s : State) (pcn : Nat) (c : Copy) (idx : Int) : Option Phys :=
  if c.outside idx then none
  else match s.translate pcn (if c.op == .scatterAdd then .both else .read) (c.areg.base.toNat + idx.toNat * c.size) with
    | .ok p => some p
    | .error _ => none

/-- R391: whether an index names no row of the pool table version a copy has bound. -/
def poolDropped (s : State) (c : Copy) (idx : Int) : Bool :=
  c.outside idx ||
    (match c.version with
    | none => true
    | some (t, v) =>
      match (s.fabric.tables.find? fun x => x.id == t).bind fun x => x.versions.find? fun y => y.version == v with
      | none => true
      | some y => (y.rows : Int) ≤ idx || !(y.homes.any fun h => (h.1 : Int) == idx))

/-- R241: whether a row of the constant space lies on a page that has no translation or forbids the read. -/
def constRowDropped (s : State) (pcn : Nat) (c : Copy) (idx : Int) : Bool :=
  let va := (s.launch? c.launch).elim 0 Launch.constVa + c.areg.base.toNat + idx.toNat * c.size
  match s.translate pcn .read va with
  | .ok _ => false
  | .error _ => true

/-- Whether an index of a copy is dropped. -/
def dropped (s : State) (pcn : Nat) (c : Copy) (m : Nat) : Bool :=
  let idx := indexOf c m
  if c.areg.pooled then s.poolDropped c idx
  else if c.areg.isConst then c.outside idx || s.constRowDropped pcn c idx
  else (s.rowPlace pcn c idx).isNone

/-- Part of a row as a gather returns it, and whether it is poisoned. -/
def rowBytes (s : State) (pcn : Nat) (c : Copy) (m lo n : Nat) : List Byte × Bool :=
  let idx := indexOf c m
  if s.dropped pcn c m then (List.replicate n 0, false)
  else if c.areg.pooled then (((((c.rows.lookup m).getD []).drop lo).take n),
    (range (lo / 4) ((lo + n + 3) / 4 - lo / 4)).any fun w => c.badWords.contains (m, w))
  else if c.areg.isConst then
    let bs := (range (c.areg.base.toNat + idx.toNat * c.size + lo) n).map (s.constHome c.launch)
    (bs.map Prod.fst, bs.any Prod.snd)
  else match s.rowPlace pcn c idx with
    | none => (List.replicate n 0, false)
    | some p => (s.agentRead p.key (p.pa + lo) n, (range (p.pa + lo) n).any s.agentPoison)

/-- The parts of rows in n bytes from an offset of a gather: row, first byte within it, bytes. -/
def rowParts (size o n : Nat) : List (Nat × Nat × Nat) :=
  (range (o / size) ((o + n - 1) / size + 1 - o / size)).map fun m =>
    let lo := max (m * size) o
    (m, lo - m * size, min ((m + 1) * size) (o + n) - lo)

/-- The parts of an `acopy`'s pieces in n bytes from an offset: physical address, bytes, key. -/
def pieceParts (c : Copy) (o n : Nat) : List (Nat × Nat × BitVec 6) :=
  c.pieces.filterMap fun p =>
    let lo := max p.off o
    let hi := min (p.off + p.len) (o + n)
    if lo < hi then some (p.pa + (lo - p.off), hi - lo, p.key) else none

/-- The source of a destination sector of a copy into a scratchpad, its homes visited: the bytes, and whether any is poisoned. A row of a
table is translated as it is read. -/
def copySource (s : State) (pcn : Nat) (c : Copy) (o n : Nat) : State × List Byte × Bool :=
  if c.suppressed then (s, List.replicate n 0, false)
  else if c.op == .copyIn then
    if c.areg.isConst then
      let ps := pieceParts c o n
      let s := ps.foldl (fun s p => s.visitConst c.launch p.1 p.2.1) s
      let bs := ps.flatMap fun p => (range p.1 p.2.1).map (s.constHome c.launch)
      (s, bs.map Prod.fst, bs.any Prod.snd)
    else
      let ps := pieceParts c o n
      let s := ps.foldl (fun s p => s.atHomes p.2.2 p.1 p.2.1) s
      (s, ps.flatMap fun p => s.agentRead p.2.2 p.1 p.2.1, ps.any fun p => (range p.1 p.2.1).any s.agentPoison)
  else
    let parts := rowParts c.size o n
    let s := parts.foldl (fun s r =>
      let idx := indexOf c r.1
      if c.areg.pooled || c.outside idx then s
      else if c.areg.isConst then s.visitConst c.launch (c.areg.base.toNat + idx.toNat * c.size + r.2.1) r.2.2
      else
        let s := s.cacheLeaf pcn (c.areg.base.toNat + idx.toNat * c.size)
        match s.rowPlace pcn c idx with
        | some p => s.atHomes p.key (p.pa + r.2.1) r.2.2
        | none => s) s
    let bs := parts.map fun r => s.rowBytes pcn c r.1 r.2.1 r.2.2
    (s, bs.flatMap Prod.fst, bs.any Prod.snd)

/-- Whether a copy has received a pool row whole: the row of a position in its index list. -/
def rowWhole (c : Copy) (m : Nat) : Bool := (c.rows.lookup m).any fun bs => c.size ≤ bs.length

/-- R392: whether the pool rows that a destination sector takes have been received. -/
def rowsReady (s : State) (pcn : Nat) (c : Copy) (o n : Nat) : Bool :=
  !c.areg.pooled || (rowParts c.size o n).all fun r => s.dropped pcn c r.1 || rowWhole c r.1

/-- R240: a destination sector in a scratchpad, written whole, with its poison; the arrival for it is then owed. -/
def sectorIn (s : State) (pcn : Nat) (c : Copy) (o : Nat) : State :=
  let n := c.chunk o
  if !s.rowsReady pcn c o n then s
  else
    let r := s.copySource pcn c o n
    let s := r.1.sramWrite c.side.1 (cellsFrom (c.side.2 + o) r.2.1)
    let s := if r.2.2 then s.poisonScratch c.side.1 (c.side.2 + o) n else s
    let drops := if c.op == .gather then
        ((rowParts c.size o n).filter fun p => p.2.1 == 0 && s.dropped pcn c p.1).length else 0
    let s := (List.replicate drops 0).foldl (fun s _ => s.countDrop c.dv) s
    s.modifyCopy pcn c.id fun c => { c with
      todo := c.todo.filter (· != o), arrivals := if c.aw.isSome then c.arrivals ++ [n] else c.arrivals }

/-- R240, R296, R298: a destination sector in global memory, written at its home. -/
def sectorOut (s : State) (pcn : Nat) (c : Copy) (o : Nat) : State :=
  let n := c.chunk o
  let bs := (s.core c.side.1).sram.read (c.side.2 + o) n
  let bad := s.sramPoisoned c.side.1 (c.side.2 + o) n
  let s := (pieceParts c o n).foldl (fun s p =>
    let cells := cellsFrom p.1 (bs.take p.2.1)
    let s := s.homeWrite p.2.2 (s.stampOf c.launch) (lineOf p.1) cells
    let s := if p.2.1 = 48 then s.clearPoison cells else s
    let s := if bad then s.poisonSector (sectorOf p.1) else s
    s.invalidateWords pcn (lineOf p.1) fun i => sectorOf p.1 == lineOf p.1 * 4 + i / 12) s
  s.modifyCopy pcn c.id fun c => { c with todo := c.todo.filter (· != o) }

/-- The element add of `ascadd` (R241) on 32-bit values, under the MODE of the copy. -/
def addUnder (mode : DWord) (old x : Nat) : Nat × BitVec 8 :=
  if (mode.extractLsb' 3 4).toNat = 6 then
    AtomicOp.addf.apply 32 (mode.extractLsb' 7 3).toNat (mode.getLsbD 11) old x 0
  else AtomicOp.add.apply 32 0 false old x 0

/-- R241: one element of an `ascadd` into a table in global memory added at its home. Its sector's owned words go home first, so that
the issuing core's L1 can give the sector up (R240). A poisoned destination word is added to as its bits stand, and stays poisoned
(the spec says what a warp's atomic does there, and nothing of Hawkmoth's: DESIGN CHOICE, log 65). -/
def elementAdd (s : State) (pcn : Nat) (c : Copy) (o : Nat) : State :=
  let per := c.size / 4
  let m := o / per
  let src := c.side.2 + 4 * o
  let idx := indexOf c m
  let s := if c.outside idx then s else s.cacheLeaf pcn (c.areg.base.toNat + idx.toNat * c.size)
  let s := match s.rowPlace pcn c idx with
    | none => if o % per = 0 then s.countDrop c.dv else s
    | some p =>
      let x := ofBytes ((s.core c.side.1).sram.read src 4)
      let at_ : Phys := { p with pa := p.pa + 4 * (o % per) }
      let sec := sectorOf at_.pa
      let s := if (range (48 * sec) 48).any fun a => (s.ownerOf a).isSome then s.recallLine (lineOf at_.pa) else s
      let t := (s.updateAt pcn c.launch at_ 4 fun old => addUnder c.mode old x).1
      let t := t.invalidateWords pcn (lineOf at_.pa) fun i => lineOf at_.pa * 4 + i / 12 == sec
      if s.sramPoisoned c.side.1 src 4 then t.poisonSector (sectorOf at_.pa) else t
  s.modifyCopy pcn c.id fun c => { c with todo := c.todo.filter (· != o) }

/-- R391: one element of an `ascadd` through a pool table whose index is dropped. -/
def elementDropped (s : State) (pcn : Nat) (c : Copy) (o : Nat) : State :=
  let per := c.size / 4
  if s.dropped pcn c (o / per) then
    (if o % per = 0 then s.countDrop c.dv else s).modifyCopy pcn c.id fun c => { c with todo := c.todo.filter (· != o) }
  else s

/-- COPY_SECTOR_WRITE (R240): one destination sector, or one element of an `ascadd`. -/
def sectorWrite (s : State) (pcn id o : Nat) : State :=
  let s := s.readIndices pcn id
  match s.copy? pcn id with
  | none => s
  | some c =>
    if !c.todo.contains o then s
    else match c.op with
      | .copyOut => s.sectorOut pcn c o
      | .scatterAdd => if c.areg.pooled then s.elementDropped pcn c o else s.elementAdd pcn c o
      | _ => s.sectorIn pcn c o

/-- ARRIVAL (R236): the oldest arrival a copy owes is made: arrivals are made in the order the sectors were written, one of the orders
that R279 allows (DESIGN CHOICE, log 66). -/
def copyArrival (s : State) (pcn id : Nat) : State :=
  match s.copy? pcn id with
  | none => s
  | some c =>
    match c.arrivals, c.aw with
    | b :: rest, some p => (s.arrive p b).modifyCopy pcn id fun c => { c with arrivals := rest }
    | _, _ => s

/-- COPY_COMPLETE (R240, R242): a copy with nothing left to do gives up its slot; its batch is complete when it was the last. -/
def copyComplete (s : State) (pcn id : Nat) : State :=
  match s.copy? pcn id with
  | none => s
  | some c =>
    if c.todo.isEmpty && c.arrivals.isEmpty then
      s.modifyCore pcn fun k => { k with copies := k.copies.filter fun x => x.id != id }
    else s

/-! ## Pool rows (R392) -/

/-- The home of a row of a table version, by this module's directory. -/
def rowHome (s : State) (t v row : Nat) : Option Nat :=
  ((s.fabric.tables.find? fun x => x.id == t).bind fun x => x.versions.find? fun y => y.version == v).bind fun y =>
    y.homes.lookup row

/-- A pool table changed. -/
def modifyTable (s : State) (t : Nat) (f : PoolTable → PoolTable) : State :=
  { s with fabric := { s.fabric with tables := changeWhere (fun x => x.id == t) f s.fabric.tables } }

end State

/-- The bytes of a row that this module holds; zeros before any were put there. -/
def PoolTable.rowData (t : PoolTable) (v row : Nat) : List Byte :=
  ((t.data.find? fun d => d.1 == v && d.2.1 == row).map fun d => d.2.2).getD (List.replicate t.rowSize 0)

/-- A row's bytes replaced. -/
def PoolTable.setRow (t : PoolTable) (v row : Nat) (bs : List Byte) : PoolTable :=
  { t with data := replaceWhere (fun d => d.1 == v && d.2.1 == row) (v, row, bs) t.data }

namespace State

/-- R392: the bytes of a row at its home here. -/
def poolRow (s : State) (t v row : Nat) : List Byte :=
  (s.fabric.tables.find? fun x => x.id == t).elim [] fun x => x.rowData v row

/-- R240: the poisoned words of a row at its home here. -/
def poolBad (s : State) (t v row : Nat) : List Nat :=
  (s.fabric.tables.find? fun x => x.id == t).elim [] fun x => (x.bad.filter fun b => b.1 == v && b.2.1 == row).map fun b => b.2.2

/-- R392, R394: one element add applied at a row's home here: its pre-image first recorded for a journaled launch of the member that
adds, the add logged while the row is being moved. An add read with poison poisons the 48 bytes of the row that hold its element
(R240; how a row's sectors are aligned is not stated: DESIGN CHOICE, log 75). -/
def poolAdd (s : State) (member : Nat) (stamp : BitVec 6) (t v row : Nat) (a : LoggedAdd) : State :=
  s.modifyTable t fun p =>
    let bs := p.rowData v row
    let old := ofBytes ((bs.drop (4 * a.elem)).take 4)
    let new := bs.take (4 * a.elem) ++ bytesOf 4 (addUnder a.mode old a.value.toNat).1 ++ bs.drop (4 * a.elem + 4)
    let p := if stamp = 0 ∨ p.journal.any (fun j => j.member == member && j.stamp == stamp && j.version == v && j.row == row) then p
      else { p with journal := ⟨member, stamp, v, row, bs, (p.bad.filter fun b => b.1 == v && b.2.1 == row).map fun b => b.2.2⟩ :: p.journal }
    let p := p.setRow v row new
    let p := if a.bad then { p with bad := p.bad ++ ((range (a.elem / 12 * 12) 12).filter (4 * · < p.rowSize)).map fun w => (v, row, w) } else p
    { p with moving := p.moving.map fun m => if m.version = v ∧ m.row = row then { m with log := m.log ++ [a] } else m }

/-- R393: the word that takes the place of what a lost peer has not sent. -/
def lostWord : Nat := 0x7FC10BAD

/-- A row of which a lost peer sent the first bytes (whole words of them count). -/
def lostRow (size : Nat) (got : List Byte) : List Byte :=
  let have_ := got.take (min got.length size / 4 * 4)
  (have_ ++ (List.replicate (size / 4) (bytesOf 4 lostWord)).flatten.drop have_.length).take size

/-- R393: the request for the row at a position of a copy's index list, whose home, or the member it was asked of, is lost, ends: the words
not received are replaced, adds to the row end, the row is counted once, and REMOTE is logged and sent to the host and to Luna. -/
def endLostRow (s : State) (pcn id m : Nat) : State :=
  match s.copy? pcn id with
  | none => s
  | some c =>
    let idx := indexOf c m
    let peer := ((c.rowAsked m).find? s.isLost).getD ((c.version.bind fun v => s.rowHome v.1 v.2 idx.toNat).getD 0)
    let rid := (s.launch? c.launch).elim 0 Launch.rid
    let s := s.modifyCopy pcn id fun c => match c.op with
      | .gather => { c with rows := (m, lostRow c.size ((c.rows.lookup m).getD [])) :: c.rows.filter fun r => r.1 != m }
      | _ => { c with todo := c.todo.filter fun o => o / (c.size / 4) != m }
    ((s.countDrop c.dv).report 0x1A [rid, c.version.elim 0 Prod.fst, idx.toNat, peer]).luna (clusterOf pcn) 0x20
      (whoOf pcn c.cw) 0 0xFFFFFFFF#32 0x1A#64

/-- POOL_ROW_READ for a copy of this module: the row of a position of its index list is read where its home is here, ends at once where
its home is lost (R393), and is else asked of its home. -/
def readRow (s : State) (pcn id m : Nat) : State :=
  let s := s.readIndices pcn id
  match s.copy? pcn id with
  | none => s
  | some c =>
    match c.version with
    | none => s
    | some (t, v) =>
      if c.op != .gather || c.count ≤ m || rowWhole c m || s.dropped pcn c m then s
      else
        let row := (indexOf c m).toNat
        match s.rowHome t v row with
        | none => s
        | some h =>
          if h = Config.moduleNumber then
            s.modifyCopy pcn id fun c => { c with
              rows := (m, s.poolRow t v row) :: c.rows, badWords := c.badWords ++ (s.poolBad t v row).map fun w => (m, w) }
          else if s.isLost h then s.endLostRow pcn id m
          else if c.hasAsked m then s
          else (s.modifyCopy pcn id fun c => { c with asked := (m, h) :: c.asked }).send h
            (.rowRead Config.moduleNumber (pcn, id, m) t v row)

/-- R392: bytes of a row that its home returns, and the numbers in the row of the poisoned words among them. Nothing comes any more once the
member that was asked is lost (R393). -/
def receiveRow (s : State) (pcn id m : Nat) (bytes : List Byte) (bad : List Nat) : State :=
  match s.copy? pcn id with
  | none => s
  | some c =>
    if c.op != .gather || !c.hasAsked m || rowWhole c m || (c.askedOf m).any s.isLost then s
    else s.modifyCopy pcn id fun c => { c with
      rows := (m, (((c.rows.lookup m).getD []) ++ bytes).take c.size) :: c.rows.filter fun r => r.1 != m,
      badWords := c.badWords ++ bad.map fun w => (m, w) }

/-- R394: a home of pool rows that a launch has added to. -/
def notePoolHome (s : State) (launch home : Nat) : State :=
  s.modifyLaunch launch fun l => { l with poolHomes := if l.poolHomes.contains home then l.poolHomes else home :: l.poolHomes }

/-- POOL_ROW_ADD for a copy of this module: one element is added where the row's home is here, ends with its row where that home is lost
(R393), and is else sent to it. -/
def sendElement (s : State) (pcn id o : Nat) : State :=
  let s := s.readIndices pcn id
  match s.copy? pcn id with
  | none => s
  | some c =>
    match c.version with
    | none => s
    | some (t, v) =>
      let per := c.size / 4
      if c.op != .scatterAdd || !c.todo.contains o || s.dropped pcn c (o / per) then s
      else
        let row := (indexOf c (o / per)).toNat
        match s.rowHome t v row with
        | none => s
        | some h =>
          let src := c.side.2 + 4 * o
          let a : LoggedAdd := ⟨o % per, BitVec.ofNat 32 (ofBytes ((s.core c.side.1).sram.read src 4)), c.mode, s.sramPoisoned c.side.1 src 4⟩
          let s := s.notePoolHome c.launch h
          if c.hasAsked o then (if s.isLost h then s.endLostRow pcn id (o / per) else s)
          else if h = Config.moduleNumber then
            (s.poolAdd h (s.stampOf c.launch) t v row a).modifyCopy pcn id fun c => { c with todo := c.todo.filter (· != o) }
          else if s.isLost h then s.endLostRow pcn id (o / per)
          else (s.modifyCopy pcn id fun c => { c with asked := (o, h) :: c.asked }).send h
            (.rowAdd Config.moduleNumber (pcn, id, o) t v row a (s.stampOf c.launch))

/-- R392: a home elsewhere acknowledges an element add, and is one that the copy's launch has touched (R394); none comes once the member
that was asked is lost (R393). -/
def addAcknowledged (s : State) (pcn id o home : Nat) : State :=
  match s.copy? pcn id with
  | none => s
  | some c =>
    if c.op != .scatterAdd || !c.hasAsked o || (c.askedOf o).any s.isLost then s
    else (s.notePoolHome c.launch home).modifyCopy pcn id fun c => { c with todo := c.todo.filter (· != o) }

/-! ## Running copies to their end (R256, R264, R273, R274) -/

/-- Whether a copy waits for another module: a pool row it has asked for there (R392). -/
def awaitsPeer (s : State) (pcn : Nat) (c : Copy) : Bool :=
  c.areg.pooled &&
    (match c.version with
    | none => false
    | some (t, v) => (range 0 c.count).any fun m =>
        let away := s.rowHome t v (indexOf c m).toNat != some Config.moduleNumber
        !s.dropped pcn c m && !rowWhole c m
          && (if c.op == .gather then away else c.todo.any fun o => o / (c.size / 4) == m && (away || c.hasAsked o)))

/-- A copy run to its end, as far as this module alone can run it. -/
def finishCopy (s : State) (pcn id : Nat) : State :=
  let s := s.readIndices pcn id
  match s.copy? pcn id with
  | none => s
  | some c =>
    let local_ := fun (m : Nat) => match c.version with
      | none => false
      | some (t, v) => s.rowHome t v (indexOf c m).toNat == some Config.moduleNumber
    let s := if c.areg.pooled && c.op == .gather then
        (range 0 c.count).foldl (fun s m => if local_ m then s.readRow pcn id m else s) s else s
    let s := c.todo.foldl (fun s o =>
      let s := if c.areg.pooled && c.op == .scatterAdd && local_ (o / (c.size / 4)) then s.sendElement pcn id o else s
      s.sectorWrite pcn id o) s
    let s := (s.copy? pcn id).elim s fun c => c.arrivals.foldl (fun s _ => s.copyArrival pcn id) s
    s.copyComplete pcn id

/-- Every copy of a warp run to its end. -/
def finishCopies (s : State) (pcn cw : Nat) : State :=
  ((s.core pcn).copies.filter fun c => c.cw == cw).foldl (fun s c => s.finishCopy pcn c.id) s

/-- Whether a warp has no copy in flight. -/
def copiesDone (s : State) (pcn cw : Nat) : Bool := !((s.core pcn).copies.any fun c => c.cw == cw)

/-! ## Batches (R242, R243) -/

/-- Whether some copy of the current warp, in a batch with a property, is not complete. -/
def batchOpen (s : State) (p : Option Word → Bool) : Bool := s.myCore.copies.any fun c => c.cw == s.warp.cw && p c.batch

/-- The numbers of the current warp's sealed batches that are not complete. -/
def openBatches (s : State) : List Word :=
  ((s.myCore.copies.filter fun c => c.cw == s.warp.cw).filterMap Copy.batch).eraseDups

/-- `cseal` (R242). -/
def tryCseal (s : State) (d : BitVec 7) : State :=
  if s.batchOpen (· == none) && 16 ≤ s.openBatches.length then s.await (.cseal d)
  else
    let n := s.warp.lastSeal + 1
    let cw := s.warp.cw
    let s := s.modifyCore s.warp.pcn fun c => { c with
      copies := c.copies.map fun x => if x.cw = cw ∧ x.batch = none then { x with batch := some n } else x }
    (({ s with warp := { s.warp with lastSeal := n } } : State).writeS d (n.setWidth 64) .unbounded).retire

/-- `cwait` (R243) for batches at or before b. What their copies read and wrote is ordered before the warp's later events (R317), and no
SHARED word of the core is removed (R298): `distrustShared` (DEDUCED, log 71). -/
def tryCwait (s : State) (b : Word) : State :=
  if s.batchOpen fun n => match n with | some n => (b - n).toNat < 2 ^ 31 | none => false then s.await (.cwait b)
  else s.distrustShared.retire

end State

/-- `cseal` (R242). -/
def execCseal (d : BitVec 7) (s : State) : Out := .next (s.tryCseal d)
/-- `cwait` (R243): a batch ahead of the last sealed number counts as that number. -/
def execCwait (a : BitVec 7) (s : State) : Out :=
  let b := (s.readS a).setWidth 32
  .next (s.tryCwait (if 2 ^ 31 ≤ (s.warp.lastSeal - b).toNat then s.warp.lastSeal else b))

/-! ## Waiting on arrivals and words (R244-R247) -/

/-- `armw` (R244). -/
def execArmw (d a : BitVec 7) (s : State) : Out :=
  .next (match s.scratchAccess (s.readS d).toNat 16 16 with
    | .error t => s.fault .scalar t
    | .ok p =>
      let s := s.drainTo p.1
      if s.sramPoisoned p.1 p.2 16 then s.fault .scalar ⟨cUE, 0, s.readS d⟩
      else
        let cells := cellsFrom p.2 (arrivalWord ((s.core p.1).sram.read p.2 16) (some ((s.readS a).toNat % 2 ^ 48)) 0)
        ((s.dropAhead (some p.1) cells).sramWrite p.1 cells).retire)

namespace State

/-- `waitg` (R245). What is ordered before the generation's arrivals is ordered before the warp's later events (R321), and no SHARED word
of the core is removed (R298): `distrustShared` (DEDUCED, log 71). -/
def tryWaitg (s : State) (addr : Nat) (g : BitVec 16) : State :=
  s.scratchLoad addr 16 16 fun s bs =>
    if reached (ofBytes ((bs.drop 12).take 2)) g.toNat then s.distrustShared.retire else s.await (.waitg addr g)

/-- `waitw` (R246): its read is an acquire. -/
def tryWaitw (s : State) (addr : Nat) (was : Word) : State :=
  s.scratchLoad addr 4 4 fun s bs =>
    if BitVec.ofNat 32 (ofBytes bs) ≠ was then s.acquire.retire else s.await (.waitw addr was)

/-- A read of `waitw.g` (R247): the word is read at its home. -/
def readWaitwG (s : State) (va : Nat) (was : DWord) (p : Phys) : State :=
  let s := ((s.drainOver p.pa 8).cacheLeaf s.warp.pcn va).atHomes p.key p.pa 8
  if (range p.pa 8).any s.agentPoison then s.fault .scalar ⟨cUE, 0, BitVec.ofNat 64 va⟩
  else if BitVec.ofNat 64 (ofBytes (s.agentRead p.key p.pa 8)) ≠ was then s.acquire.retire
  else s.await (.waitwG va was)

/-- `waitw.g` (R247): its address is checked before the first read; no lease is checked. -/
def tryWaitwG (s : State) (va : Nat) (was : DWord) : State :=
  s.checked .scalar [(va % 8 != 0, ⟨cMISALIGN, 8, BitVec.ofNat 64 va⟩)] <|
    match s.translate s.warp.pcn .read va with
    | .error t => s.fault .scalar t
    | .ok p => s.readWaitwG va was p

/-- A later read of a `waitw.g` that waits (R247): its address is checked no more; a translation that has been removed faults. -/
def againWaitwG (s : State) (va : Nat) (was : DWord) : State :=
  match s.leafFor s.warp.pcn va with
  | .error level => s.fault .scalar ⟨cTRANSLATION, level, BitVec.ofNat 64 va⟩
  | .ok (level, e) => s.readWaitwG va was ⟨leafPa level e va, pteKey e, pteAttr e == 1⟩

end State

/-- `waitg` (R245). -/
def execWaitg (d a : BitVec 7) (s : State) : Out := .next (s.tryWaitg (s.readS d).toNat ((s.readS a).setWidth 16))
/-- `waitw` (R246). -/
def execWaitw (d a : BitVec 7) (s : State) : Out := .next (s.tryWaitw (s.readS d).toNat ((s.readS a).setWidth 32))
/-- `waitw.g` (R247). -/
def execWaitwG (d a : BitVec 7) (s : State) : Out := .next (s.tryWaitwG (s.readS d).toNat (s.readS a))

/-! ## Streams and queues (R248-R252) -/

/-- A stream program's fields (R249). -/
structure Stream where
  start : Int
  n0 : Nat
  n1 : Nat
  n2 : Nat
  st0 : Int
  st1 : Int
  st2 : Int
  scratch : Bool
  areg : BitVec 4
  ses : Nat
  sbase : Nat
  reserved : Bool
deriving DecidableEq, Repr

/-- R249: a stream program read from its 64 bytes; `reserved` when a byte that must be zero is not, or the size code is none. -/
def streamOf (bs : List Byte) : Stream :=
  let nat := fun (o n : Nat) => ofBytes ((bs.drop o).take n)
  let src := nat 32 1
  let kind := src / 16 % 2 == 1
  { start := (BitVec.ofNat 64 (nat 0 8)).toInt, n0 := nat 8 4, n1 := nat 12 4, n2 := nat 16 4,
    st0 := int32At bs 20, st1 := int32At bs 24, st2 := int32At bs 28, scratch := kind, areg := BitVec.ofNat 4 src,
    ses := nat 33 1, sbase := nat 36 4,
    reserved := (bs.drop 40).any (· != 0) || nat 34 2 != 0 || 32 ≤ src || (if kind then 5 ≤ nat 33 1 else nat 33 1 != 0 || nat 36 4 != 0) }

/-- The number of elements. -/
def Stream.total (p : Stream) : Nat := p.n0 * p.n1 * p.n2
/-- The offset of the element at a position. -/
def Stream.offset (p : Stream) (i0 i1 i2 : Nat) : Int := p.start + i2 * p.st2 + i1 * p.st1 + i0 * p.st0
/-- The least offset visited. -/
def Stream.least (p : Stream) : Int :=
  p.start + min 0 ((p.n2 - 1 : Nat) * p.st2) + min 0 ((p.n1 - 1 : Nat) * p.st1) + min 0 ((p.n0 - 1 : Nat) * p.st0)
/-- The greatest offset visited. -/
def Stream.greatest (p : Stream) : Int :=
  p.start + max 0 ((p.n2 - 1 : Nat) * p.st2) + max 0 ((p.n1 - 1 : Nat) * p.st1) + max 0 ((p.n0 - 1 : Nat) * p.st0)
/-- The element at a number in visiting order. -/
def Stream.offsetAt (p : Stream) (e : Nat) : Int := p.offset (e % p.n0) (e / p.n0 % p.n1) (e / p.n0 / p.n1)
/-- The element size. -/
def Stream.size (p : Stream) (a : ArrayReg) : Nat := if p.scratch then 2 ^ p.ses else sizeOf a.esize.toNat
/-- The number of entries. -/
def Stream.entries (p : Stream) (a : ArrayReg) : Nat := (p.total * p.size a + 127) / 128

namespace State

/-- A queue of a core. -/
def queueOf (s : State) (pcn : Nat) (q : BitVec 2) : Queue := (s.core pcn).queues.get ⟨q.toNat, q.isLt⟩

/-- A queue replaced. -/
def setQueue (s : State) (pcn : Nat) (q : BitVec 2) (x : Queue) : State :=
  s.modifyCore pcn fun c => { c with queues := c.queues.set q.toNat x q.isLt }

/-- R250 check 4: the lowest element of a scratchpad stream that lies outside the windows. -/
def streamOutside (s : State) (p : Stream) : Option Trouble :=
  lowest ((range 0 p.total).filterMap fun e =>
    let addr := (p.sbase : Int) + p.offsetAt e * (2 ^ p.ses : Nat)
    if addr < 0 then some ⟨cSCRATCH, 0, BitVec.ofInt 64 addr⟩
    else match s.scratchRange addr.toNat (2 ^ p.ses) with | .error t => some t | .ok _ => none)

/-- R250 check 8: the leaves that a stream through an array register which has passed its checks took from the tables. -/
def reachStream (s : State) (p : Stream) (a : ArrayReg) : State :=
  let size := sizeOf a.esize.toNat
  let va := a.base.toNat + p.least.toNat * size
  let n := (p.greatest - p.least + 1).toNat * size
  if a.isConst then s else s.reachRange (n / 4096 + 2) va (va + n)

/-- R250 checks 5-8 of a stream through an array register: none when it passes, with whether it is suppressed. -/
def streamGlobal (s : State) (p : Stream) (a : ArrayReg) : Except Trouble Bool :=
  let size := sizeOf a.esize.toNat
  let at_ := fun (e : Int) => BitVec.ofInt 64 (a.base.toNat + e * size)
  let lo := p.least
  let hi := p.greatest
  if lo < 0 then (if a.suppresses then .ok true else .error ⟨cBOUNDS, 0, at_ lo⟩)
  else if (a.extent.toNat : Int) ≤ hi then
    (if a.suppresses then .ok true else .error ⟨cBOUNDS, 1, at_ (max lo a.extent.toNat)⟩)
  else if a.isConst then .ok false
  else
    let va := a.base.toNat + lo.toNat * size
    let n := (hi - lo + 1).toNat * size
    match s.unleased va n with
    | some x => .error ⟨cLEASE, 0, BitVec.ofNat 64 x⟩
    | none => match s.piecesOf .read (n / 4096 + 2) 0 va (va + n) with
      | .error t => .error t
      | .ok _ => .ok false

end State

/-- `qstream` (R250). -/
def execQstream (q : BitVec 2) (a : BitVec 7) (s : State) : Out :=
  .next (let s := s.drain
    s.scratchLoad (s.readS a).toNat 64 16 fun s bs =>
      let p := streamOf bs
      let old := s.queueOf s.warp.pcn q
      let ar := if p.scratch then ArrayReg.start else s.readA p.areg
      let go := fun (s : State) (suppressed : Bool) =>
        let t := s.setQueue s.warp.pcn q { old with
          owner := some s.warp.cw, prog := bs, suppressed := suppressed, areg := ar, i0 := 0, i1 := 0, i2 := 0,
          remain := p.entries ar }
        (if p.scratch then t else t.retireAccess p.areg (if suppressed then 1 else 0)).retire
      s.checked .scalar [(p.reserved || p.total == 0 || p.total > 2 ^ 31, malformedForm),
          ((old.owner.isSome && old.owner != some s.warp.cw) || old.remain != 0 || (!p.scratch && 5 ≤ ar.esize.toNat), inMode)] <|
        if p.scratch then (match s.streamOutside p with | some t => s.fault .scalar t | none => go s false)
        else match s.streamGlobal p ar with
          | .error t => s.fault .scalar t
          | .ok suppressed => go (if suppressed then s else s.reachStream p ar) suppressed)

namespace State

/-- The bytes of one element of the stream of the current warp's queue, and whether it is poisoned. -/
def streamElement (s : State) (x : Queue) (p : Stream) (e : Nat) : List Byte × Bool :=
  let size := p.size x.areg
  if x.suppressed then (List.replicate size 0, false)
  else if p.scratch then
    match s.scratchPlace ((p.sbase : Int) + p.offsetAt e * size).toNat size with
    | .ok q => ((s.core q.1).sram.read q.2 size, s.sramPoisoned q.1 q.2 size)
    | .error _ => ((range (p.sbase + e * size) size).map Config.lostByte, false)
  else
    let off := x.areg.base.toNat + (p.offsetAt e).toNat * size
    if x.areg.isConst then
      let bs := (range off size).map (s.constHome s.warp.launch)
      (bs.map Prod.fst, bs.any Prod.snd)
    else match s.translate s.warp.pcn .read off with
      | .ok p => (s.agentRead p.key p.pa size, (range p.pa size).any s.agentPoison)
      | .error _ => ((range off size).map Config.lostByte, false)

/-- The homes of one element of the stream of the current warp's queue visited. -/
def visitElement (s : State) (x : Queue) (p : Stream) (e : Nat) : State :=
  let size := p.size x.areg
  let off := x.areg.base.toNat + (p.offsetAt e).toNat * size
  if x.suppressed || p.scratch then s
  else if x.areg.isConst then s.visitConst s.warp.launch off size
  else
    let s := s.cacheLeaf s.warp.pcn off
    match s.translate s.warp.pcn .read off with
    | .ok p => s.atHomes p.key p.pa size
    | .error _ => s

/-- QUEUE_FILL (R250): one entry of an active stream filled, when the queue has room; the current warp owns the queue. -/
def fillEntry (s : State) (q : BitVec 2) : State :=
  let x := s.queueOf s.warp.pcn q
  if x.owner != some s.warp.cw || x.remain = 0 || 16 ≤ x.entries.length then s
  else
    let p := streamOf x.prog
    let first := (x.i2 * p.n1 + x.i1) * p.n0 + x.i0
    let n := min (128 / p.size x.areg) (p.total - first)
    let s := (range first n).foldl (fun s e => s.visitElement x p e) s
    let es := (range first n).map (s.streamElement x p)
    let next := first + n
    s.setQueue s.warp.pcn q { x with
      entries := x.entries ++ [(lanesFrom (es.flatMap Prod.fst), es.any Prod.snd)],
      i0 := next % p.n0, i1 := next / p.n0 % p.n1, i2 := next / p.n0 / p.n1, remain := x.remain - 1 }

/-- `qpop` (R251) of a queue the warp owns, under a mask that is not empty. -/
def tryQpop (s : State) (d : BitVec 7) (q : BitVec 2) : State :=
  let x := s.queueOf s.warp.pcn q
  match x.entries with
  | [] => s.await (.qpop d q)
  | (v, bad) :: rest =>
    if bad then s.fault .lanes ⟨cUE, 0, 0⟩
    else
      let x := if rest.isEmpty && x.remain == 0 then Queue.empty else { x with entries := rest }
      ((s.setQueue s.warp.pcn q x).writeV d s.effMask v .unbounded).retire

end State

/-- `qpop` (R251). -/
def execQpop (d : BitVec 7) (q : BitVec 2) (s : State) : Out :=
  .next (s.checked .lanes [(s.beyondVarch [d], illegal),
      ((s.queueOf s.warp.pcn q).owner != some s.warp.cw || s.pinned d, inMode)] <|
    if s.effMask = 0 then s.retire else s.tryQpop d q)

/-- `qstat` (R252). -/
def execQstat (d : BitVec 7) (q : BitVec 2) (s : State) : Out :=
  let x := s.queueOf s.warp.pcn q
  let mine := x.owner == some s.warp.cw
  .next (s.scalarOp d (BitVec.ofNat 64 (x.remain * 2 ^ 32 + (if x.owner.isSome && !mine then 1024 else 0) + (if mine then 512 else 0)
    + (if x.remain != 0 then 256 else 0) + x.entries.length)) .unbounded)

end Sys2Proof.Machine
end

