-- ==== Sys2Proof/Machine/Matrix.lean ====
section
/-!
DEFINITION. The matrix grid (R202-R230): tiles over the vector registers, feeds, `mop`, the exact sums of R111 and R114, checksums,
rotated duplicates, and the transfers of whole tiles.
-/

namespace Sys2Proof.Machine

/-! ## Feeds (R107, R109, R209) -/

/-- The k of a feed format (R11); none for a reserved code. -/
def formatK (f : Nat) : Option Nat := if f = 0 then some 4 else if f ≤ 3 then some 2 else if f ≤ 5 then some 1 else none

/-- A byte of a feed image. -/
def feedByte (x : Lanes) (b : Nat) : Nat := (lane x (b / 4)).toNat / 2 ^ (8 * (b % 4)) % 256

/-- R107: the value of a block element with `mb` mantissa bits under its scale pair. -/
def blockValue (mb bits se0 se1 : Nat) : FVal :=
  let man := bits % 2 ^ mb
  let eb := if mb = 4 then 2 else 1
  let ex := bits / 2 ^ mb % 2 ^ eb
  let neg := bits / 2 ^ (mb + eb) % 2 = 1
  let se := if bits / 2 ^ (mb + eb + 1) % 2 = 1 then se1 else se0
  if se = 255 then .nan
  else if ex = 0 then .fin neg man ((se : Int) - 127 - mb)
  else .fin neg (2 ^ mb + man) ((ex : Int) - 1 + se - 127 - mb)

/-- R209: element i of block q of a feed, as the grid expands it (R98, R109). -/
def feedElem (f : Nat) (dz : Bool) (x : Lanes) (q i : Nat) : FVal :=
  let se0 := feedByte x (64 + 2 * q)
  let se1 := feedByte x (65 + 2 * q)
  if f = 0 then blockValue 1 (feedByte x (16 * q + i / 2) / (if i % 2 = 0 then 1 else 16) % 16) se0 se1
  else if f = 1 then blockValue 4 (feedByte x (32 * q + i)) se0 se1
  else if f = 2 then F8A.read dz (feedByte x (32 * q + i))
  else if f = 3 then F8B.read dz (feedByte x (32 * q + i))
  else (if f = 4 then BF16 else F16).read dz (feedByte x (2 * i) + 256 * feedByte x (2 * i + 1))

/-! ## Cells (R205, R206) -/

/-- The cells of a tile: row, column; an F32 cell in its low 32 bits. -/
abbrev Grid := Vector (Vector (BitVec 128) 32) 32

/-- A grid from a function of row and column. -/
def gridOf (f : Nat → Nat → BitVec 128) : Grid := Vector.ofFn fun i : Fin 32 => Vector.ofFn fun j : Fin 32 => f i.val j.val

/-- A cell. -/
def cell (g : Grid) (i j : Nat) : BitVec 128 :=
  (g.get ⟨i % 32, Nat.mod_lt _ (by decide)⟩).get ⟨j % 32, Nat.mod_lt _ (by decide)⟩

/-- A vector register by number. -/
def vregOf (w : Warp) (r : Nat) : Lanes := w.vreg.get ⟨r % 128, Nat.mod_lt _ (by decide)⟩

/-- R205, R206: the cells of a tile of a kind in a warp's registers. -/
def tileCells (w : Warp) (acc : Bool) (t : Nat) : Grid :=
  gridOf fun i j =>
    if acc then lane (vregOf w (4 * i + 3)) j ++ lane (vregOf w (4 * i + 2)) j ++ lane (vregOf w (4 * i + 1)) j ++ lane (vregOf w (4 * i)) j
    else (lane (vregOf w (32 * t + i)) j).setWidth 128

/-- The registers with a tile's cells replaced. -/
def putCells (w : Warp) (acc : Bool) (t : Nat) (g : Grid) : Vector Lanes 128 :=
  Vector.ofFn fun r : Fin 128 =>
    if acc then perLane fun j => (cell g (r.val / 4) j).extractLsb' (32 * (r.val % 4)) 32
    else if r.val / 32 = t then perLane fun j => (cell g r.val j).setWidth 32
    else w.vreg.get r

/-- A cell's value: a Q128 cell is an integer. -/
def cellValue (acc : Bool) (x : BitVec 128) : FVal :=
  if acc then .fin (x.toInt < 0) x.toInt.natAbs 0 else F32.decode (x.setWidth 32).toNat

/-! ## What the grid forms (R111, R114, R115) -/

/-- R111: the new value of an F32 cell from the products of its feeds, and the flags. -/
def cellF32 (rm rand : Nat) (dz : Bool) (old : Nat) (ps : List (Option FVal)) : Nat × BitVec 8 :=
  let terms := F32.read dz old :: ps.filterMap id
  if ps.any Option.isNone || (terms.any (· == .inf false) && terms.any (· == .inf true)) then (F32.nan, fNV)
  else F32.sum rm rand dz terms

/-- R114, R115: the new integer of a Q128 cell, and the flags. -/
def cellQ (qw : Int) (old : Int) (ps : List (Option FVal)) : Int × BitVec 8 :=
  let vs := ps.filterMap id
  let pos := vs.any (· == .inf false)
  let neg := vs.any (· == .inf true)
  if ps.any Option.isNone || vs.any (· == .nan) || (pos && neg) then (old, fNV)
  else if pos then (2 ^ 127 - 1, fNV ||| fQL)
  else if neg then (-(2 ^ 127), fNV ||| fQL)
  else
    let x := sumDyadics ((old, qw) :: vs.map FVal.signed)
    let n := if x.1 = 0 then 0 else if qw ≤ x.2 then x.1 * 2 ^ (x.2 - qw).toNat else x.1 / 2 ^ (qw - x.2).toNat
    let lost := x.1 != 0 && x.2 < qw && x.1 % 2 ^ (qw - x.2).toNat != 0
    if n > 2 ^ 127 - 1 then (2 ^ 127 - 1, fQL)
    else if n < -(2 ^ 127) then (-(2 ^ 127), fQL)
    else (n, if lost then fQL else 0)

/-- The feeds of a `mop` expanded: for each block q, the elements of A and of B. -/
structure Feeds where
  k : Nat
  a : List (List FVal)
  b : List (List FVal)
deriving DecidableEq, Repr

/-- Element i of block q. -/
def feedAt (l : List (List FVal)) (q i : Nat) : FVal := (l.getD q []).getD i .nan

/-- The products of a cell; `mopn` negates each. -/
def Feeds.products (f : Feeds) (negative : Bool) (i j : Nat) : List (Option FVal) :=
  (range 0 f.k).map fun q => ((feedAt f.a q i).mul (feedAt f.b q j)).map fun x => if negative then x.neg else x

namespace State

/-- R214: whether a tile field names a pinned tile under the current MODE.ACC. -/
def tilePinned (s : State) (t : BitVec 2) : Bool := s.warp.tileAcc == s.acc && s.warp.pin.getLsbD t.toNat

/-- R31, R214: whether FA and FB are no pair of formats of one k. -/
def formatsBad (s : State) : Bool := (formatK s.fa).isNone || formatK s.fa != formatK s.fb

/-- R214: the check of the effective mask. -/
def partMask (s : State) : Bool := s.effMask != 0xFFFFFFFF#32

/-- The feeds of a `mop` as the grid takes them. -/
def feeds (s : State) (a b : BitVec 1) : Feeds :=
  let k := (formatK s.fa).getD 0
  let fa := s.readF (a.setWidth 2)
  let fb := s.readF (2 + b.setWidth 2)
  { k := k, a := (range 0 k).map fun q => (range 0 32).map fun i => feedElem s.fa s.dz fa q i,
    b := (range 0 k).map fun q => (range 0 32).map fun i => feedElem s.fb s.dz fb q i }

/-- R111, R114: every cell as a fault-free grid gives it, and the flags of all. -/
def gridResult (s : State) (t : BitVec 2) (f : Feeds) (negative : Bool) : Grid × BitVec 8 :=
  let old := tileCells s.warp s.acc t.toNat
  let new := Vector.ofFn fun i : Fin 32 => Vector.ofFn fun j : Fin 32 =>
    let ps := f.products negative i.val j.val
    if s.acc then
      let r := cellQ s.qw (cell old i.val j.val).toInt ps
      (BitVec.ofInt 128 r.1, r.2)
    else
      let r := cellF32 s.rm (randAt s.draw (32 * i.val + j.val)) s.dz (cell old i.val j.val).toNat ps
      (BitVec.ofNat 128 r.1, r.2)
  (new.map fun (row : Vector (BitVec 128 × BitVec 8) 32) => row.map Prod.fst,
   new.toList.foldl (fun acc (row : Vector (BitVec 128 × BitVec 8) 32) => row.toList.foldl (fun acc x => acc ||| x.2) acc) 0)

/-! ## The physical grid (R202, R229, R230) -/

/-- The partition of the current warp (R9). -/
def myPart (s : State) : Partition := s.myCore.parts.get ⟨s.warp.cw / 8 % 4, Nat.mod_lt _ (by decide)⟩

/-- It changed. -/
def modifyPart (s : State) (f : Partition → Partition) : State :=
  s.modifyCore s.warp.pcn fun c => { c with
    parts := c.parts.set (s.warp.cw / 8 % 4) (f (c.parts.get ⟨s.warp.cw / 8 % 4, Nat.mod_lt _ (by decide)⟩))
      (Nat.mod_lt _ (by decide)) }

/-- The physical column that carries a lane; the spare is column 32 (R230). -/
def columnOf (p : Partition) (j : Nat) : Nat := if p.spare = some j then 32 else j

/-- R229: an execution at a rotation: row i runs on grid row (i + r) mod 32; a stuck multiplier flips bits of its cell. Its effect on
the vector operations that the same multipliers form (R202) is not modelled: the spec speaks of cells alone (DESIGN CHOICE, log 50). -/
def execution (p : Partition) (acc : Bool) (r : Nat) (g : Grid) : Grid :=
  if p.stuck.isEmpty then g
  else gridOf fun i j =>
    match p.stuck.find? fun x => x.column == columnOf p j && x.row == (i + r) % 32 with
    | some x => if acc then cell g i j ^^^ x.flip else (cell g i j ^^^ x.flip) &&& 0xFFFFFFFF#128
    | none => cell g i j

/-- R227, R229, R230: a fault at a physical cell logged and counted: partition, column, grid row. -/
def logGridFault (s : State) (column row : Nat) : State :=
  let s := s.report 0x229 [s.warp.pcn, s.warp.cw / 8, column, row]
  s.modifyPart fun p =>
    let n := ((p.faults.find? fun x => x.1 == column && x.2.1 == row).map fun x => x.2.2).getD 0
    { p with faults := replaceWhere (fun x => x.1 == column && x.2.1 == row) (column, row, n + 1) p.faults }

/-! ## Checksums (R225-R227) -/

end State

end Sys2Proof.Machine

namespace Sys2Proof

/-- A dyadic sum. -/
def Dyadic.add (x y : Dyadic) : Dyadic := let r := Machine.sumDyadics [(x.m, x.e), (y.m, y.e)]; ⟨r.1, if r.1 = 0 then 0 else r.2⟩
/-- A dyadic negated. -/
def Dyadic.neg (x : Dyadic) : Dyadic := ⟨-x.m, x.e⟩
/-- A dyadic product. -/
def Dyadic.mul (x y : Dyadic) : Dyadic := ⟨x.m * y.m, if x.m * y.m = 0 then 0 else x.e + y.e⟩
end Sys2Proof

namespace Sys2Proof.Machine

/-- The value of a finite number. -/
def FVal.dyadic (v : FVal) : Dyadic := ⟨v.signed.1, if v.signed.1 = 0 then 0 else v.signed.2⟩
/-- Whether a value is finite. -/
def FVal.finite : FVal → Bool
  | .fin .. => true
  | _ => false
/-- The sum of a list. -/
def dyadicSum (l : List Dyadic) : Dyadic := l.foldl Dyadic.add ⟨0, 0⟩

/-- The values of a column. -/
def columnValues (acc : Bool) (g : Grid) (j : Nat) : List FVal := (range 0 32).map fun i => cellValue acc (cell g i j)
/-- The values of a row. -/
def rowValues (acc : Bool) (g : Grid) (i : Nat) : List FVal := (range 0 32).map fun j => cellValue acc (cell g i j)

/-- R225: the checksums established from a tile's cells. -/
def establish (acc : Bool) (t : Nat) (g : Grid) : TileSum :=
  { tile := t
    cols := (range 0 32).map fun j => dyadicSum ((columnValues acc g j).map FVal.dyadic)
    rows := (range 0 32).map fun i => dyadicSum ((rowValues acc g i).map FVal.dyadic)
    exemptCols := (range 0 32).filter fun j => !(columnValues acc g j).all FVal.finite
    exemptRows := (range 0 32).filter fun i => !(rowValues acc g i).all FVal.finite
    n := 0, ql := false }

/-- R225: the checksums after a `mop`, from the feeds alone; those of tq count in units of 2^QW. -/
def TileSum.advance (c : TileSum) (f : Feeds) (negative : Bool) (scale : Int) (ql : Bool) : TileSum :=
  let sums := fun (l : List (List FVal)) => l.map fun b => dyadicSum (b.map FVal.dyadic)
  let allA := f.a.all fun b => b.all FVal.finite
  let allB := f.b.all fun b => b.all FVal.finite
  let sa := sums f.a
  let sb := sums f.b
  let sgn := fun (x : Dyadic) => if negative then Dyadic.neg ⟨x.m, x.e - scale⟩ else ⟨x.m, x.e - scale⟩
  let inc := fun (one : List Dyadic) (other : List (List FVal)) (i : Nat) =>
    sgn (dyadicSum ((range 0 f.k).map fun q => (one.getD q ⟨0, 0⟩).mul (feedAt other q i).dyadic))
  let finiteAt := fun (l : List (List FVal)) (i : Nat) => (range 0 f.k).all fun q => (feedAt l q i).finite
  { c with
    cols := (range 0 32).zipWith (fun j x => x.add (inc sa f.b j)) c.cols
    rows := (range 0 32).zipWith (fun i x => x.add (inc sb f.a i)) c.rows
    exemptCols := (range 0 32).filter fun j => c.exemptCols.contains j || !allA || !finiteAt f.b j
    exemptRows := (range 0 32).filter fun i => c.exemptRows.contains i || !allB || !finiteAt f.a i
    n := c.n + 1, ql := c.ql || ql }

/-- R226: whether a line of cells fails against its checksum. -/
def sumFails (acc : Bool) (n : Nat) (vs : List FVal) (sum : Dyadic) : Bool :=
  let d := (dyadicSum (vs.map FVal.dyadic)).add sum.neg
  if acc then d.m != 0
  else
    let e := vs.foldl (fun (e : Int) v => match v with
      | .fin _ m x => if m = 0 then e else max e ((Nat.log2 m : Int) + x)
      | _ => e) (-126)
    0 < (Dyadic.add ⟨d.m.natAbs, d.e⟩ (Dyadic.neg ⟨n + 32, e - 23⟩)).m

/-- The outcome of a compare (R226, R227). -/
inductive Compared where
  | passes
  | corrects (i j : Nat) (x : BitVec 128)
  | fails
deriving DecidableEq, Repr

/-- R226, R227: a tile compared with its checksums. -/
def compare (acc : Bool) (g : Grid) (c : TileSum) : Compared :=
  if acc && c.ql then .passes
  else
    let bad := fun (exempt : List Nat) (vs : List FVal) (sums : List Dyadic) (k : Nat) =>
      !exempt.contains k && vs.all FVal.finite && sumFails acc c.n vs (sums.getD k ⟨0, 0⟩)
    let cols := (range 0 32).filter fun j => bad c.exemptCols (columnValues acc g j) c.cols j
    let rows := (range 0 32).filter fun i => bad c.exemptRows (rowValues acc g i) c.rows i
    match rows, cols with
    | [], [] => .passes
    | [i], [j] =>
      let others := ((range 0 32).filter (· != i)).map fun r => (cellValue acc (cell g r j)).dyadic
      let x := (c.cols.getD j ⟨0, 0⟩).add (dyadicSum others).neg
      if acc then
        let whole := x.m = 0 ∨ 0 ≤ x.e ∨ x.m % 2 ^ (-x.e).toNat = 0
        let v := if x.m = 0 then 0 else if 0 ≤ x.e then x.m * 2 ^ x.e.toNat else x.m / 2 ^ (-x.e).toNat
        if whole ∧ -(2 ^ 127) ≤ v ∧ v ≤ 2 ^ 127 - 1 then .corrects i j (BitVec.ofInt 128 v) else .fails
      else .corrects i j (BitVec.ofNat 128 (F32.roundFin 0 0 false (x.m < 0) x.m.natAbs x.e false).1)
    | _, _ => .fails

namespace State

/-- The checksums of a pinned tile. -/
def sumsOf (s : State) (t : Nat) : TileSum :=
  (s.warp.sums.find? fun c => c.tile == t).getD (establish s.warp.tileAcc t (tileCells s.warp s.warp.tileAcc t))

/-- They replaced. -/
def setSums (s : State) (c : TileSum) : State :=
  { s with warp := { s.warp with sums := replaceWhere (fun x => x.tile == c.tile) c s.warp.sums } }

/-- A pinned tile's cells written in place (R207). -/
def putTile (s : State) (t : Nat) (g : Grid) : State :=
  { s with warp := { s.warp with vreg := putCells s.warp s.warp.tileAcc t g } }

/-- Cells written and the checksums established from them. -/
def loadTile (s : State) (t : Nat) (g : Grid) : State := (s.putTile t g).setSums (establish s.warp.tileAcc t g)

/-- R226-R228: a pinned tile compared: the state, corrected, logged and with fresh checksums, or none for a GRID_FAULT. -/
def compareTile (s : State) (t : Nat) : Option State :=
  let g := tileCells s.warp s.warp.tileAcc t
  match compare s.warp.tileAcc g (s.sumsOf t) with
  | .passes => some (s.setSums (establish s.warp.tileAcc t g))
  | .corrects i j x =>
    let g := gridOf fun r c => if r = i ∧ c = j then x else cell g r c
    some (((s.loadTile t g).orFlags fAC).logGridFault (columnOf s.myPart j) i)
  | .fails => none

/-- The pinned tiles, ascending. -/
def pinnedTiles (w : Warp) : List Nat := (range 0 4).filter fun k => w.pin.getLsbD k

/-- Every pinned tile compared in ascending order (R212). -/
def compareAll (s : State) : List Nat → Option State
  | [] => some s
  | t :: rest => match s.compareTile t with | none => none | some s => s.compareAll rest

/-- R213: every pinned tile compared as by `mchk`, ascending: the state after them, in which what was corrected and logged stands, and
whether none met a GRID_FAULT. -/
def compareEach (s : State) (ts : List Nat) : State × Bool :=
  ts.foldl (fun x t => match x.1.compareTile t with
    | some u => (u, x.2)
    | none => (x.1, false)) (s, true)

/-! ## `mop` (R215, R216, R229) -/

/-- What a `mop` leaves once its cells are settled: the tile, the checksums, XS, the flags. -/
def finishMop (s : State) (t : BitVec 2) (f : Feeds) (negative : Bool) (g : Grid) (flags : BitVec 8) : State :=
  let c := (s.sumsOf t.toNat).advance f negative (if s.acc then s.qw else 0) (flags &&& fQL != 0)
  let u := ((s.putTile t.toNat g).setSums c).orFlags flags
  (if s.acc then u else u.advanceXs).retire

/-- R229: the vote on a selected `mop`: the primary execution against the duplicate, and a third where they disagree. -/
def voteMop (s : State) (t : BitVec 2) (a b : BitVec 1) (negative : Bool) : State :=
  let f := s.feeds a b
  let res := s.gridResult t f negative
  let p := s.myPart
  let r := p.rotation
  let r3 := r % 31 + 1
  let e1 := execution p s.acc 0 res.1
  let e2 := execution p s.acc r res.1
  let s := s.modifyPart fun p => { p with rotation := r3 }
  let differ := (range 0 32).flatMap fun i => ((range 0 32).filter fun j => cell e1 i j != cell e2 i j).map fun j => (i, j)
  if differ.isEmpty then s.finishMop t f negative e1 res.2
  else
    let e3 := execution p s.acc r3 res.1
    let places := (differ.flatMap fun x =>
      let u := cell e1 x.1 x.2
      let v := cell e2 x.1 x.2
      let w := cell e3 x.1 x.2
      (if u = w then [(columnOf p x.2, (x.1 + r) % 32)] else if v = w then [(columnOf p x.2, x.1)]
       else [(columnOf p x.2, x.1), (columnOf p x.2, (x.1 + r) % 32), (columnOf p x.2, (x.1 + r3) % 32)])).eraseDups
    let s := places.foldl (fun s x => s.logGridFault x.1 x.2) s
    if differ.all fun x => cell e1 x.1 x.2 == cell e3 x.1 x.2 || cell e2 x.1 x.2 == cell e3 x.1 x.2 then
      let g := gridOf fun i j => if cell e1 i j = cell e2 i j ∨ cell e1 i j = cell e3 i j then cell e1 i j else cell e3 i j
      s.finishMop t f negative g res.2
    else s.fault .lanes ⟨cGRID, 0, 0⟩

/-- `mop`, `mopn` (R215): every Nth of a warp is held for its vote (R229). -/
def mopOp (s : State) (t : BitVec 2) (a b : BitVec 1) (negative : Bool) : State :=
  s.checked .lanes [(!s.tilePinned t || s.formatsBad || (!s.acc && 6 ≤ s.rm), inMode), (s.partMask, maskIncomplete)] <|
    let n := s.myCore.dupn
    if n ≠ 0 ∧ n ≤ s.warp.dupCount + 1 then
      ({ s with warp := { s.warp with dupCount := 0 } } : State).await (.dup t a b negative)
    else
      let f := s.feeds a b
      let res := s.gridResult t f negative
      ({ s with warp := { s.warp with dupCount := if n = 0 then s.warp.dupCount else s.warp.dupCount + 1 } } : State).finishMop
        t f negative (execution s.myPart s.acc 0 res.1) res.2

end State

/-- `mop` (R215). -/
def execMop (t : BitVec 2) (a b : BitVec 1) (s : State) : Out := .next (s.mopOp t a b false)
/-- `mopn` (R215). -/
def execMopn (t : BitVec 2) (a b : BitVec 1) (s : State) : Out := .next (s.mopOp t a b true)

/-! ## Entering and leaving matrix mode (R211, R212, R218, R228) -/

/-- `mxon` (R211). -/
def execMxon (m : BitVec 4) (s : State) : Out :=
  .next (s.checked .lanes
    [(s.warp.pin != 0
        || (!s.acc && (range 0 4).any fun k => m.getLsbD k && s.warp.varch ≤ 32 * k + 31)
        || (s.acc && (m != 1 || s.warp.varch != 128)) || s.formatsBad, inMode), (s.partMask, maskIncomplete)] <|
    let acc := s.acc
    let tiles := (range 0 4).filter fun k => m.getLsbD k
    let sh := Vector.ofFn fun r : Fin 128 =>
      if acc || m.getLsbD (r.val / 32) then Shadow.unbounded else s.warp.vshd.get r
    ({ s with warp := { s.warp with
        pin := m, tileAcc := acc, vshd := sh,
        sums := tiles.map fun t => establish acc t (tileCells s.warp acc t) } } : State).retire)

/-- `mxoff` (R212). -/
def execMxoff (s : State) : Out :=
  .next (s.checked .lanes [(s.warp.pin == 0, inMode), (s.partMask, maskIncomplete)] <|
    match s.compareAll (State.pinnedTiles s.warp) with
    | none => s.fault .lanes ⟨cGRID, 0, 0⟩
    | some t => ({ t with warp := { t.warp with pin := 0, tileAcc := false, sums := [] } } : State).retire)

/-- `tzero` (R218). -/
def execTzero (t : BitVec 2) (s : State) : Out :=
  .next (s.checked .lanes [(!s.tilePinned t, inMode), (s.partMask, maskIncomplete)]
    (s.loadTile t.toNat (gridOf fun _ _ => 0)).retire)

/-- `mchk` (R228). -/
def execMchk (t : BitVec 2) (s : State) : Out :=
  .next (s.checked .lanes [(!s.tilePinned t, inMode), (s.partMask, maskIncomplete)] <|
    match s.compareTile t.toNat with
    | none => s.fault .lanes ⟨cGRID, 0, 0⟩
    | some u => u.retire)

/-! ## Slices and conversion (R223, R224) -/

/-- The slice number (R76). -/
def sliceOf (s : State) (x : BitVec 6) (n : BitVec 5) : Nat := ((s.readS (x.setWidth 7)).toNat + n.toNat) % 32

/-- `tsld` (R223). -/
def execTsld (v : BitVec 7) (t : BitVec 2) (r : BitVec 1) (x : BitVec 6) (n : BitVec 5) (s : State) : Out :=
  let c := sliceOf s x n
  .next (s.checked .lanes
    [(s.beyondVarch [v], illegal), (s.acc || !s.tilePinned t || s.pinned v, inMode), (s.partMask, maskIncomplete)] <|
    let g := tileCells s.warp false t.toNat
    (s.putV v (perLane fun l => (if r = 0 then cell g c l else cell g l c).setWidth 32) .unbounded).retire)

/-- `tsst` (R223): the checksums follow each cell's exact change; a row or column whose change is no number is exempt (R225). -/
def execTsst (v : BitVec 7) (t : BitVec 2) (r : BitVec 1) (x : BitVec 6) (n : BitVec 5) (s : State) : Out :=
  let c := sliceOf s x n
  .next (s.checked .lanes
    [(s.beyondVarch [v], illegal), (s.acc || !s.tilePinned t, inMode), (s.partMask, maskIncomplete)] <|
    let g := tileCells s.warp false t.toNat
    let src := s.readV v
    let new := gridOf fun i j =>
      if r = 0 then (if i = c then (lane src j).setWidth 128 else cell g i j)
      else (if j = c then (lane src i).setWidth 128 else cell g i j)
    let change := fun (i j : Nat) =>
      (cellValue false (cell new i j)).dyadic.add (cellValue false (cell g i j)).dyadic.neg
    let finite := fun (g : Grid) (i j : Nat) => (cellValue false (cell g i j)).finite
    let taken := fun (i j : Nat) => (if r = 0 then i == c else j == c) && !(finite g i j && finite new i j)
    let k := s.sumsOf t.toNat
    let sums : TileSum := { k with
      cols := (range 0 32).zipWith (fun j y => (range 0 32).foldl (fun y i => y.add (change i j)) y) k.cols
      rows := (range 0 32).zipWith (fun i y => (range 0 32).foldl (fun y j => y.add (change i j)) y) k.rows
      exemptCols := (range 0 32).filter fun j => k.exemptCols.contains j || (range 0 32).any fun i => taken i j
      exemptRows := (range 0 32).filter fun i => k.exemptRows.contains i || (range 0 32).any fun j => taken i j }
    ((s.putTile t.toNat new).setSums sums).retire)

/-- `tcvt` (R116, R224). -/
def execTcvt (d : BitVec 7) (t : BitVec 2) (s : State) : Out :=
  let i := d.toNat / 4
  .next (s.checked .lanes
    [(s.beyondVarch [d], illegal),
     (!s.acc || t != 0 || 6 ≤ s.rm || s.warp.varch ≤ 4 * i + 3 || s.pinned d, inMode), (s.partMask, maskIncomplete)] <|
    let g := tileCells s.warp true 0
    let res := fun (l : Nat) =>
      let x := (cell g i l).toInt
      if x = 0 then ((0 : Nat), (0 : BitVec 8)) else F32.round s.rm (randAt s.draw (32 * i + l)) s.dz (x < 0) x.natAbs s.qw false
    let u := (s.putV d (perLane fun l => BitVec.ofNat 32 (res l).1) .unbounded).orFlags
      ((range 0 32).foldl (fun f l => f ||| (res l).2) 0)
    u.advanceXs.retire)

/-! ## Feed loads (R217) -/

/-- `fmov` (R217). -/
def execFmov (f : BitVec 2) (a : BitVec 7) (s : State) : Out :=
  .next (s.checked .lanes [(s.beyondVarch [a], illegal), (s.partMask, maskIncomplete)] (s.writeF f (s.readV a)).retire)

/-- `flds` (R217). -/
def execFlds (f : BitVec 2) (x m : BitVec 7) (s : State) : Out :=
  .next (s.checked .lanes [(s.partMask, maskIncomplete)] <|
    s.scratchLoad ((s.readS x).toNat + 16 * m.toInt) 128 16 fun s bs => (s.writeF f (lanesFrom bs)).retire)

/-! ## Whole transfers (R219-R222) -/

/-- What a whole transfer meets (R219). -/
inductive Transfer where
  | pieces (l : List Piece)
  | suppressed
  | fails (t : Trouble)
deriving DecidableEq, Repr

namespace State

/-- The first byte of a transfer: BASE + (index + imm) × s. -/
def transferStart (s : State) (k : BitVec 4) (x : BitVec 7) (imm : Int) : Int :=
  (s.readA k).base.toNat + ((s.readS x).toInt + imm) * sizeOf (s.readA k).esize.toNat

/-- R219 case 6: the first page of a range without a translation. `fuel` leaves at most. -/
def untranslated (s : State) : Nat → Nat → Nat → Option Trouble
  | 0, _, _ => none
  | fuel + 1, va, stop =>
    if stop ≤ va then none
    else if 2 ^ 48 ≤ va then some ⟨cTRANSLATION, 5, BitVec.ofNat 64 va⟩
    else match s.leafFor s.warp.pcn va with
      | .ok (level, _) => s.untranslated fuel (va - va % 2 ^ leafBits level + 2 ^ leafBits level) stop
      | .error level => some ⟨cTRANSLATION, level, BitVec.ofNat 64 va⟩

/-- R219: the checks of a transfer of n bytes through an array register, in order, each over the whole transfer. -/
def transfer (s : State) (kind : Access) (k : BitVec 4) (x : BitVec 7) (imm : Int) (n align : Nat) : Transfer :=
  let a := s.readA k
  let size := sizeOf a.esize.toNat
  let e := (s.readS x).toInt + imm
  let start := s.transferStart k x imm
  let limit := a.extent.toNat * size
  let proved := discharged a (s.shadowS x) imm size n
  let addr := fun (v : Int) => BitVec.ofInt 64 v
  if start % align != 0 then .fails ⟨cMISALIGN, align, addr start⟩
  else if !proved && e < 0 then (if a.suppresses then .suppressed else .fails ⟨cBOUNDS, 0, addr start⟩)
  else if !proved && e * size + n > limit then
    if a.suppresses then .suppressed else .fails ⟨cBOUNDS, 1, addr (max start (a.base.toNat + limit))⟩
  else if kind.writes && (a.ro || a.isConst) then .fails ⟨cPERMISSION, 0, addr start⟩
  else if a.isConst then .pieces [⟨0, start.toNat, n, 0, false⟩]
  else match s.unleased start.toNat n with
    | some v => .fails ⟨cLEASE, 0, BitVec.ofNat 64 v⟩
    | none => match s.untranslated (n / 4096 + 2) start.toNat (start.toNat + n) with
      | some t => .fails t
      | none => match s.piecesOf kind (n / 4096 + 2) 0 start.toNat (start.toNat + n) with
        | .error t => .fails t
        | .ok l => .pieces l

/-- The fate of one piece, as a load takes it. -/
def pieceFate (a : ArrayReg) (p : Piece) : LaneFate := .performs ⟨p.pa, p.key, p.unc⟩ (if a.isConst then some p.pa else none)

/-- R219, R353: the leaves that a transfer of n bytes which passes its checks takes from the tables. -/
def reachWhole (s : State) (k : BitVec 4) (x : BitVec 7) (imm : Int) (n : Nat) : State :=
  let va := (s.transferStart k x imm).toNat
  if (s.readA k).isConst then s else s.reachRange (n / 4096 + 2) va (va + n)

/-- What the loads of a transfer need filled. -/
def fillPieces (s : State) (a : ArrayReg) (l : List Piece) : State := l.foldl (fun s p => s.fillFate p.len (pieceFate a p)) s

/-- Its bytes, once filled. -/
def pieceBytes (s : State) (a : ArrayReg) (l : List Piece) : List Byte := l.flatMap fun p => s.fateBytes p.len (pieceFate a p)

/-- The offset of the first poisoned byte of a transfer. -/
def firstPoison (s : State) (a : ArrayReg) (l : List Piece) : Option Nat :=
  l.findSome? fun p =>
    let bad := if a.isConst then (range 0 p.len).filter fun o => (s.constWord (p.pa + o)).poison else s.loadBads ⟨p.pa, p.key, p.unc⟩ p.len
    bad.head?.map (p.off + ·)

/-- A whole load: its bytes go on; a suppressed one goes on without any. -/
def wholeLoad (s : State) (site : Site) (k : BitVec 4) (x : BitVec 7) (imm : Int) (n align : Nat)
    (body : State → Option (List Byte) → State) : State :=
  match s.transfer .read k x imm n align with
  | .fails t => s.fault site t
  | .suppressed => body s none
  | .pieces l =>
    let a := s.readA k
    let s := (s.reachWhole k x imm n).fillPieces a l
    match s.firstPoison a l with
    | some o => s.fault site ⟨cUE, 0, BitVec.ofInt 64 (s.transferStart k x imm + o)⟩
    | none => body s (some (s.pieceBytes a l))

/-- R219: the bytes of a tile image. -/
def imageBytes (s : State) (t : BitVec 2) : List Byte :=
  let g := tileCells s.warp s.warp.tileAcc t.toNat
  (range 0 32).flatMap fun i => (range 0 32).flatMap fun j => bytesOf (if s.warp.tileAcc then 16 else 4) (cell g i j).toNat

/-- The length of a tile image. -/
def imageLen (s : State) : Nat := if s.warp.tileAcc then 16384 else 4096

/-- The cells of a tile image. -/
def imageGrid (acc : Bool) (bs : List Byte) : Grid :=
  let w := if acc then 16 else 4
  gridOf fun i j => BitVec.ofNat 128 (ofBytes ((bs.drop (w * (32 * i + j))).take w))

/-- The bytes of a whole store put into the store buffer, as one instruction's. -/
def pushPieces (s : State) (l : List Piece) (bs : List Byte) : State :=
  l.foldl (fun t p => t.pushTagged s.nextTag p.key p.unc (cellsFrom p.pa ((bs.drop p.off).take p.len))) s

/-- R214, R80: the issue checks of the tile transfers. -/
def tileChecks (s : State) (t : BitVec 2) (k : BitVec 4) : List (Bool × Trouble) :=
  [(!s.tilePinned t || 5 ≤ (s.readA k).esize.toNat, inMode), (s.partMask, maskIncomplete)]

/-- The site of a whole transfer (R193, R219). -/
def wholeSite (k : BitVec 4) (writes : Bool) : Site := { areg := k.setWidth 8, writes := writes, masked := true }

end State

/-- `fld` (R217, R219). -/
def execFld (f : BitVec 2) (k : BitVec 4) (x m : BitVec 7) (s : State) : Out :=
  let site := State.wholeSite k false
  .next (s.checked site [(5 ≤ (s.readA k).esize.toNat, inMode), (s.partMask, maskIncomplete)] <|
    s.wholeLoad site k x m.toInt 128 16 fun s bs =>
      ((s.writeF f (lanesFrom (bs.getD []))).retireAccess k (if bs.isNone then 1 else 0)).retire)

/-- `tld` (R219, R220). -/
def execTld (t : BitVec 2) (k : BitVec 4) (x m : BitVec 7) (s : State) : Out :=
  let site := State.wholeSite k false
  .next (s.checked site (s.tileChecks t k) <|
    s.wholeLoad site k x m.toInt s.imageLen 64 fun s bs =>
      ((s.loadTile t.toNat (State.imageGrid s.warp.tileAcc (bs.getD []))).retireAccess k (if bs.isNone then 1 else 0)).retire)

/-- `tst` (R219, R220): the image performs after retirement, no sector of it in part. -/
def execTst (t : BitVec 2) (k : BitVec 4) (x m : BitVec 7) (s : State) : Out :=
  let site := State.wholeSite k true
  .next (s.checked site (s.tileChecks t k) <|
    match s.transfer .write k x m.toInt s.imageLen 64 with
    | .fails t => s.fault site t
    | .suppressed => (s.retireAccess k 1).retire
    | .pieces l => (((s.reachWhole k x m.toInt s.imageLen).pushPieces l (s.imageBytes t)).retireAccess k 0).retire)

namespace State

/-- The place of the first byte of pieces. -/
def firstPlace (l : List Piece) : Phys := match l with | [] => ⟨0, 0, false⟩ | p :: _ => ⟨p.pa, p.key, p.unc⟩

/-- The pieces of a versioned image from byte 64 on, where the tile image starts. -/
def imagePart (l : List Piece) : List Piece := l.filterMap fun q =>
  if q.off + q.len ≤ 64 then none
  else if 64 ≤ q.off then some { q with off := q.off - 64 }
  else some { q with off := 0, pa := q.pa + (64 - q.off), len := q.len - (64 - q.off) }

/-- The piece of a versioned image that holds the version word: it lies on one page. -/
def versionPart (l : List Piece) : List Piece := (l.take 1).map fun q => { q with len := 8 }

/-- TST_A_TRY (R221): a `tst.a` tries to claim an even version; once it has, its image is stored. Unclaimed, it has not executed:
each try makes every check. Its page is checked as a store's, though it also reads and compares the version word (R353 names atomics
alone as both: DESIGN CHOICE, log 67). -/
def tryTstA (s : State) (t : BitVec 2) (k : BitVec 4) (x m : BitVec 7) : State :=
  let site := wholeSite k true
  s.checked site (s.tileChecks t k) <|
    match s.transfer .write k x m.toInt (s.imageLen + 64) 64 with
    | .fails t => s.fault site t
    | .suppressed => (s.retireAccess k 1).retire
    | .pieces l =>
      let p := firstPlace l
      let s := (s.reachWhole k x m.toInt (s.imageLen + 64)).drainOver p.pa 8
      if (range p.pa 8).any s.agentPoison then s.fault site ⟨cUE, 0, BitVec.ofInt 64 (s.transferStart k x m.toInt)⟩
      else
        let v := BitVec.ofNat 64 (ofBytes (s.agentRead p.key p.pa 8))
        if v.getLsbD 0 then s.await (.tstA t k x m none)
        else
          let s := (s.updateGlobal p 8 fun old => ((old + 1) % 2 ^ 64, 0)).1
          (s.pushPieces (imagePart l) (s.imageBytes t)).await (.tstA t k x m (some ⟨p.pa, p.key, p.unc, v⟩))

/-- TST_A_VERSION_STORE (R221): once every sector of the image is registered, v + 2 is stored, a release, and `tst.a` retires. -/
def versionStore (s : State) (k : BitVec 4) (c : Claim) : State :=
  if !s.warp.stores.isEmpty then s
  else
    let s := (s.pushStore c.key c.unc (cellsFrom c.pa (bytesOf 8 (c.version + 2).toNat))).drain
    (s.retireAccess k 0).retire

/-- What the current warp reads next of some pieces is read at its home, not in its L1, nor ahead of its turn. -/
def readAnew (s : State) (l : List Piece) : State :=
  { s with warp := { s.warp with
    ahead := s.warp.ahead.filter fun e => !l.any fun p => e.meets none p.pa p.len
    distrust := (l.flatMap fun p => sectorsOf p.pa p.len) ++ s.warp.distrust } }

/-- TLDV_TRY (R222): one of at most 64 tries; a try meets one version, since it is one step, and reads the image of an even one
only, after the acquire (R315). -/
def tryTldv (s : State) (t : BitVec 2) (k : BitVec 4) (x : BitVec 7) (y : BitVec 6) (tries : Nat) : State :=
  let site := wholeSite k false
  let d := y.setWidth 7
  let start := s.transferStart k x 0
  s.checked site (s.tileChecks t k) <|
    match s.transfer .read k x 0 (s.imageLen + 64) 64 with
    | .fails t => s.fault site t
    | .suppressed => ((s.writeS d 2 (.bounded 0 2)).retireAccess k 1).retire
    | .pieces l =>
      let a := s.readA k
      let s := ((s.reachWhole k x 0 (s.imageLen + 64)).readAnew (versionPart l)).fillPieces a (versionPart l)
      match s.firstPoison a (versionPart l) with
      | some o => s.fault site ⟨cUE, 0, BitVec.ofInt 64 (start + o)⟩
      | none =>
        if ((s.pieceBytes a (versionPart l)).headD 0).getLsbD 0 then
          if tries + 1 < 64 then s.await (.tldv t k x y (tries + 1))
          else ((s.writeS d 1 (.bounded 0 2)).retireAccess k 0).retire
        else
          let s := s.acquire.fillPieces a (imagePart l)
          match s.firstPoison a (imagePart l) with
          | some o => s.fault site ⟨cUE, 0, BitVec.ofInt 64 (start + 64 + o)⟩
          | none =>
            (((s.loadTile t.toNat (imageGrid s.warp.tileAcc (s.pieceBytes a (imagePart l)))).writeS d 0
              (.bounded 0 2)).retireAccess k 0).retire

end State

/-- `tst.a` (R221). -/
def execTstA (t : BitVec 2) (k : BitVec 4) (x m : BitVec 7) (s : State) : Out := .next (s.tryTstA t k x m)
/-- `tldv` (R222). -/
def execTldv (t : BitVec 2) (k : BitVec 4) (x : BitVec 7) (y : BitVec 6) (s : State) : Out := .next (s.tryTldv t k x y 0)

end Sys2Proof.Machine
end

