-- ==== Sys2Proof/Machine/Barriers.lean ====
section
/-!
DEFINITION. Barriers of a block and of a gang (R253-R255, R288-R290), and the retirement of blocks and gangs (R263).
-/

namespace Sys2Proof.Machine

/-- The number by which barriers know a warp (R9). -/
def Warp.place (w : Warp) : Nat := 32 * w.pcn + w.cw

/-- R253: phases completed while the participants have all arrived; those who had arrived a second time are counted in the next. -/
def Barrier.settle (parts : List Nat) : Nat → Barrier → Barrier
  | 0, b => b
  | fuel + 1, b =>
    if !parts.isEmpty && parts.all b.arrived.contains then
      Barrier.settle parts fuel { arrived := b.again, again := [], phase := b.phase + 1 }
    else b

/-- R253: one arrival. -/
def Barrier.arrive (p : Nat) (b : Barrier) : Barrier :=
  if b.arrived.contains p then { b with again := b.again ++ [p] } else { b with arrived := b.arrived ++ [p] }

/-- R253: a departed warp's arrivals withdrawn. -/
def Barrier.withdraw (p : Nat) (b : Barrier) : Barrier :=
  { b with arrived := b.arrived.filter (· != p), again := b.again.filter (· != p) }

/-- A barrier nobody has arrived at. -/
def Barrier.fresh : Barrier := { arrived := [], again := [], phase := 0 }

namespace State

/-- Whether a warp belongs to a gang. -/
def ofGang (launch gang : Nat) (w : Warp) : Bool := w.launch == launch && w.gang == gang

/-- R253, R288: the participants of the barriers of a gang, or of one of its blocks. A warp that a gang halt has marked HALTED stays one,
so that no phase completes for want of it (R290). -/
def participants (s : State) (launch gang : Nat) (block : Option Nat) : List Nat :=
  (s.warps.filter fun w => ofGang launch gang w && w.index.isSome && !w.departed
    && (match block with | none => true | some b => w.block == b)).map Warp.place

/-- A block of a gang changed. -/
def modifyBlock (s : State) (launch gang block : Nat) (f : Block → Block) : State :=
  s.modifyGang launch gang fun g => { g with blocks := changeWhere (fun b => b.index == block) f g.blocks }

/-- A block of a gang. -/
def blockAt? (s : State) (launch gang block : Nat) : Option Block :=
  (s.gang? launch gang).bind fun g => g.blocks.find? fun b => b.index == block

/-- One barrier of a block settled. -/
def settleBlock (s : State) (launch gang block : Nat) (id : BitVec 4) : State :=
  let parts := s.participants launch gang (some block)
  s.modifyBlock launch gang block fun b =>
    { b with barriers := b.barriers.set id.toNat ((b.barriers.get ⟨id.toNat, id.isLt⟩).settle parts 2) id.isLt }

/-- Whether a gang is being halted (R274). -/
def gangHalting (s : State) (launch gang : Nat) : Bool := (s.gang? launch gang).any fun g => g.state == .halting

/-- One barrier of a gang settled; none of a gang that is being halted is (R290). -/
def settleGang (s : State) (launch gang : Nat) (id : BitVec 4) : State :=
  let parts := s.participants launch gang none
  if s.gangHalting launch gang then s
  else s.modifyGang launch gang fun g =>
    { g with barriers := g.barriers.set id.toNat ((g.barriers.get ⟨id.toNat, id.isLt⟩).settle parts 2) id.isLt }

/-- R253, R288: a warp that has exited or been halted is no participant: its arrivals are withdrawn and phases that are then
whole complete at once. -/
def departBarriers (s : State) (launch gang block place : Nat) : State :=
  let inBlock := s.participants launch gang (some block)
  let inGang := s.participants launch gang none
  let go := fun (parts : List Nat) (b : Barrier) => (b.withdraw place).settle parts 2
  s.modifyGang launch gang fun g =>
    { g with
      barriers := g.barriers.map (go inGang)
      blocks := changeWhere (fun b => b.index == block) (fun b => { b with barriers := b.barriers.map (go inBlock) }) g.blocks }

/-! ## `bar`, `bara`, `gbar` -/

/-- The barrier of an id of the current warp's block, or of its gang. -/
def barrierOf (s : State) (gang : Bool) (id : BitVec 4) : Barrier :=
  if gang then (s.gang? s.warp.launch s.warp.gang).elim Barrier.fresh fun g => g.barriers.get ⟨id.toNat, id.isLt⟩
  else (s.blockAt? s.warp.launch s.warp.gang s.warp.block).elim Barrier.fresh fun b => b.barriers.get ⟨id.toNat, id.isLt⟩

/-- The barrier settled. -/
def settleMine (s : State) (gang : Bool) (id : BitVec 4) : State :=
  if gang then s.settleGang s.warp.launch s.warp.gang id else s.settleBlock s.warp.launch s.warp.gang s.warp.block id

/-- R254, R289: the current warp arrives. -/
def arriveAt (s : State) (gang : Bool) (id : BitVec 4) : State :=
  let p := s.warp.place
  if gang then s.modifyGang s.warp.launch s.warp.gang fun g =>
    { g with barriers := g.barriers.set id.toNat ((g.barriers.get ⟨id.toNat, id.isLt⟩).arrive p) id.isLt }
  else s.modifyBlock s.warp.launch s.warp.gang s.warp.block fun b =>
    { b with barriers := b.barriers.set id.toNat ((b.barriers.get ⟨id.toNat, id.isLt⟩).arrive p) id.isLt }

/-- R255, R290: the status a barrier returns. -/
def abandonedStatus (s : State) (gang : Bool) : DWord :=
  if (if gang then (s.gang? s.warp.launch s.warp.gang).elim false Gang.abandoned
      else (s.blockAt? s.warp.launch s.warp.gang s.warp.block).elim false Block.abandoned) then 1 else 0

/-- R254, R289: the warp waits for the end of the phase in which it has arrived; then the acquire and the status. No `gbar` of a gang that is
being halted returns (R290). -/
def tryBar (s : State) (d : BitVec 7) (id : BitVec 4) (phase : Nat) (gang : Bool) : State :=
  let s := s.settleMine gang id
  if (gang && s.gangHalting s.warp.launch s.warp.gang) || (s.barrierOf gang id).phase == phase then
    s.await (if gang then .gbar d id phase else .bar d id phase)
  else (s.acquire.writeS d (s.abandonedStatus gang) (.bounded 0 1)).retire

/-- R253: a warp that arrived a second time waits for the end of that phase; it is then counted in the next one. `stay`: it waits
for that one too. -/
def tryBarTwice (s : State) (d : BitVec 7) (id : BitVec 4) (phase : Nat) (stay gang : Bool) : State :=
  let s := s.settleMine gang id
  if (s.barrierOf gang id).phase = phase then s.await (.barTwice d id phase stay gang)
  else if stay then s.tryBar d id (phase + 1) gang else s.retire

/-- R254, R289: the checks and the arrival; `stay`: the warp waits for its phase. -/
def barrier (s : State) (d : BitVec 7) (id : BitVec 4) (stay gang : Bool) : State :=
  s.checked .scalar [(s.warp.index.isNone, inMode), (s.warp.active != 0xFFFFFFFF#32, maskIncomplete)] <|
    let s := s.drain
    let b := s.barrierOf gang id
    let s := s.arriveAt gang id
    if b.arrived.contains s.warp.place then s.tryBarTwice d id b.phase stay gang
    else if stay then s.tryBar d id b.phase gang
    else (s.settleMine gang id).retire

end State

/-- `bar` (R254). -/
def execBar (d : BitVec 7) (a : BitVec 4) (s : State) : Out := .next (s.barrier d a true false)
/-- `bara` (R254). -/
def execBara (a : BitVec 4) (s : State) : Out := .next (s.barrier 0 a false false)
/-- `gbar` (R289). -/
def execGbar (d : BitVec 7) (a : BitVec 4) (s : State) : Out := .next (s.barrier d a true true)

/-! ## Blocks and gangs retire (R263) -/

namespace State

/-- Whether a range of a core's SRAM meets a block's window. -/
def inWindow (b : Block) (pcn a : Nat) : Bool :=
  b.pcn == pcn && b.unit * 32768 ≤ a && a < (b.unit + b.scratch) * 32768

/-- Whether a copy names a block's window (R263). -/
def namesWindow (b : Block) (c : Copy) : Bool :=
  c.count != 0 && (inWindow b c.side.1 c.side.2 || (!(c.op == .copyIn || c.op == .copyOut) && inWindow b c.list.1 c.list.2)
    || (match c.aw with | some p => inWindow b p.1 p.2 | none => false)
    || (match c.dv with | some p => inWindow b p.1 p.2 | none => false))

/-- R263, R285: whether a warp of a gang waits at an access to a block's window that has been accepted: a `waitg` or `waitw` on a word of
it, or a copy that has passed its checks and waits for a slot. -/
def waitsOnWindow (s : State) (b : Block) (w : Warp) : Bool :=
  let there := fun (addr : Nat) => (if addr / 2 ^ 21 = 1 then w.pcn else w.pcn / 4 * 4 + addr / 2 ^ 19 % 4) == b.pcn
  match w.wait with
  | some (.waitg addr _) | some (.waitw addr _) => there addr
  | some (.copySlot op k a) => (({ s with warp := w } : State).copyArgs op k a).ranges.any fun x => there x.1
  | _ => false

/-- R263, R285: whether a stream that still fills entries reads a block's window; `pcn`: the core of its queue. -/
def streamsFrom (b : Block) (pcn : Nat) (q : Queue) : Bool :=
  let p := streamOf q.prog
  let place := fun (e : Int) => ((p.sbase : Int) + e * (2 ^ p.ses : Nat)).toNat
  -- whether an element may lie in n bytes of scratchpad addresses
  let within := fun (a n : Nat) => place p.least < a + n && a < place p.greatest + 2 ^ p.ses
  q.owner.isSome && q.remain != 0 && p.scratch
    && ((b.pcn / 4 == pcn / 4 && within (b.pcn % 4 * 2 ^ 19) (2 ^ 19)) || (b.pcn == pcn && within (2 ^ 21) (2 ^ 21)))

/-- R263, R285: whether anything accepted into a block's window is still in flight: a copy, an awaited word, a stream. -/
def windowBusy (s : State) (launch gang : Nat) (b : Block) : Bool :=
  s.cores.any (fun k => k.copies.any (namesWindow b))
    || (s.warps.any fun w => ofGang launch gang w &&
      (s.waitsOnWindow b w || (s.core w.pcn).queues.toList.any fun q => q.owner == some w.cw && streamsFrom b w.pcn q))

/-- R263, R285: what has been accepted into a block's window performs: stores of other warps, then copies. -/
def quietWindow (s : State) (b : Block) : State :=
  let s := s.onWarps (fun w => w.stores.any fun p => p.scratch == some b.pcn && p.cells.any fun c => inWindow b b.pcn c.1)
    fun s => s.drainTo b.pcn
  ((s.cores.flatMap fun k => (k.copies.filter (namesWindow b)).map fun c => (k.pcn, c.id))).foldl
    (fun s x => s.finishCopy x.1 x.2) s

/-- R232, R263: a window's bytes read zero from here on. -/
def clearWindow (s : State) (pcn unit scratch : Nat) : State :=
  let keep := fun (a : Nat) => a < unit * 32768 || (unit + scratch) * 32768 ≤ a
  s.modifyCore pcn fun c => { c with
    sram := c.sram.filter fun x => keep x.1
    sramPoison := c.sramPoison.filter fun w => keep (4 * w) }

/-- R263: a block whose warps have all left retires: its barriers are reset and its window is freed, unless something accepted into
the window is still in flight. -/
def retireBlock (s : State) (launch gang : Nat) (b : Block) : State :=
  if b.retired || s.warps.any fun w => ofGang launch gang w && w.block == b.index then s
  else
    let s := s.quietWindow b
    if s.windowBusy launch gang b then s
    else (s.clearWindow b.pcn b.unit b.scratch).modifyBlock launch gang b.index fun b =>
      { b with retired := true, barriers := Vector.replicate 16 Barrier.fresh }

/-- The part of its region's Chrysalis area that a gang's image has, or is to have, given back (R342). -/
def freeImage (s : State) (launch gang : Nat) : State :=
  match s.gang? launch gang with
  | none => s
  | some g =>
    match g.image with
    | none => s
    | some m => (s.modifyRegion g.rid fun r => { r with chryUsed := r.chryUsed.filter fun x => x != m }).modifyGang launch gang fun g =>
        { g with image := none }

/-- R263: the blocks of a gang that can retire do; a gang whose blocks have all retired retires, and is no victim any more (R339, R341). -/
def retireBlocks (s : State) (launch gang : Nat) : State :=
  match s.gang? launch gang with
  | none => s
  | some g =>
    if g.state = .placed ∨ g.state = .halting then
      let s := g.blocks.foldl (fun s b => s.retireBlock launch gang b) s
      let s := s.modifyGang launch gang fun g => if g.blocks.all Block.retired then { g with state := .retired, victim := false } else g
      if (s.gang? launch gang).any fun g => g.state == .retired then s.freeImage launch gang else s
    else s

/-- A warp's record area given back to its region (R196). -/
def freeRecordArea (s : State) (rid va : Nat) : State :=
  s.modifyRegion rid fun r => { r with chryUsed := r.chryUsed.filter fun x => !(r.chrybase + x.1 == va && x.2 == 1024) }

/-- R187: the footprint entries of a warp that leaves its core stand for no register any more. -/
def forgetBindings (s : State) (pcn cw : Nat) : State :=
  s.modifyCore pcn fun c => { c with footprint := c.footprint.map (Footprint.release · cw fun _ => true) }

/-- The current warp's slot becomes FREE and its registers are unallotted (R262); what a FREE slot holds is log 2's choice. -/
def freeSlot (s : State) : State :=
  let w := s.warp
  let t : State := { s with warp := { Warp.start with pcn := w.pcn, cw := w.cw } }
  (t.forgetBindings w.pcn w.cw).freeRecordArea w.rid w.recVa

/-- The current warp leaves its gang for good: it departs from its barriers, and its block may retire. -/
def leaveGang (s : State) : State :=
  let w := s.warp
  (s.freeSlot.departBarriers w.launch w.gang w.block w.place).retireBlocks w.launch w.gang

end State

end Sys2Proof.Machine
end

