-- ==== Sys2Proof/Machine/Residency.lean ====
section
/-!
DEFINITION. Warp slots and who may take one (R41, R196, R257, R258, R330), kernel headers (R88, R89), `spawn` and `exit`
(R133, R259-R262).
-/

namespace Sys2Proof.Machine

/-! ## Kernel headers (R88, R89) -/

/-- A kernel header; VARCH and VREN in registers. -/
structure KernelHeader where
  varch : Nat
  vren : Nat
  scratch : Nat
  block : Nat
  gang : Nat
  trapvec : Nat
  codelen : Nat
  spcount : Nat
deriving DecidableEq, Repr

/-- The number in bytes [o + n - 1 : o] of a byte string. -/
def numAt (bs : List Byte) (o n : Nat) : Nat := ofBytes ((bs.drop o).take n)

/-- Whether bytes [o + n - 1 : o] are all zero. -/
def zeroAt (bs : List Byte) (o n : Nat) : Bool := numAt bs o n == 0

/-- R88, R89: the header in 64 bytes; none when the loader fails it. -/
def headerOf (bs : List Byte) : Option KernelHeader :=
  let f := numAt bs
  let ok := f 0 4 == 0x4B484C37 && f 4 1 == 1 && 1 ≤ f 5 1 && f 5 1 ≤ 8 && 1 ≤ f 6 1 && f 6 1 ≤ 8 && f 7 1 ≤ 14
    && 1 ≤ f 8 1 && f 8 1 ≤ 16 && 1 ≤ f 9 1 && f 9 1 ≤ 4 && zeroAt bs 10 2 && zeroAt bs 24 40
    && (f 12 4 == 0 || (64 ≤ f 12 4 && f 12 4 % 4 == 0 && f 12 4 < 64 + f 16 4))
  if ok then some ⟨16 * f 5 1, 16 * f 6 1, f 7 1, f 8 1, f 9 1, f 12 4, f 16 4, f 20 4⟩ else none

namespace State

/-! ## Slots (R258) -/

/-- The warps that hold slots of a core. -/
def warpsOn (s : State) (pcn : Nat) : List Warp := s.warps.filter fun w => w.pcn == pcn

/-- The FREE slots of a partition, ascending. -/
def freeSlots (s : State) (pcn p : Nat) : List Nat :=
  (range (8 * p) 8).filter fun cw => !(s.warpsOn pcn).any fun w => w.cw == cw

/-- R41: the physical vector registers of a partition that are unallotted. -/
def freeRegs (s : State) (pcn p : Nat) : Nat :=
  1024 - ((s.warpsOn pcn).filter fun w => w.cw / 8 == p).foldl (fun n w => n + w.varch + w.vren) 0

/-- Whether a partition of a core has been withdrawn (R230). -/
def withdrawn (s : State) (pcn p : Nat) : Bool := ((s.core pcn).parts.get ⟨p % 4, Nat.mod_lt _ (by decide)⟩).withdrawn

end State

/-- R258: what placing warps looks at in a partition: FREE slots, unallotted registers, withdrawn. -/
structure Room where
  slots : List Nat
  regs : Nat
  withdrawn : Bool
deriving DecidableEq, Repr

/-- R258: whether a partition accepts a warp of `need` registers. -/
def Room.accepts (need : Nat) (r : Room) : Bool := !r.slots.isEmpty && need ≤ r.regs && !r.withdrawn

/-- R258: the partition that takes a warp: the accepting one with the most FREE slots, the lowest among equals. -/
def chooseRoom (need : Nat) (rooms : List Room) : Option Nat :=
  ((range 0 rooms.length).zip rooms).foldl (fun (best : Option Nat) x =>
    if x.2.accepts need then
      match best with
      | none => some x.1
      | some b => if (rooms.getD b ⟨[], 0, true⟩).slots.length < x.2.slots.length then some x.1 else best
    else best) none

/-- R258: the slots that warps of the given needs take, one after another; none when they do not all fit. -/
def takeSlots : List Nat → List Room → Option (List Nat)
  | [], _ => some []
  | need :: needs, rooms =>
    match chooseRoom need rooms with
    | none => none
    | some p =>
      let r := rooms.getD p ⟨[], 0, true⟩
      let cw := r.slots.headD 0
      (takeSlots needs (rooms.set p { r with slots := r.slots.drop 1, regs := r.regs - need })).map (cw :: ·)

namespace State

/-- The partitions of a core as placing warps sees them. -/
def rooms (s : State) (pcn : Nat) : List Room :=
  (range 0 4).map fun p => ⟨s.freeSlots pcn p, s.freeRegs pcn p, s.withdrawn pcn p⟩

/-! ## Budgets (R330) -/

/-- A region and its ancestors, nearest first; the chain is at most as long as the list of regions. -/
def regionPath (s : State) : Nat → Region → List Region
  | 0, r => [r]
  | fuel + 1, r =>
    if r.parent = 0 then [r]
    else match s.regions.find? fun p => p.addr == r.parent with
      | none => [r]
      | some p => r :: s.regionPath fuel p

/-- The path of a region id. -/
def pathOf (s : State) (rid : Nat) : List Region := (s.region? rid).elim [] (s.regionPath s.regions.length)

/-- Whether a region's usage counts against another (R330). -/
def countsAgainst (s : State) (rid top : Nat) : Bool := (s.pathOf rid).any fun r => r.rid == top

/-- Whether a gang holds its cores. -/
def placedGang (g : Gang) : Bool := g.state == .placed || g.state == .halting

/-- R330: whether every region on the path to the root stays within its effective CORES, VREGS and SCRATCHU with more cores,
registers and window units. -/
def withinBudgets (s : State) (rid : Nat) (cores : List Nat) (vregs units : Nat) : Bool :=
  (s.pathOf rid).all fun top =>
    let n := s.regions.length
    let ws := s.warps.filter fun w => s.countsAgainst w.rid top.rid
    let usedRegs := ws.foldl (fun k w => k + w.varch + w.vren) 0
    let usedUnits := (s.gangs.filter fun g => placedGang g && s.countsAgainst g.rid top.rid).foldl (fun k g =>
      (g.blocks.filter fun b => !b.retired).foldl (fun k b => k + b.scratch) k) 0
    (ws.map Warp.pcn ++ cores).eraseDups.length ≤ s.effective 0 Region.cores top n
      && usedRegs + vregs ≤ s.effective 2 Region.vregs top n
      && usedUnits + units ≤ s.effective 1 Region.scratchu top n

/-! ## The Chrysalis area (R196, R342) -/

end State

/-- The lowest offset at which `len` bytes fit in an area, clear of the parts in use; `base + offset` is a multiple of `align`. -/
def fitArea (used : List (Nat × Nat)) (base size align len : Nat) : Option Nat :=
  let up := fun (o : Nat) => (base + o + align - 1) / align * align - base
  let candidates := (0 :: used.map fun x => x.1 + x.2).map up
  (candidates.filter fun o => o + len ≤ size && used.all fun x => o + len ≤ x.1 || x.1 + x.2 ≤ o).foldl
    (fun (m : Option Nat) o => match m with | none => some o | some k => some (min k o)) none

namespace State

/-- The physical place of an address in a region's tables, for what the Monarch and the cores do there themselves. -/
def regionPhys (s : State) (rid va : Nat) : Option Phys :=
  match s.region? rid with
  | none => none
  | some r => match s.walk r.ptroot va with
    | .ok (level, e) => if va < 2 ^ 48 then some ⟨leafPa level e va, pteKey e, pteAttr e == 1⟩ else none
    | .error _ => none

/-- The page that the end of a record area lies on. -/
def areaEnd (va : Nat) : Nat := (va + 1023) / 4096 * 4096

/-- R196: a free record area of a region: its global address. Areas are taken lowest first (log 20). -/
def recordArea (s : State) (rid : Nat) : Option Nat :=
  (s.region? rid).bind fun r => (fitArea r.chryUsed r.chrybase r.chrylen 64 1024).bind fun o =>
    if (s.regionPhys rid (r.chrybase + o)).isSome && (s.regionPhys rid (areaEnd (r.chrybase + o))).isSome then some (r.chrybase + o)
    else none

/-- Where the two ends of a record area lie: the place of its first byte, and that of the page its end is on. -/
def areaPlace (s : State) (rid va : Nat) : Option (Phys × Phys) :=
  match s.regionPhys rid va, s.regionPhys rid (areaEnd va) with
  | some p, some q => some (p, q)
  | _, _ => none

/-- A part of a region's Chrysalis area taken. -/
def takeArea (s : State) (rid va len : Nat) : State :=
  s.modifyRegion rid fun r => { r with chryUsed := (va - r.chrybase, len) :: r.chryUsed }

/-- R49, R34, R38: a warp as it starts at a place. -/
def newWarp (s : State) (pcn cw launch gang block : Nat) (index : Option Nat) (hdr : Nat) (h : KernelHeader) (rec_ : Nat)
    (pa : Phys × Phys) : Warp :=
  { Warp.start with
    pcn := pcn, cw := cw, status := .ready, launch := launch, gang := gang, block := block, index := index,
    rid := (s.core pcn).rid, khdr := hdr, varch := h.varch, vren := h.vren, trapvec := h.trapvec, recVa := rec_, recAt := some pa,
    pc := BitVec.ofNat 48 (hdr + 64), xs0 := BitVec.ofNat 64 (32 * pcn + cw + 1) }

/-! ## `spawn` (R259-R261) -/

/-- R259: the header at an address read as code is, or the fault of that. -/
def readHeader (s : State) (h : Nat) : Except Trouble KernelHeader :=
  let at_ := BitVec.ofNat 64 h
  if 2 ^ 48 ≤ h then .error ⟨cTRANSLATION, 5, at_⟩
  else match s.leafFor s.warp.pcn h with
    | .error level => .error ⟨cTRANSLATION, level, at_⟩
    | .ok (level, e) =>
      let key := s.myCore.keyid
      if (forbids key .read e).isSome && (forbids key .exec e).isSome then .error ⟨cPERMISSION, 2, at_⟩
      else
        let pa := leafPa level e h
        if (range pa 64).any s.poisonedAt then .error ⟨cUE, 0, at_⟩
        else match headerOf (s.homeRead (pteKey e) pa 64) with
          | none => .error malformedForm
          | some x => .ok x

/-- R259: a header read as code is: its leaf kept in the TLB, and its bytes brought to their home slice. -/
def bringHeader (s : State) (h : Nat) : State :=
  if 2 ^ 48 ≤ h then s
  else
    let s := s.cacheLeaf s.warp.pcn h
    match s.leafFor s.warp.pcn h with
    | .error _ => s
    | .ok (level, e) =>
      if (forbids s.myCore.keyid .read e).isSome && (forbids s.myCore.keyid .exec e).isSome then s
      else (sectorsOf (leafPa level e h) 64).foldl (fun s sec => s.fetch (pteKey e) sec) s

/-- A warp that joins the resident ones, the current warp staying what it is. -/
def addWarp (s : State) (w : Warp) : State := { s with others := s.others ++ [w] }

/-- R378: the Luna record of a warp that is placed: at its start, by `spawn`, or restored. -/
def lunaPlaced (s : State) (w : Warp) : State :=
  s.luna (clusterOf w.pcn) 0x10 (whoOf w.pcn w.cw) 0 0xFFFFFFFF#32 (BitVec.ofNat 64 w.gang)

/-- R259: one try of `spawn` or, where it waits, `spawn.w`. `spawn` is a release whether or not it creates a warp (R315). -/
def trySpawn (s : State) (d : BitVec 7) (hdr : Nat) (waits : Bool) : State :=
  s.checked .scalar [(hdr % 64 != 0, ⟨cMISALIGN, 64, BitVec.ofNat 64 hdr⟩)] <|
    let s := s.bringHeader hdr
    match s.readHeader hdr with
    | .error t => s.fault .scalar t
    | .ok h =>
      let w := s.warp
      let need := h.varch + h.vren
      let none_ := if waits then s.await (.spawnW d hdr) else (s.drain.writeS d 0 (.bounded 0 1)).retire
      match takeSlots [need] (s.rooms w.pcn), s.recordArea w.rid with
      | some [cw], some va =>
        (match s.withinBudgets w.rid [] need 0, s.areaPlace w.rid va with
        | true, some pa =>
          let child := s.newWarp w.pcn cw w.launch w.gang w.block none hdr h va pa
          let child := { child with
            sreg := Vector.ofFn fun i : Fin 64 => if 1 ≤ i.val ∧ i.val ≤ 8 then w.sreg.get i else child.sreg.get i
            sshd := Vector.ofFn fun i : Fin 64 => if 1 ≤ i.val ∧ i.val ≤ 8 then w.sshd.get i else child.sshd.get i }
          (((((s.drain.dropShared w.pcn).takeArea w.rid va 1024).addWarp child).lunaPlaced child).writeS d 1 (.bounded 0 1)).retire
        | _, _ => none_)
      | _, _ => none_

end State

/-- `spawn` (R259). -/
def execSpawn (d a : BitVec 7) (s : State) : Out := .next (s.trySpawn d (s.readS a).toNat false)
/-- `spawn.w` (R259). -/
def execSpawnW (d a : BitVec 7) (s : State) : Out := .next (s.trySpawn d (s.readS a).toNat true)

/-! ## `exit` (R133, R213, R262) -/

namespace State

/-- R378: a Luna record of the current warp at its pc. -/
def lunaWarp (s : State) (event : BitVec 8) (detail : DWord) : State :=
  s.luna (clusterOf s.warp.pcn) event (whoOf s.warp.pcn s.warp.cw) 0 (s.ordinalOf s.warp.launch s.warp.pc.toNat) detail

/-- R262: the queues a warp owns are freed, their streams cancelled. -/
def freeQueues (s : State) (pcn cw : Nat) : State :=
  s.modifyCore pcn fun c => { c with queues := c.queues.map fun q => if q.owner = some cw then Queue.empty else q }

end State

/-- `exit` (R133, R213, R262). Its copies run to their end as part of it; one that waits for another module holds it back. -/
def execExit (s : State) : Out :=
  .next (s.checked .scalar [(s.warp.pin != 0, inMode), (!s.warp.stack.isEmpty, depthFault)] <|
    let t := s.finishCopies s.warp.pcn s.warp.cw
    if !t.copiesDone s.warp.pcn s.warp.cw then t
    else ((t.drain.freeQueues s.warp.pcn s.warp.cw).lunaWarp 0x11 (BitVec.ofNat 64 s.warp.gang)).leaveGang)

end Sys2Proof.Machine
end

