-- ==== Sys2Proof/Machine/Images.lean ====
section
/-!
DEFINITION. Images of warps, blocks and gangs (R265-R267), what a restore reads back from them (R268, R291), and the bytes the core
reads and writes in a region's own areas.
-/

namespace Sys2Proof.Machine

/-! ## Bytes in a region's areas -/

/-- Bytes and the words of them, by number, that are poisoned. -/
structure Part where
  bytes : List Byte
  bad : List Nat
deriving DecidableEq, Repr

/-- Zeros. -/
def zeros (n : Nat) : List Byte := List.replicate n 0

/-- A part with zeros up to the next multiple of 64 bytes. -/
def Part.padded (p : Part) : Part := { p with bytes := p.bytes ++ zeros ((64 - p.bytes.length % 64) % 64) }

/-- Parts one after another. -/
def joinParts : List Part → Part
  | [] => ⟨[], []⟩
  | p :: ps =>
    let q := joinParts ps
    ⟨p.bytes ++ q.bytes, p.bad ++ q.bad.map (· + p.bytes.length / 4)⟩

/-- The pieces, on one page each, of a range of addresses: address and length. -/
def pagePieces : Nat → Nat → Nat → List (Nat × Nat)
  | 0, _, _ => []
  | fuel + 1, va, n =>
    if n = 0 then []
    else
      let k := min n (4096 - va % 4096)
      (va, k) :: pagePieces fuel (va + k) (n - k)

namespace State

/-- A word of memory marked poisoned. -/
def poisonWord (s : State) (pa : Nat) : State :=
  s.setPoisons (setPoison s.homes.poison (sectorOf pa) (poisonSet s.homes.poison (sectorOf pa) ||| (1#12 <<< (pa % 48 / 4))))

/-- Bytes written at their homes at an address of a region, without checks; a page with no translation takes none. -/
def writeRegion (s : State) (rid va : Nat) (p : Part) : State :=
  (pagePieces (p.bytes.length / 4096 + 2) va p.bytes.length).foldl (fun s x =>
    match s.regionPhys rid x.1 with
    | none => s
    | some q =>
      let s := s.homeWriteAll q.key 0 (cellsFrom q.pa ((p.bytes.drop (x.1 - va)).take x.2))
      (p.bad.filter fun w => x.1 - va ≤ 4 * w && 4 * w < x.1 - va + x.2).foldl (fun s w => s.poisonWord (q.pa + (4 * w + va - x.1))) s) s

/-- Bytes read at their homes at an address of a region; a page with no translation reads as lost bytes. -/
def readRegion (s : State) (rid va n : Nat) : Part :=
  joinParts ((pagePieces (n / 4096 + 2) va n).map fun x =>
    match s.regionPhys rid x.1 with
    | none => ⟨(range x.1 x.2).map Config.lostByte, []⟩
    | some q => ⟨s.agentRead q.key q.pa x.2, (range 0 (x.2 / 4)).filter fun w => s.agentPoison (q.pa + 4 * w)⟩)

end State

/-! ## The warp image (R266, R267) -/

/-- R39: a reconvergence entry. -/
def StackEntry.bytes (e : StackEntry) : List Byte :=
  bytesOf 8 e.mode.toNat ++ bytesOf 4 e.jmask.toNat ++ bytesOf 4 e.pmask.toNat ++ bytesOf 6 e.ppc.toNat ++ bytesOf 6 e.jpc.toNat ++ zeros 4

/-- A reconvergence entry read back; MODE's reserved bits read as zero (R6). -/
def stackEntryAt (bs : List Byte) (o : Nat) : StackEntry :=
  ⟨BitVec.ofNat 48 (numAt bs (o + 22) 6), BitVec.ofNat 48 (numAt bs (o + 16) 6), BitVec.ofNat 32 (numAt bs (o + 12) 4),
    BitVec.ofNat 32 (numAt bs (o + 8) 4), definedMode (BitVec.ofNat 64 (numAt bs o 8))⟩

/-- R266: an array register: the fields of R180, VCOUNT and TGEN. -/
def ArrayReg.bytes (a : ArrayReg) : List Byte :=
  bytesOf 8 a.base.toNat ++ bytesOf 4 a.extent.toNat
    ++ bytesOf 1 ((if a.ro then 64 else 0) + 16 * a.check.toNat + a.esize.toNat) ++ bytesOf 2 a.vcount.toNat ++ bytesOf 2 a.tgen.toNat
    ++ zeros 15

/-- R266: an owned queue's record. -/
def Queue.part (q : Queue) : Part :=
  { bytes := q.prog.take 64 ++ zeros (64 - q.prog.length) ++ bytesOf 4 q.i0 ++ bytesOf 4 q.i1 ++ bytesOf 4 q.i2
      ++ bytesOf 4 q.entries.length ++ zeros 48 ++ q.entries.flatMap (fun e => laneBytes e.1)
      ++ zeros (128 * (16 - q.entries.length)) ++ zeros 128
    bad := ((range 0 q.entries.length).zip q.entries).flatMap fun x => if x.2.2 then range (32 + 32 * x.1) 32 else [] }

namespace State

/-- The queues a warp owns, ascending. -/
def ownedQueues (s : State) (w : Warp) : List (Nat × Queue) :=
  ((range 0 4).zip (s.core w.pcn).queues.toList).filter fun x => x.2.owner == some w.cw

/-- R267: the header of a warp image. -/
def imageHeader (s : State) (w : Warp) (state : Nat) : List Byte :=
  bytesOf 8 w.pc.toNat ++ bytesOf 8 w.mode.toNat ++ bytesOf 8 w.xs0.toNat ++ bytesOf 8 w.xs1.toNat ++ bytesOf 8 w.xpc.toNat
    ++ bytesOf 4 w.xmask.toNat ++ bytesOf 2 w.xcause.toNat ++ zeros 2 ++ bytesOf 8 w.xrec.toNat ++ bytesOf 4 w.active.toNat
    ++ bytesOf 1 w.flg.toNat ++ bytesOf 1 w.xrep.toNat ++ bytesOf 1 w.stack.length
    ++ bytesOf 1 (w.tdepth + if w.repip then 128 else 0)
    ++ bytesOf 1 (w.pin.toNat + if w.tileAcc then 16 else 0)
    ++ bytesOf 1 ((s.ownedQueues w).foldl (fun n x => n + 2 ^ x.1) 0)
    ++ bytesOf 1 (w.varch / 16) ++ bytesOf 1 (w.vren / 16) ++ bytesOf 1 (w.index.getD 255) ++ bytesOf 1 w.block ++ bytesOf 1 w.cw
    ++ bytesOf 1 state ++ zeros 4 ++ bytesOf 4 w.lastSeal.toNat ++ bytesOf 8 w.khdr ++ bytesOf 8 w.recVa
    ++ bytesOf 8 (BitVec.ofNat 64 s.clock + w.clkOff).toNat ++ zeros 152

/-- R266: a warp image. -/
def warpImage (s : State) (w : Warp) (state : Nat) : Part :=
  let fixed := s.imageHeader w state
    ++ (range 0 64).flatMap (fun i => scalarRecord (w.sreg.toList.getD i 0) (w.sshd.toList.getD i .unbounded))
    ++ (range 0 7).flatMap (fun i => bytesOf 4 (w.preg.toList.getD i 0).toNat) ++ zeros 36
    ++ w.areg.toList.flatMap ArrayReg.bytes
    ++ w.feeds.toList.flatMap laneBytes
    ++ w.stack.reverse.flatMap StackEntry.bytes ++ zeros (32 * (32 - w.stack.length)) ++ zeros 64
    ++ (range 0 w.varch).flatMap (fun i => vectorRecord (vregOf w i) (w.vshd.toList.getD i .unbounded))
  joinParts (⟨fixed, []⟩ :: (s.ownedQueues w).map fun x => x.2.part)

end State

/-- Bytes of a warp image with `n` owned queues. -/
def warpImageLen (varch n : Nat) : Nat := 3456 + 144 * varch + 2304 * n

/-! ## Blocks and gangs (R265) -/

namespace State

/-- The warps of a block that a save writes: by warp index, then those whose home block it is, by core warp number. -/
def blockWarps (s : State) (launch gang : Nat) (b : Block) : List Warp :=
  let ws := s.warps.filter fun w => ofGang launch gang w && w.block == b.index
  ((range 0 16).flatMap fun i => ws.filter fun w => w.index == some i)
    ++ ((range 0 32).flatMap fun i => ws.filter fun w => w.index.isNone && w.cw == i)

/-- R265: the block header. -/
def blockHeader (s : State) (launch gang : Nat) (b : Block) : List Byte :=
  let ws := s.warps.filter fun w => ofGang launch gang w && w.block == b.index && w.index.isSome && w.status != .halted
  let mask := fun (l : List Nat) => (ws.filter fun w => l.contains w.place).foldl (fun n w => n + 2 ^ (w.index.getD 0)) 0
  bytesOf 1 b.index ++ bytesOf 1 b.nwarp ++ bytesOf 1 b.scratch ++ bytesOf 1 (if b.abandoned then 1 else 0)
    ++ bytesOf 2 (mask (ws.map Warp.place)) ++ zeros 58
    ++ b.barriers.toList.flatMap fun r => bytesOf 2 (mask r.arrived) ++ bytesOf 2 r.phase ++ zeros 4

/-- A block's window. -/
def windowPart (s : State) (b : Block) : Part :=
  let c := s.core b.pcn
  { bytes := c.sram.read (b.unit * 32768) (b.scratch * 32768)
    bad := (c.sramPoison.filter fun w => b.unit * 8192 ≤ w && w < (b.unit + b.scratch) * 8192).map (· - b.unit * 8192) }

/-- R265: the image of a gang. `state` gives each warp's STATE. A block that has retired is left out of it and of NBLOCK (DESIGN CHOICE, log
92). -/
def gangImage (s : State) (g : Gang) (khdr : Nat) (state : Warp → Nat) : Part :=
  let blocks := g.blocks.filter fun b => !b.retired
  let spawned := (s.warps.filter fun w => ofGang g.launch g.index w && w.index.isNone).length
  let header := bytesOf 1 blocks.length ++ bytesOf 1 spawned ++ zeros 2 ++ bytesOf 4 g.index ++ bytesOf 8 khdr
    ++ bytesOf 8 s.gtime ++ zeros 168
  joinParts ((⟨header, []⟩ : Part).padded :: blocks.flatMap fun b =>
    (⟨s.blockHeader g.launch g.index b, []⟩ : Part).padded :: (s.windowPart b).padded ::
      (s.blockWarps g.launch g.index b).map fun w => (s.warpImage w (state w)).padded)

/-- Bytes an image of a gang would take now. -/
def gangImageLen (s : State) (g : Gang) : Nat :=
  (g.blocks.filter fun b => !b.retired).foldl (fun n b =>
    (s.blockWarps g.launch g.index b).foldl (fun n w =>
      n + (warpImageLen w.varch (s.ownedQueues w).length + 63) / 64 * 64) (n + 192 + b.scratch * 32768)) 192

end State

/-! ## Reading images back (R268) -/

/-- A warp as its image holds it, before it is given a place: the warp, its STATE, and its queues. -/
structure Saved where
  warp : Warp
  state : Nat
  queues : List (Nat × List Byte × List Nat)
deriving DecidableEq, Repr

/-- R190, R268: a warp image read back: every register from its record. `launch`, `gang`, `rid`: what it belongs to. What `srd` returns
of BLOCK and WARP stays within the bounds of R38, and a register of a pinned tile has no bound (R24, R207), whatever has happened
to the image. -/
def savedWarp (bs : List Byte) (bad : List Nat) (launch gang rid trapvec : Nat) : Saved :=
  let f := numAt bs
  let owned := f 65 1
  let varch := 16 * f 66 1
  let depth := f 62 1
  let pin := f 64 1
  let queues := ((range 0 4).filter fun q => owned / 2 ^ q % 2 = 1)
  let qbase := 3456 + 144 * varch
  { state := f 71 1
    queues := ((range 0 queues.length).zip queues).map fun x =>
      (x.2, (bs.drop (qbase + 2304 * x.1)).take 2304,
        (bad.filter fun w => qbase + 2304 * x.1 ≤ 4 * w && 4 * w < qbase + 2304 * (x.1 + 1)).map (· - (qbase + 2304 * x.1) / 4))
    warp := { Warp.start with
      status := .ready, launch := launch, gang := gang, rid := rid, block := f 69 1 % 4,
      index := if f 68 1 = 255 then none else some (f 68 1 % 16),
      khdr := f 80 8, varch := varch, vren := 16 * f 67 1, trapvec := trapvec, recVa := f 88 8,
      pc := BitVec.ofNat 48 (f 0 6), mode := definedMode (BitVec.ofNat 64 (f 8 8)), xs0 := BitVec.ofNat 64 (f 16 8), xs1 := BitVec.ofNat 64 (f 24 8),
      xpc := BitVec.ofNat 48 (f 32 8), xmask := BitVec.ofNat 32 (f 40 4), xcause := BitVec.ofNat 16 (f 44 2),
      xrec := definedXrec (BitVec.ofNat 64 (f 48 8)), active := BitVec.ofNat 32 (f 56 4), flg := BitVec.ofNat 8 (f 60 1),
      xrep := BitVec.ofNat 6 (f 61 1), tdepth := f 63 1 % 64, repip := f 63 1 / 128 = 1,
      pin := BitVec.ofNat 4 pin, tileAcc := pin / 16 % 2 = 1, lastSeal := BitVec.ofNat 32 (f 76 4),
      clkOff := BitVec.ofNat 64 (f 96 8),
      sreg := Vector.ofFn fun i : Fin 64 => if i.val = 0 then 0 else BitVec.ofNat 64 (f (256 + 16 * i.val) 8),
      sshd := Vector.ofFn fun i : Fin 64 => if i.val = 0 then .bounded 0 0 else scalarRecordShadow ((bs.drop (256 + 16 * i.val)).take 16),
      preg := Vector.ofFn fun i : Fin 8 => if i.val = 7 then 0 else BitVec.ofNat 32 (f (1280 + 4 * i.val) 4),
      areg := Vector.ofFn fun i : Fin 16 =>
        let o := 1344 + 32 * i.val
        { ArrayReg.start with
          base := BitVec.ofNat 48 (f o 8), extent := BitVec.ofNat 31 (f (o + 8) 4), esize := BitVec.ofNat 4 (f (o + 12) 1),
          check := BitVec.ofNat 2 (f (o + 12) 1 / 16), ro := f (o + 12) 1 / 64 % 2 = 1, vcount := BitVec.ofNat 16 (f (o + 13) 2),
          tgen := BitVec.ofNat 16 (f (o + 15) 2) },
      feeds := Vector.ofFn fun i : Fin 4 => lanesFrom ((bs.drop (1856 + 128 * i.val)).take 128),
      stack := ((range 0 (min depth 32)).map fun e => stackEntryAt bs (2368 + 32 * e)).reverse,
      vreg := Vector.ofFn fun i : Fin 128 => if i.val < varch then lanesFrom ((bs.drop (3456 + 144 * i.val)).take 128) else Vector.replicate 32 0,
      vshd := Vector.ofFn fun i : Fin 128 =>
        if varch ≤ i.val then .bounded 0 0
        else if inTile (pin / 16 % 2 = 1) (BitVec.ofNat 4 pin) i.val then .unbounded
        else recordShadow ((bs.drop (3456 + 144 * i.val)).take 144) } }

/-- R256: a queue from its record, for a warp that has its array registers again. -/
def savedQueue (w : Warp) (bs : List Byte) (bad : List Nat) (suppressed : Bool) : Queue :=
  let p := streamOf (bs.take 64)
  let a := if p.scratch then ArrayReg.start else w.areg.get (aIdx p.areg)
  let ready := min 16 (numAt bs 76 4)
  let i0 := numAt bs 64 4
  let i1 := numAt bs 68 4
  let i2 := numAt bs 72 4
  let first := (i2 * p.n1 + i1) * p.n0 + i0
  { owner := some w.cw, prog := bs.take 64, suppressed := suppressed, areg := a, i0 := i0, i1 := i1, i2 := i2,
    entries := (range 0 ready).map fun e => (lanesFrom ((bs.drop (128 + 128 * e)).take 128), bad.any fun x => x / 32 = e + 1),
    remain := p.entries a - (first * p.size a + 127) / 128 }

end Sys2Proof.Machine
end

