-- ==== Sys2Proof/Machine/Halts.lean ====
section
/-!
DEFINITION. Halts and dumps (R255, R269, R273-R278, R280-R282, R290).
-/

namespace Sys2Proof.Machine

namespace State

/-! ## What halts share -/

/-- A warp's permit given back, and its delivery withdrawn: the coalescer forgets it (R264, R270, R272). -/
def withdrawTrap (s : State) : State :=
  let w := s.warp
  let s := s.modifyCore w.pcn fun c => { c with
    permits := if w.permit then c.permits + 1 else c.permits
    coalesced := (c.coalesced.map fun x => { x with warps := x.warps &&& ~~~(1#32 <<< w.cw) }).filter fun x => x.warps != 0 }
  { s with warp := { s.warp with permit := false } }

/-- R264 step 1: the current warp becomes DRAINING and dispatches nothing more; a TRAPPED one's delivery is withdrawn. -/
def beginDrain (s : State) : State :=
  if s.warp.status = .halted ∨ s.warp.status = .draining then s
  else
    let s := s.withdrawTrap
    { s with warp := { s.warp with status := .draining } }

/-- The instruction a draining warp had executed retires (R264 step 2, R216): a claimed `tst.a` stores its version, a `mop` that waits
for its vote takes it; what had retired performs. A `tldv` between two tries has not executed: it is squashed, and makes its 64 tries
afresh (R222 does not say: DESIGN CHOICE, log 63). -/
def finishExecuted (s : State) : State :=
  match s.warp.wait with
  | some (.tstA _ k _ _ (some c)) => s.drain.versionStore k c
  | some (.dup t a b negative) => s.drain.voteMop t a b negative
  | _ => s.drain

/-- A draining warp whose barrier phase has completed leaves the barrier (R264 step 2); one that has arrived a second time is counted in
the next phase (R253). -/
def leaveBarrier (s : State) : State :=
  match s.warp.wait with
  | some (.bar d id phase) => s.tryBar d id phase false
  | some (.gbar d id phase) => s.tryBar d id phase true
  | some (.barTwice d id phase stay gang) => s.tryBarTwice d id phase stay gang
  | _ => s

/-- R255, R290: the home block of a warp becomes abandoned, and with it its gang. -/
def abandon (s : State) (launch gang block : Nat) : State :=
  (s.modifyBlock launch gang block fun b => { b with abandoned := true }).modifyGang launch gang fun g => { g with abandoned := true }

/-- The current warp's slot given up after a halt: its queues go, its registers are unallotted, its block may retire. -/
def releaseHalted (s : State) : State :=
  let w := s.warp
  ((s.freeQueues w.pcn w.cw).freeSlot).retireBlocks w.launch w.gang

/-- The current warp marked HALTED. -/
def markHalted (s : State) (cause : BitVec 16) : State :=
  let s := s.lunaWarp 0x13 (cause.setWidth 64)
  { s.squash with warp := { s.squash.warp with status := .halted, haltCause := cause, pending := [] } }

/-! ## Warp halt (R273) -/

/-- Whether the current warp drains for a warp halt. -/
def warpHalting (w : Warp) : Bool :=
  w.status == .draining && (match w.pending with | r :: _ => r.cause == cUE || r.cause == cGRID | [] => false)

/-- WARP_HALT (R273): the current warp's executed instructions and copies end, it becomes HALTED and departs from its barriers, its
block is abandoned, and the region's policy applies. A copy that waits for another module holds the halt back. The time of the halt
that the dump names is the end of this drain (DESIGN CHOICE, log 90). -/
def haltWarp (s : State) : State :=
  let s := s.finishExecuted.finishCopies s.warp.pcn s.warp.cw
  if !s.copiesDone s.warp.pcn s.warp.cw then s
  else
    let w := s.warp
    let first := w.pending.head?
    let cause := (first.map FaultRec.cause).getD 0
    let headers := (s.blockAt? w.launch w.gang w.block).toList.map fun b => (b.index, s.blockHeader w.launch w.gang b)
    let s := (s.markHalted cause).noteFailure w.launch w.gang cause
    let s : State := { s with warp := { s.warp with departed := true } }
    let s := (s.abandon w.launch w.gang w.block).departBarriers w.launch w.gang w.block w.place
    let policy := s.policyOf w.rid
    if policy = 2 then
      s.modifyRegion w.rid fun r => { r with dumps := r.dumps ++ [⟨w.launch, w.gang, some (w.pcn, w.cw), s.gtime, first, headers⟩] }
    else if policy = 3 then (s.askLaunchHalt w.launch true).releaseHalted
    else if policy = 1 then
      -- the halt notice carries the records (R269)
      (s.report 0x269 (w.pcn :: w.cw :: cause.toNat :: (w.records.flatMap FaultRec.bytes).map BitVec.toNat)).releaseHalted
    else s.releaseHalted

/-! ## Gang halt (R274) -/

/-- GANG_HALT (R274): a halt that has been asked for is sent to every core of the gang. It goes before an eviction, which is abandoned:
the room kept for an image is given back. -/
def sendHalt (s : State) (launch gang : Nat) : State :=
  match s.gang? launch gang with
  | none => s
  | some g =>
    if g.asked ∧ g.state = .placed then
      (s.freeImage launch gang).modifyGang launch gang fun g =>
        { g with state := .halting, asked := false, victim := false,
                 toHalt := (g.blocks.filter fun b => !b.retired).map Block.pcn }
    else s

/-- A drain fault kept for the gang's dump (R274, R278). -/
def drainFault (s : State) (r : FaultRec) : State :=
  s.modifyGang s.warp.launch s.warp.gang fun g => { g with second := g.second ++ [r] }

/-- R278: the record of a GRID_FAULT that a drain compare of the current warp finds; R90 gives its ordinal. -/
def gridRecord (s : State) : FaultRec :=
  { cause := cGRID, writes := false, whole := true, inRep := false, count := 0, lanes := 0, addr := 0, pc := s.warp.pc,
    ordinal := s.ordinalOf s.warp.launch s.warp.pc.toNat, areg := 0xFF, detail := 0, repidx := 0 }

/-- R274: the current warp drained by a gang halt and marked HALTED. A warp that was in a warp halt is absorbed: its fault is kept as a
drain fault, also when it is HALTED already and its own dump has not begun. A fault that its drain meets is a drain fault too. -/
def haltDrained (s : State) : State :=
  if s.warp.status = .halted then
    match s.warp.records with
    | r :: _ => s.drainFault r
    | [] => s
  else
    let s := match s.warp.pending with
      | r :: _ => if warpHalting s.warp then s.drainFault r else s
      | [] => s
    let absorbed := warpHalting s.warp
    let s := s.withdrawTrap.finishExecuted.leaveBarrier
    let s := match s.warp.pending with
      | r :: _ => if warpHalting s.warp && !absorbed then s.drainFault r else s
      | [] => s
    let c := s.compareEach (pinnedTiles s.warp)
    let s := if c.2 then c.1 else c.1.drainFault c.1.gridRecord
    s.markHalted ((s.warp.pending.head?.map FaultRec.cause).getD 0)

/-- The slots of a halted gang freed; the gang retires (R263, R274). -/
def releaseGang (s : State) (launch gang : Nat) : State :=
  (s.onWarps (ofGang launch gang) fun s => ((s.freeQueues s.warp.pcn s.warp.cw).freeSlot)).retireBlocks launch gang

/-- GANG_HALT_RECEIPT (R274): a core of the gang drains its warps and marks them HALTED; while a copy waits for another module they are
DRAINING. After the last core a dump that is owed waits its turn, or the gang retires. Dumps of a region come in the order in which
their halts' drains end (DESIGN CHOICE, log 89). -/
def receiveHalt (s : State) (pcn launch gang : Nat) : State :=
  match s.gang? launch gang with
  | none => s
  | some g =>
    if g.state ≠ .halting ∨ !g.toHalt.contains pcn then s
    else
      let mine := fun (w : Warp) => ofGang launch gang w && w.pcn == pcn
      let s := s.onWarps mine beginDrain
      let s := (s.warpsOn pcn).foldl (fun s w => if mine w then s.finishCopies pcn w.cw else s) s
      if (s.warpsOn pcn).any fun w => mine w && !s.copiesDone pcn w.cw then s
      else
        let headers := (g.blocks.filter fun b => b.pcn == pcn && !b.retired).map fun b => (b.index, s.blockHeader launch gang b)
        let s := s.onWarps mine haltDrained
        let s := s.modifyGang launch gang fun g =>
          { g with toHalt := g.toHalt.filter (· != pcn), headers := g.headers ++ headers }
        match s.gang? launch gang with
        | none => s
        | some g =>
          if !g.toHalt.isEmpty then s
          else
            -- the warp dumps of absorbed warps are not written (R274)
            let s := s.modifyRegion g.rid fun r => { r with dumps := r.dumps.filter fun j =>
              !(j.launch == launch && j.gang == gang && j.warp.isSome) }
            if g.dumpDue then
              s.modifyRegion g.rid fun r => { r with dumps := r.dumps ++ [⟨launch, gang, none, g.haltAt, g.halt, []⟩] }
            else s.releaseGang launch gang

/-! ## Dumps (R275-R278, R281, R282) -/

end State

/-- R282: the record of a fault of the dump itself. -/
def dumpRecord (t : Trouble) : FaultRec :=
  { cause := t.cause, writes := true, whole := true, inRep := false, count := 0, lanes := 0, addr := t.addr, pc := 0, ordinal := 0,
    areg := 0xFF, detail := BitVec.ofNat 8 t.detail, repidx := 0 }

/-- Why a dump stops (R278). -/
inductive DumpStop where
  | full
  | fault (t : Trouble)
deriving DecidableEq, Repr

/-- A section to write (R275): KIND, BLOCK, WARP, its body, and the fault that reading its byte n meets, if any. -/
structure DumpSection where
  kind : Nat
  block : Nat
  warp : Nat
  body : Part
  hurt : Option (Nat × Trouble)
deriving DecidableEq, Repr

/-- How far a dump has come: offset past the last byte written, sections written, why it stopped. -/
structure DumpState where
  last : Nat
  sections : Nat
  stop : Option DumpStop
deriving DecidableEq, Repr

namespace State

/-- R281: where a byte of the dump area lies for a write, or the fault. -/
def dumpPlace (s : State) (r : Region) (va : Nat) : Except Trouble Phys :=
  if 2 ^ 48 ≤ va then .error ⟨cTRANSLATION, 5, BitVec.ofNat 64 va⟩
  else match s.walk r.ptroot va with
    | .error level => .error ⟨cTRANSLATION, level, BitVec.ofNat 64 va⟩
    | .ok (level, e) =>
      match forbids r.keyid .write e with
      | some d => .error ⟨cPERMISSION, d, BitVec.ofNat 64 va⟩
      | none => .ok ⟨leafPa level e va, pteKey e, pteAttr e == 1⟩

/-- The pieces of a range of a region's addresses that lie in one 48-byte sector of physical memory each (R5): address and length. A
sector that runs on past a page ends with it where the next page lies elsewhere in physical memory; where the next page has no
translation it stays whole, and cannot be written (R281). An address without a translation begins a piece that ends with its page. -/
def sectorPieces (s : State) (r : Region) : Nat → Nat → Nat → List (Nat × Nat)
  | 0, _, _ => []
  | fuel + 1, va, n =>
    if n = 0 then []
    else
      let place := fun (va : Nat) => match s.walk r.ptroot va with
        | .ok (level, e) => some (leafPa level e va)
        | .error _ => none
      let here := 4096 - va % 4096
      let k := match place va with
        | none => min n here
        | some pa =>
          let k := min n (48 - pa % 48)
          if k ≤ here || (place (va + here)).all (· == pa + here) then k else here
      (va, k) :: s.sectorPieces r fuel (va + k) (n - k)

/-- R278: the UE of a write of n bytes of a dump: the first poisoned word there (DEDUCED, log 72). -/
def dumpUE (s : State) (r : Region) (va n : Nat) : Option Trouble :=
  (pagePieces 2 va n).findSome? fun x => match s.dumpPlace r x.1 with
    | .ok q => ((range 0 x.2).find? fun o => s.agentPoison (q.pa + o)).map fun o => ⟨cUE, 0, BitVec.ofNat 64 (x.1 + o)⟩
    | .error _ => none

/-- R281: one sector of a dump written whole, or why not: the end of the area, or the first byte that cannot be written. -/
def dumpSector (s : State) (r : Region) (va : Nat) (p : Part) : Except DumpStop State :=
  let n := p.bytes.length
  if r.dumpbase + r.dumplen < va + n then .error .full
  else match (pagePieces 2 va n).findSome? fun x => match s.dumpPlace r x.1 with | .error t => some t | .ok _ => none with
    | some t => .error (.fault t)
    | none => match s.dumpUE r va n with
      | some t => .error (.fault t)
      | none =>
      .ok ((pagePieces 2 va n).foldl (fun s x => match s.dumpPlace r x.1 with
        | .error _ => s
        | .ok q =>
          let s := s.homeWriteAll q.key 0 (cellsFrom q.pa ((p.bytes.drop (x.1 - va)).take x.2))
          (p.bad.filter fun o => x.1 - va ≤ o && o < x.1 - va + x.2).foldl (fun s o => s.poisonWord (q.pa + (o + va - x.1))) s) s)

/-- R281: bytes written in ascending order a sector at a time: the bytes written, and why it stopped. The sectors of a body that
cannot be read are not written. `bad` of a sector holds byte offsets. -/
def dumpBody (s : State) (r : Region) (start : Nat) (body : Part) (hurt : Option (Nat × Trouble)) :
    List (Nat × Nat) → Nat → State × Nat × Option DumpStop
  | [], done => (s, done, none)
  | x :: rest, done =>
    let o := x.1 - start
    let p : Part := ⟨(body.bytes.drop o).take x.2, (body.bad.filter fun w => o ≤ 4 * w && 4 * w < o + x.2).map fun w => 4 * w - o⟩
    match hurt.filter fun h => o ≤ h.1 && h.1 < o + x.2 with
    | some h => (s, done, some (.fault h.2))
    | none =>
      match s.dumpSector r x.1 p with
      | .error e => (s, done, some e)
      | .ok s => dumpBody s r start body hurt rest (done + x.2)

/-- The sectors of a body. -/
def bodySectors (s : State) (r : Region) (va n : Nat) : List (Nat × Nat) := s.sectorPieces r (n / 48 + n / 4096 + 3) va n

/-- R275, R278, R281: one section at the next multiple of 64 bytes, unless the dump has stopped. `base`: the dump's address. A section
whose header cannot be written whole keeps STATUS 0 in the part written, and is not counted (DESIGN CHOICE, log 34). -/
def dumpSection (s : State) (r : Region) (base : Nat) (d : DumpState) (x : DumpSection) : State × DumpState :=
  if d.stop.isSome then (s, d)
  else
    let o := (d.last + 63) / 64 * 64
    let header := fun (status n : Nat) => bytesOf 1 x.kind ++ bytesOf 1 x.block ++ bytesOf 1 x.warp ++ bytesOf 1 status
      ++ bytesOf 4 (crc32c (x.body.bytes.take n)).toNat ++ bytesOf 8 n ++ zeros 16
    let put := fun (s : State) (bs : List Byte) => s.dumpBody r (base + o) ⟨bs, []⟩ none (s.bodySectors r (base + o) 32) 0
    -- the header's place must take it before its body is written
    let t := put s (header 0 0)
    match t.2.2 with
    | some e => (t.1, { d with stop := some e, last := if t.2.1 = 0 then d.last else o + t.2.1 })
    | none =>
      let u := t.1.dumpBody r (base + o + 32) x.body x.hurt (s.bodySectors r (base + o + 32) x.body.bytes.length) 0
      let v := put u.1 (header (if u.2.2.isSome then 1 else 0) u.2.1)
      (v.1, { last := o + 32 + u.2.1, sections := d.sections + 1, stop := u.2.2 })

/-- R275, R281: the sections of one block. `only`: of a warp halt, that warp's register section alone. -/
def blockSections (s : State) (launch gang : Nat) (b : Block) (only : Option (Nat × Nat)) (header : List Byte) : List DumpSection :=
  let ws := (s.blockWarps launch gang b).filter fun w => match only with | none => true | some p => (w.pcn, w.cw) == p
  let registers := ws.map fun w => (⟨1, b.index, (match w.index with | some i => i | none => 0x20 + w.cw), s.warpImage w 3, none⟩ : DumpSection)
  let win := s.windowPart b
  let hurt := win.bad.foldl (fun (m : Option Nat) w => match m with | none => some w | some k => some (min k w)) none
  registers ++
    [⟨2, b.index, 0xFF, ⟨win.bytes, []⟩, hurt.map fun w => (4 * w, ⟨cUE, 0, BitVec.ofNat 64 (b.pcn % 4 * 2 ^ 19 + 4 * w)⟩)⟩,
     ⟨3, b.index, 0xFF, ⟨header, []⟩, none⟩]

/-- R276: the dump header. -/
def dumpHeader (j : DumpJob) (nblock place flags seq next length sections cause2 extra : Nat) (hwarp : Nat)
    (second : Option FaultRec) : List Byte :=
  let record := fun (r : Option FaultRec) => match r with | some r => r.bytes | none => zeros 32
  bytesOf 4 0x504D5544 ++ zeros 4 ++ bytesOf 2 1 ++ bytesOf 2 flags
    ++ bytesOf 2 ((j.first.map FaultRec.cause).getD 0).toNat ++ bytesOf 2 cause2 ++ bytesOf 8 length ++ bytesOf 8 j.gtime
    ++ record j.first ++ record second ++ bytesOf 4 sections ++ bytesOf 2 place ++ bytesOf 1 hwarp ++ bytesOf 1 nblock
    ++ bytesOf 4 extra ++ bytesOf 4 j.gang ++ bytesOf 8 next ++ bytesOf 4 seq ++ zeros 132

/-- DUMP (R275-R278): the oldest dump a region owes is written; then the halt completes. `upset`: a register-file read that fails,
by section (from 1) and byte of its warp image. Of a halt without a fault the block on the core of the free value `haltPlace` comes
first (DESIGN CHOICE, log 34). -/
def writeDump (s : State) (rid : Nat) (upset : Option (Nat × Nat)) : State :=
  match s.region? rid with
  | none => s
  | some r =>
    match r.dumps with
    | [] => s
    | j :: rest =>
      match s.gang? j.launch j.gang with
      | none => s.modifyRegion rid fun r => { r with dumps := rest }
      | some g =>
        let seq := r.dumpSeq + 1
        let base := r.dumpPtr
        let finish := fun (s : State) =>
          match j.warp with
          | none => s.releaseGang j.launch j.gang
          | some p => s.onWarp p.1 p.2 releaseHalted
        let place := j.warp.getD (match g.halt with
          | some _ => g.haltBy
          | none => ((Config.haltPlace j.launch j.gang).1.toNat, (Config.haltPlace j.launch j.gang).2.toNat))
        let header := fun (flags next length sections cause2 extra : Nat) (second : Option FaultRec) =>
          dumpHeader j g.blocks.length place.1 flags seq next length sections cause2 extra place.2 second
        let lost := fun (s : State) (cause2 : Nat) =>
          finish ((s.report 0x277 [rid, seq, ((j.first.map FaultRec.cause).getD 0).toNat, cause2]).modifyRegion rid fun r =>
            { r with dumps := rest, dumpSeq := seq })
        let first := header 0 0 0 0 0 0 none
        let seconds := if j.warp.isSome then [] else g.second
        let drained := ((seconds.head?.map FaultRec.cause).getD 0).toNat
        let places := s.bodySectors r base 256
        if r.dumpbase + r.dumplen < base + 256 then lost s drained
        else match s.dumpSector r base ⟨first.take ((places.headD (base, 0)).2), []⟩ with
          | .error (.fault t) => lost s t.cause.toNat
          | .error .full => lost s drained
          | .ok s1 =>
            let h := s1.dumpBody r base ⟨first, []⟩ none places 0
            let live : List Block := g.blocks.filter fun b => !b.retired
            let blocks : List Block := match j.warp with
              | some p => live.filter fun (b : Block) => (s.warpAt? p.1 p.2).any fun (w : Warp) => w.block == b.index
              | none => (live.filter fun b => b.pcn == place.1) ++ live.filter fun b => b.pcn != place.1
            let headers := j.headers ++ g.headers
            let sections : List DumpSection := blocks.flatMap fun b =>
              s.blockSections j.launch j.gang b j.warp (((headers.find? fun x => x.1 == b.index).map Prod.snd).getD
                (s.blockHeader j.launch j.gang b))
            let sections : List DumpSection := match upset with
              | none => sections
              | some u => ((range 1 sections.length).zip sections).map fun x =>
                  if x.1 = u.1 ∧ x.2.kind = 1 then { x.2 with hurt := some (u.2, ⟨cUE, 0, BitVec.ofNat 64 u.2⟩) } else x.2
            let w := sections.foldl (fun (acc : State × DumpState) x => acc.1.dumpSection r base acc.2 x)
              (h.1, { last := h.2.1, sections := 0, stop := h.2.2 })
            let d := w.2
            let own : Option FaultRec := match d.stop with | some (.fault t) => some (dumpRecord t) | _ => none
            let second := match own with | some r => some r | none => seconds.head?
            let extra := min (2 ^ 32 - 1) (seconds.length - (if own.isSome then 0 else 1))
            let truncated : Bool := own.isSome
            let full := d.stop == some .full
            let flags := (if truncated || full then 0 else 1) + (if truncated then 2 else 0) + (if full then 4 else 0)
            let next := (d.last + 4095) / 4096 * 4096
            let final := header flags next d.last d.sections ((second.map FaultRec.cause).getD 0).toNat extra second
            let s2 := (w.1.dumpBody r base ⟨final, []⟩ none places 0).1
            finish (s2.modifyRegion rid fun r => { r with dumps := rest, dumpSeq := seq, dumpPtr := base + next })

end State

end Sys2Proof.Machine
end

