-- ==== Sys2Proof/Machine/CoreEvents.lean ====
section
/-!
DEFINITION. The steps of cores that have no word: what a waiting warp waits for, Hawkmoth's sectors and arrivals, the store buffer,
line fills, errors, duplicates, barriers, trap delivery, the answers of a handler, and halts. Each acts on `subject`; where what it
needs does not hold, nothing happens.
-/

namespace Sys2Proof.Machine

namespace State

/-! ## A waiting warp (R257) -/

/-- The current warp tries what it waits for. -/
def tryOnce (s : State) : State :=
  match s.warp.wait with
  | none => s
  | some (.cwait b) => s.tryCwait b
  | some (.cseal d) => s.tryCseal d
  | some (.copySlot op k a) => s.tryCopy op k a
  | some (.waitg addr g) => s.tryWaitg addr g
  | some (.waitw addr was) => s.tryWaitw addr was
  | some (.waitwG va was) => s.againWaitwG va was
  | some (.bar d id phase) => s.tryBar d id phase false
  | some (.gbar d id phase) => s.tryBar d id phase true
  | some (.barTwice d id phase stay gang) => s.tryBarTwice d id phase stay gang
  | some (.spawnW d hdr) => s.trySpawn d hdr true
  | some (.tstA t k x m none) => s.tryTstA t k x m
  | some (.tstA _ k _ _ (some c)) => s.drain.versionStore k c
  | some (.tldv t k x y tries) => s.tryTldv t k x y tries
  | some (.qpop d q) => s.tryQpop d q
  | some (.dup t a b negative) => s.voteMop t a b negative
  | some .coalescer => (match s.warp.pending with
    | r :: _ => if (s.trapmodeOf s.warp.rid).getLsbD 0 && !s.monarch.hostAttached then s.askGangHalt (some r) false
      else s.coalesceTrap r
    | [] => s)
  | some (.inWarpStop _) => s

/-- The word the current warp would run next: of a `rep`, the word it repeats. -/
def nextWord? (s : State) : Option Word :=
  match s.warp.rep with
  | some r => some r.word
  | none => match s.fetchWord s.warp.pcn s.warp.pc.toNat with
    | .ok (w, _) => some w
    | .error _ => none

/-- Whether the current warp's instruction has retired between two states: it has not stopped, does not wait at it, and has not entered
its handler from it. -/
def retiredFrom (s t : State) : Bool :=
  t.warp.status == .free || (t.warp.status == .ready && t.warp.wait.isNone && t.warp.pending.isEmpty
    && !(s.warp.xcause == 0 && t.warp.xcause != 0 && t.warp.xpc == s.warp.pc && t.warp.pc == BitVec.ofNat 48 (s.warp.khdr + s.warp.trapvec)))

/-- R380: the sample a core owes is taken when a warp retires a word with S = 1: `w` is the word that ran, `s` the state it ran in, `t`
what it left. -/
def takeSample (s t : State) (w : Word) : State :=
  if s.myCore.sampleDue && w.getLsbD 31 && s.retiredFrom t then
    (t.modifyCore s.warp.pcn fun c => { c with sampleDue := false }).luna (clusterOf s.warp.pcn) 0x22 (whoOf s.warp.pcn s.warp.cw) 0
      (s.ordinalOf s.warp.launch s.faultPc.toNat) (s.warp.pc.setWidth 32 |>.setWidth 64)
  else t

/-- R380: the sample of a word that a warp retires after it has waited. -/
def sampled (s t : State) : State := if s.myCore.sampleDue then s.nextWord?.elim t (s.takeSample t) else t

/-- The current warp tries what it waits for; a block whose window it has waited on may retire after it (R263). -/
def tryWait (s : State) : State :=
  let t := s.sampled s.tryOnce
  match s.warp.wait, t.warp.wait with
  | some (.waitg ..), none | some (.waitw ..), none => t.retireBlocks s.warp.launch s.warp.gang
  | _, _ => t

/-- Whether a warp waits for something it can try for, WAITING or, at an instruction that keeps its issue slots, READY (R257). -/
def tries (w : Warp) : Bool := w.wait.isSome && (w.status == .waiting || w.status == .ready)

/-- What the step at hand acts on: the warp at its place, when it waits for something of a kind. -/
def onWaiter (s : State) (kind : Wait → Bool) (f : State → State) : State :=
  s.onWarp s.subject.pcn s.subject.cw fun t =>
    if tries t.warp ∧ (t.warp.wait.any kind) then f t else t

/-- The warp at the subject's place, when it has a property. -/
def onSubject (s : State) (p : Warp → Bool) (f : State → State) : State :=
  s.onWarp s.subject.pcn s.subject.cw fun t => if p t.warp then f t else t

end State

/-! ## Waits -/

/-- COPY_SLOT_GRANT (R239). -/
def execCopySlotGrant (s : State) : Out := .next (s.onWaiter (fun | .copySlot .. => true | _ => false) State.tryWait)
/-- CSEAL_UNBLOCK (R242). -/
def execCsealUnblock (s : State) : Out := .next (s.onWaiter (fun | .cseal .. => true | _ => false) State.tryWait)
/-- CWAIT_SATISFIED (R243). -/
def execCwaitSatisfied (s : State) : Out := .next (s.onWaiter (fun | .cwait .. => true | _ => false) State.tryWait)
/-- WAITG_SATISFIED (R245). -/
def execWaitgSatisfied (s : State) : Out := .next (s.onWaiter (fun | .waitg .. => true | _ => false) State.tryWait)
/-- WAITW_SATISFIED (R246). -/
def execWaitwSatisfied (s : State) : Out := .next (s.onWaiter (fun | .waitw .. => true | _ => false) State.tryWait)
/-- WAITW_G_SATISFIED (R247). -/
def execWaitwGSatisfied (s : State) : Out := .next (s.onWaiter (fun | .waitwG .. => true | _ => false) State.tryWait)
/-- QPOP_ENTRY_READY (R251). -/
def execQpopEntryReady (s : State) : Out := .next (s.onWaiter (fun | .qpop .. => true | _ => false) State.tryWait)
/-- SPAWN_W_RETRY (R259). -/
def execSpawnWRetry (s : State) : Out := .next (s.onWaiter (fun | .spawnW .. => true | _ => false) State.tryWait)
/-- TST_A_TRY (R221). -/
def execTstATry (s : State) : Out := .next (s.onWaiter (fun | .tstA _ _ _ _ none => true | _ => false) State.tryWait)
/-- TST_A_VERSION_STORE (R221): every sector of the image has been registered. -/
def execTstAVersionStore (s : State) : Out :=
  .next (s.onSubject (fun w => State.tries w && w.stores.isEmpty) fun t =>
    match t.warp.wait with
    | some (.tstA _ k _ _ (some c)) => t.sampled (t.versionStore k c)
    | _ => t)
/-- TLDV_TRY (R222). -/
def execTldvTry (s : State) : Out := .next (s.onWaiter (fun | .tldv .. => true | _ => false) State.tryWait)
/-- ROTATED_DUPLICATE (R229): the duplicate runs in a free cycle of the pipe, and the vote is taken. -/
def execRotatedDuplicate (s : State) : Out := .next (s.onWaiter (fun | .dup .. => true | _ => false) State.tryWait)
/-- DUPLICATE_PIPE_HOLD (R229): after 16 cycles the pipe is held for a cycle, in which the duplicate runs. -/
def execDuplicatePipeHold (s : State) : Out := .next (s.onWaiter (fun | .dup .. => true | _ => false) State.tryWait)

/-- BARRIER_PHASE_COMPLETE (R253): a phase that all participants have reached completes; those who wait for it go on. -/
def execBarrierPhaseComplete (s : State) : Out :=
  let x := s.subject
  let id := BitVec.ofNat 4 x.id
  .next ((s.settleBlock x.launch x.gang x.block id).onWarps
    (fun w => State.ofGang x.launch x.gang w && w.block == x.block && w.status == .waiting &&
      w.wait.any fun | .bar _ i _ => i == id | .barTwice _ i _ _ false => i == id | _ => false) State.tryWait)
/-- GANG_BARRIER_PHASE_COMPLETE (R288). -/
def execGangBarrierPhaseComplete (s : State) : Out :=
  let x := s.subject
  let id := BitVec.ofNat 4 x.id
  .next ((s.settleGang x.launch x.gang id).onWarps
    (fun w => State.ofGang x.launch x.gang w && w.status == .waiting &&
      w.wait.any fun | .gbar _ i _ => i == id | .barTwice _ i _ _ true => i == id | _ => false) State.tryWait)

/-! ## Hawkmoth (R236, R240, R250) -/

/-- COPY_SECTOR_WRITE (R240, R241): one destination sector of a copy, or one element of an `ascadd`. -/
def execCopySectorWrite (s : State) : Out := .next (s.sectorWrite s.subject.pcn s.subject.id s.subject.n)
/-- ARRIVAL (R236). -/
def execArrival (s : State) : Out := .next (s.copyArrival s.subject.pcn s.subject.id)

/-- R240, R263: a copy completes, and a block that waited for it may retire. -/
def State.completeCopy (s : State) (pcn id : Nat) : State :=
  match s.copy? pcn id with
  | none => s
  | some c =>
    let t := s.copyComplete pcn id
    match s.warpAt? pcn c.cw with
    | some w => t.retireBlocks w.launch w.gang
    | none => t

/-- COPY_COMPLETE (R240, R242). -/
def execCopyComplete (s : State) : Out := .next (s.completeCopy s.subject.pcn s.subject.id)

/-- QUEUE_FILL (R250): one entry of a queue whose owner has not been halted (R274); a block whose window it read may retire after it
(R263). -/
def execQueueFill (s : State) : Out :=
  let q := BitVec.ofNat 2 s.subject.id
  .next (match (s.queueOf s.subject.pcn q).owner with
    | none => s
    | some cw => s.onWarp s.subject.pcn cw fun t =>
      if t.warp.status = .halted then t else (t.fillEntry q).retireBlocks t.warp.launch t.warp.gang)

/-! ## Memory (R44, R295, R296, R308, R310) -/

/-- BRANCH_MISPREDICT (R44): the squashed instructions had not executed; nothing architectural changes. -/
def execBranchMispredict (s : State) : Out := .next s
/-- CONSTANT_CACHE_FILL (R310): line n of a launch's constant segment. -/
def execConstantCacheFill (s : State) : Out :=
  .next (if s.subject.pcn < 256 then s.constFill s.subject.pcn s.subject.launch (192 * s.subject.n) else s)
/-- STORE_REGISTRATION (R295): the store at a place in a warp's store buffer performs. -/
def execStoreRegistration (s : State) : Out := .next (s.onSubject (fun _ => true) fun t => t.registerNth s.subject.n)
/-- LINE_FILL (R296): a sector is filled into the L1 of one of the 256 cores (R8) under a key id. -/
def execLineFill (s : State) : Out :=
  .next (if s.subject.pcn < 256 then s.lineFill s.subject.pcn (BitVec.ofNat 6 s.subject.id) s.subject.n else s)

/-- R308: an L1's words of a sector, by whether they are owned, given up without write-back; its ownership goes. -/
def State.loseOwner (s : State) (line : Nat) : State :=
  match s.homes.owners.find? fun r => r.line == line with
  | none => s
  | some r => (s.invalidateWords r.owner line fun _ => true).setOwners (s.homes.owners.filter fun r => r.line != line)

/-- R308: a sector's dirty owned words in a core's L1, one of which holds an error, written back as poisoned. What becomes of the owner's
words then is not stated: they stay owned, clean and poisoned (DESIGN CHOICE, log 93). -/
def State.poisonOwned (s : State) (pcn sector : Nat) : State :=
  match (s.core pcn).l1.find? fun l => l.line == sector / 4 with
  | none => s
  | some l =>
    let hit := fun (w : L1Word) => w.owned && w.dirty && w.idx / 12 == sector % 4
    if l.words.any hit then
      ((s.writeBack { l with words := l.words.filter hit }).poisonSector sector).modifyL1 pcn l.line fun ws =>
        ws.map fun w => if hit w then { w with dirty := false, poison := true } else w
    else s

/-- Whether a slice holds bytes of a sector. -/
def State.sliceHolds (s : State) (sector : Nat) : Bool :=
  ((s.sliceLine? (sector / 4)).any fun l => l.valid.getLsbD (sector % 4)) || s.homes.fresh.any fun c => sectorOf c.1 == sector

/-- R364: the poison marker written to the LPDDR copies of a set's sector, for each alias that the tier has. -/
def State.poisonAliases (s : State) (die set : Nat) : State :=
  (((range 0 8).map fun al => (al * mscSets s.monarch + set) * 2048).filter (· < tierBytes s.monarch.carve)).foldl (fun s t =>
    (sectorsOf (1024 * gib + die * (256 * gib) + t) 2048).foldl State.poisonStored s) s

/-- UNCORRECTABLE_ERROR (R308, R364): by kind: 0 data of sector n, in its slice where the slice holds it, else in memory; 1 tag or
ownership record of line n; 2 a dirty owned word of sector n in the L1 of a core; 3 word n of a core's SRAM; 4 the tag of set n of a
die's memory-side cache. The recorder of the cluster of the core that the step names takes the record, a die's number standing for
the core of that number (R378 does not say whose recorder takes that of a home's or a controller's error: DESIGN CHOICE, log 96). -/
def execUncorrectableError (s : State) : Out :=
  let x := s.subject
  let t :=
    if x.id = 0 then (if s.sliceHolds x.n then s.poisonSector x.n else s.poisonStored x.n)
    else if x.id = 1 then (s.poisonLine x.n).loseOwner x.n
    else if x.id = 2 then s.poisonOwned x.pcn x.n
    else if x.id = 3 then s.poisonScratch x.pcn (4 * x.n) 4
    else ((s.poisonAliases x.pcn x.n).setMsc (s.homes.msc.filter fun t => !(t.die == x.pcn && t.set == x.n))).report 0x364
      [x.pcn, x.n, (mscPlace x.pcn x.n).1, (mscPlace x.pcn x.n).2]
  .next (if x.pcn < 256 then t.luna (State.clusterOf x.pcn) 0x31 0 0 0xFFFFFFFF#32 (BitVec.ofNat 64 x.id) else s)

/-- CORRECTED_ERROR (R308): nothing programs see changes; it is logged, and recorded as an error that cannot be corrected is (log 96). -/
def execCorrectedError (s : State) : Out :=
  let x := s.subject
  .next (if x.pcn < 256 then
    (s.report 0x308 [x.pcn, x.id, x.n]).luna (State.clusterOf x.pcn) 0x30 0 0 0xFFFFFFFF#32 (BitVec.ofNat 64 x.id) else s)

/-! ## The spare column (R230) -/

/-- A partition of the subject's core, and it replaced. -/
def State.partOf (s : State) : Partition := (s.core s.subject.pcn).parts.get ⟨s.subject.n % 4, Nat.mod_lt _ (by decide)⟩

/-- The partition of the subject changed. -/
def State.setPart (s : State) (p : Partition) : State :=
  s.modifyCore s.subject.pcn fun c => { c with parts := c.parts.set (s.subject.n % 4) p (Nat.mod_lt _ (by decide)) }

/-- The column of the first cell with at least three logged faults, among those with a property. -/
def thirdFault (p : Partition) (ok : Nat → Bool) : Option Nat :=
  (p.faults.find? fun f => 3 ≤ f.2.2 && ok f.1).map fun f => f.1

/-- SPARE_COLUMN_REMAP (R230): between launches, while the partition holds no warp, the spare takes the place of a column. -/
def execSpareColumnRemap (s : State) : Out :=
  let x := s.subject
  let p := s.partOf
  .next (if p.spare.isSome || (s.warpsOn x.pcn).any fun w => w.cw / 8 == x.n % 4 then s
    else match thirdFault p (· < 32) with
      | none => s
      | some c => (s.setPart { p with spare := some c }).report 0x230 [x.pcn, x.n % 4, c])

/-- PARTITION_WITHDRAWAL (R230): the spare is in use and another column has its third fault. -/
def execPartitionWithdrawal (s : State) : Out :=
  let x := s.subject
  let p := s.partOf
  .next (match p.spare with
    | none => s
    | some l => match thirdFault p (· != l) with
      | none => s
      | some c => (s.setPart { p with withdrawn := true }).report 0x231 [x.pcn, x.n % 4, c])

/-! ## Traps (R196, R269-R272) -/

/-- Whether a warp's pending fault is one for its own handler. -/
def inWarpPending (w : Warp) : Bool :=
  match w.pending with
  | r :: _ => inWarpCause r.cause && w.trapvec != 0 && w.xcause == 0
  | [] => false

/-- TRAP_ENTRY (R196): a warp whose pending fault is for its own handler enters it. -/
def execTrapEntry (s : State) : Out := .next (s.onSubject inWarpPending State.trapEntry)

/-- TRAP_DELIVERY (R269): a warp whose pending fault goes beyond it, and has not been delivered: one that drains for it has had its
delivery (R280). -/
def execTrapDelivery (s : State) : Out :=
  .next (s.onSubject (fun w => w.status != .draining && w.status != .halted && !inWarpPending w && (match w.pending with
    | r :: _ => r.cause != cUE && r.cause != cGRID
    | [] => false)) State.deliverBeyond)

/-- BACKOFF_EXPIRY (R270): a warp whose back-off is over is READY; its instruction dispatches again. -/
def execBackoffExpiry (s : State) : Out :=
  .next (s.onSubject (fun w => w.status == .backoff && w.waitSince ≤ s.clock) fun t =>
    { t with warp := { t.warp with status := .ready } })

namespace State

/-- Whether the current warp waits for a handler's answer. -/
def awaitsAnswer (w : Warp) : Bool := w.status == .trapped

/-- Whether it is a debugger that holds it (R380). -/
def debugHeld (w : Warp) : Bool := w.wait.any fun | .inWarpStop _ => true | _ => false

/-- R271: the current warp resumes as its handler says; the permit is returned. A stop for the debugger ends with RETRY alone
(R380); a `rep` it was stopped in is issued again, and its following word examined anew (R137). -/
def answer (s : State) (how : Resume) : State :=
  if debugHeld s.warp then
    match how with
    | .retry => { s with warp := { s.warp with
        status := .ready, wait := none, rep := none, resumed := true, resumedRep := s.warp.rep.isSome } }
    | _ => s
  else
    let s := s.withdrawTrap
    let rs := s.warp.records
    let first := rs.head?
    s.resumeAt how s.warp.pc ((first.map FaultRec.inRep).getD false)
      ((first.map fun r => laneCause r.cause && !r.whole).getD false) (rs.foldl (fun m r => m ||| r.lanes) 0)

/-- R271: the current warp's gang is halted by its handler's answer. -/
def answerHalt (s : State) : State :=
  if debugHeld s.warp then s else s.withdrawTrap.askGangHalt s.warp.records.head? (s.policyOf s.warp.rid == 2)

/-- R271: an answer by number: RETRY, SKIP, EXCLUDE, HALT. -/
def answerBy (s : State) (n : Nat) : State :=
  if n = 0 then s.answer .retry else if n = 1 then s.answer .skip else if n = 2 then s.answer .exclude else s.answerHalt

end State

/-- Whether the Monarch takes commands: READY and RUN (R377). -/
def State.monarchUp (s : State) : Bool := s.monarch.power == .ready || s.monarch.power == .run

/-- What is acted on at most once for each sequence number of the host's (R372). -/
def State.actOnce (s : State) (f : State → State) : State :=
  match s.subject.seq with
  | none => f s
  | some n =>
    if s.monarch.seen.contains n then s
    else f { s with monarch := { s.monarch with seen := n :: s.monarch.seen } }

/-- A command, which the Monarch takes in READY and RUN alone (R373, R377), and acts on at most once (R372). -/
def State.command (s : State) (f : State → State) : State := if s.monarchUp then s.actOnce f else s

/-- RETRY (R271). A host handler's answer carries a number, a region handler's none (R372). -/
def execRetry (s : State) : Out := .next (s.command fun s => s.onSubject State.awaitsAnswer (State.answer · .retry))
/-- SKIP (R271). -/
def execSkip (s : State) : Out := .next (s.command fun s => s.onSubject State.awaitsAnswer (State.answer · .skip))
/-- EXCLUDE (R271). -/
def execExclude (s : State) : Out := .next (s.command fun s => s.onSubject State.awaitsAnswer (State.answer · .exclude))
/-- HALT (R271). -/
def execHalt (s : State) : Out := .next (s.command fun s => s.onSubject State.awaitsAnswer State.answerHalt)

/-- COALESCER_DRAIN (R272): once one record of a core has been open for 1 µs, or all 16 are open, the Monarch drains the records and
answers each warp of a record with one command: the subject's list names one for each record, its value that of a record the list
does not reach. -/
def execCoalescerDrain (s : State) : Out :=
  let x := s.subject
  let open_ := (s.core x.pcn).coalesced
  .next (if open_.length < 16 && open_.all fun r => s.gtime < r.gtime + 1000 then s
    else
      ((range 0 open_.length).zip open_).foldl (fun s n =>
        (lanesOf n.2.warps).foldl (fun s cw => s.onWarp x.pcn cw fun t =>
          if State.awaitsAnswer t.warp then t.answerBy (x.list.getD n.1 x.value) else t) s)
        (s.modifyCore x.pcn fun c => { c with coalesced := [] }))

/-! ## Halts (R273-R277) -/

/-- WARP_HALT (R273). -/
def execWarpHalt (s : State) : Out := .next (s.onSubject State.warpHalting State.haltWarp)
/-- GANG_HALT (R274). -/
def execGangHalt (s : State) : Out := .next (s.sendHalt s.subject.launch s.subject.gang)
/-- GANG_HALT_RECEIPT (R274). -/
def execGangHaltReceipt (s : State) : Out := .next (s.receiveHalt s.subject.pcn s.subject.launch s.subject.gang)

/-- MONARCH_GANG_HALT (R274): a placed gang halted without a fault; its region's policy decides on a dump. A host's command for it
carries a number (R372). -/
def execMonarchGangHalt (s : State) : Out :=
  let x := s.subject
  .next (s.command fun s => match s.gang? x.launch x.gang with
    | none => s
    | some g =>
      if g.state ≠ .placed then s
      else (s.requestHalt x.launch x.gang (0, 0) none (s.policyOf g.rid == 2)).noteFailure x.launch x.gang 0)

/-- DUMP (R275-R278): a register-file read that fails (R278) is the subject's, by section and byte. -/
def execDump (s : State) : Out :=
  .next (s.writeDump s.subject.rid (if s.subject.flag then some (s.subject.n, s.subject.addr) else none))

/-- DUMP_AREA_RESET (R277): the dump pointer returns to DUMPBASE and sequence numbers start again. -/
def execDumpAreaReset (s : State) : Out :=
  .next (s.command fun s => s.modifyRegion s.subject.rid fun r => { r with dumpPtr := r.dumpbase, dumpSeq := 0 })

end Sys2Proof.Machine
end

