-- ==== Sys2Proof/Machine/Regions.lean ====
section
/-!
DEFINITION. Region control blocks (R328-R330), launch queues and `launch` (R331-R334), code objects and the choice of a kernel
(R382, R383, R397), leases and residency (R335), taking, completing and relaunching launches (R332, R336, R344-R346).
-/

namespace Sys2Proof.Machine

/-! ## Control blocks (R328) -/

/-- R397: the features of revision B2. -/
def devFeat : Nat := 0x7FF

/-- R328: a control block's fields as they stand in 256 bytes, whatever the Monarch keeps for the region left empty. -/
def regionOf (addr : Nat) (bs : List Byte) : Region :=
  let f := numAt bs
  { rid := f 4 4, addr := addr, parent := f 56 8, trapmode := BitVec.ofNat 2 (f 70 1), policy := BitVec.ofNat 2 (f 71 1),
    prio := BitVec.ofNat 3 (f 72 1), keyid := BitVec.ofNat 6 (f 73 1), split := f 74 1, lqorder := f 75 1,
    tgen := BitVec.ofNat 16 (f 76 2), ovr := BitVec.ofNat 16 (f 78 2), cores := f 80 2, scratchu := f 82 2, dupn := f 84 4,
    quantum := f 88 4, vregs := f 92 4, hbmb := f 96 8, lqhead := BitVec.ofNat 32 (f 104 4), lqtail := BitVec.ofNat 32 (f 108 4),
    lqbase := f 112 8, ptroot := f 120 8, chrybase := f 128 8, chrylen := f 136 8, dumpbase := f 144 8, dumplen := f 152 8,
    miggen := BitVec.ofNat 64 (f 160 8),
    feat := #v[BitVec.ofNat 64 (f 168 8), BitVec.ofNat 64 (f 176 8), BitVec.ofNat 64 (f 184 8), BitVec.ofNat 64 (f 192 8)],
    jrnbase := f 200 8, jrnlen := f 208 8, firstChild := f 48 8, nextSib := f 40 8, appends := [], doorbell := 0, stopped := false,
    dumpPtr := f 144 8, dumpSeq := 0, chryUsed := [], jrn := [], dumps := [], breakpoints := [], migrating := false, copied := false,
    sentTo := 0, gtimeOff := 0 }

/-- R328, R383: whether the Monarch accepts a control block: the checks that hold at creation and at a reread. -/
def blockOk (bs : List Byte) : Bool :=
  let f := numAt bs
  f 0 4 == 0x52474E42 && zeroAt bs 8 32 && zeroAt bs 64 6 && zeroAt bs 216 40
    && f 70 1 ≤ 3 && f 71 1 ≤ 3 && f 72 1 ≤ 7 && f 73 1 ≤ 63 && f 74 1 ≤ 14 && f 75 1 ≤ 16
    && f 78 2 < 512 && f 80 2 ≤ 256 && f 82 2 ≤ 3584 && (f 84 4 == 0 || (64 ≤ f 84 4 && f 84 4 ≤ 65536))
    && 100 ≤ f 88 4 && f 88 4 ≤ 100000 && f 92 4 ≤ 1048576
    && f 112 8 % 128 == 0 && f 120 8 % 4096 == 0 && f 128 8 % 64 == 0 && f 144 8 % 64 == 0 && f 200 8 % 4096 == 0 && f 208 8 % 256 == 0
    && (f 168 8 ||| devFeat) == devFeat && zeroAt bs 176 24

namespace State

/-- Bytes of a control block rewritten by the Monarch. -/
def putBlock (s : State) (addr o : Nat) (bs : List Byte) : State := s.homeWriteAll 0 0 (cellsFrom (addr + o) bs)

/-- REGION_CREATE (R328): a control block handed to the Monarch, which accepts it or refuses and reports it. The new region becomes
its parent's first child (R328's links; log 21). -/
def createRegion (s : State) : State :=
  let addr := s.subject.addr
  let bs := s.agentRead 0 addr 256
  let r := regionOf addr bs
  let monarchs := zeroAt bs 40 16 && zeroAt bs 76 2 && zeroAt bs 104 8
  if !blockOk bs || !monarchs || s.regions.any fun x => x.rid == r.rid then s.report 0x328 [addr]
  else
    match s.regions.find? fun p => r.parent != 0 && p.addr == r.parent with
    | none => { s with regions := s.regions ++ [r] }
    | some p =>
      let t := (s.putBlock addr 40 (bytesOf 8 p.firstChild)).putBlock p.addr 48 (bytesOf 8 addr)
      { t with regions := changeWhere (fun x => x.rid == p.rid) (fun x => { x with firstChild := addr }) t.regions
          ++ [{ r with nextSib := p.firstChild }] }

/-- R333: entries appended and not taken. -/
def queued (r : Region) : Nat := (r.lqtail - r.lqhead).toNat

/-- REGION_REREAD (R328-R330): a block that passes is taken but for TGEN and the links; one that fails leaves the region as it
was, and is reported. -/
def rereadRegion (s : State) : State :=
  match s.region? s.subject.rid with
  | none => s
  | some old =>
    let bs := s.agentRead 0 old.addr 256
    let r := regionOf old.addr bs
    if !blockOk bs || r.rid != old.rid then s.report 0x329 [old.rid]
    else
      let full := 2 ^ r.lqorder < queued r
      let new : Region := { r with
        tgen := old.tgen, firstChild := old.firstChild, nextSib := old.nextSib, appends := old.appends, doorbell := old.doorbell,
        stopped := full || old.migrating, dumpPtr := old.dumpPtr, dumpSeq := old.dumpSeq, chryUsed := old.chryUsed, jrn := old.jrn,
        dumps := old.dumps, breakpoints := old.breakpoints, migrating := old.migrating, copied := old.copied,
        sentTo := old.sentTo, gtimeOff := old.gtimeOff }
      let t := s.modifyRegion old.rid fun _ => new
      if full then t.report 0x333 [old.rid] else t

/-! ## Appending (R333, R334) -/

/-- Where the Monarch writes an address of a region, as R333 asks: a valid translation and a writable page. -/
def monarchWritable (s : State) (r : Region) (va : Nat) : Option Phys :=
  match s.walk r.ptroot va with
  | .ok (level, e) => if va < 2 ^ 48 ∧ pteW e then some ⟨leafPa level e va, pteKey e, false⟩ else none
  | .error _ => none

/-- R333: one append request served: the state and the answer. The write meets an uncorrectable error when the entry holds a poisoned
word (DEDUCED, log 72). -/
def appendRecord (s : State) (rid : Nat) (rec_ : List Byte) : State × Nat :=
  match s.region? rid with
  | none => (s, 3)
  | some r =>
    if queued r = 2 ^ r.lqorder then (s, 1)
    else if numAt rec_ 0 4 != 0x4C4E4348 || !zeroAt rec_ 8 6 || !zeroAt rec_ 112 16 then (s, 2)
    else
      match s.monarchWritable r (r.lqbase + 128 * (r.lqtail.toNat % 2 ^ r.lqorder)) with
      | none => (s.report 0x333 [rid, 3], 3)
      | some p =>
        if (range p.pa 128).any s.agentPoison then (s.report 0x333 [rid, 3], 3)
        else
        let t := (s.homeWriteAll p.key 0 (cellsFrom p.pa (rec_.take 128))).putBlock r.addr 108 (bytesOf 4 (r.lqtail + 1).toNat)
        (t.modifyRegion rid fun r => { r with lqtail := r.lqtail + 1 }, 0)

/-- APPEND_REQUEST (R333): the oldest request at a region's doorbell is served; its status register takes the answer. Once the region's
memory has been sent to another module no request is served here (R396 does not say: DESIGN CHOICE, log 100). -/
def serveAppend (s : State) (rid : Nat) : State :=
  match s.region? rid with
  | none => s
  | some r =>
    match r.appends with
    | [] => s
    | a :: rest =>
      if r.copied then s else
      let x := (s.modifyRegion rid fun r => { r with appends := rest }).appendRecord rid (s.agentRead 0 a.1 128)
      x.1.modifyRegion rid fun r => { r with doorbell := x.2 }

/-- Every request that has reached a region's doorbell served, oldest first. -/
def serveAppends (s : State) (rid : Nat) : State :=
  ((s.region? rid).elim [] Region.appends).foldl (fun s _ => s.serveAppend rid) s

/-- R334: the halves of a launch record as a global load finds them, or the fault. -/
def recordPlaces (s : State) (va : Nat) : Except Trouble (Phys × Phys) :=
  match s.globalPlace .read va 64 with
  | .error t => .error t
  | .ok p => match s.globalPlace .read (va + 64) 64 with
    | .error t => .error t
    | .ok q => .ok (p, q)

end State

/-- `launch` (R334): requests that reached the Monarch earlier are served first. -/
def execLaunch (d a : BitVec 7) (s : State) : Out :=
  let va := s.readS a
  .next (s.checked .scalar [(va.toNat % 64 != 0, ⟨cMISALIGN, 64, va⟩)] <|
    match s.recordPlaces va.toNat with
    | .error t => s.fault .scalar t
    | .ok (p, q) =>
      let s := (((s.cacheLeaf s.warp.pcn va.toNat).cacheLeaf s.warp.pcn (va.toNat + 64)).fillFor p 64).fillFor q 64
      if s.loadPoisoned p 64 then s.fault .scalar ⟨cUE, 0, va⟩
      else if s.loadPoisoned q 64 then s.fault .scalar ⟨cUE, 0, va + 64⟩
      else
        let rec_ := s.loadBytes p 64 ++ s.loadBytes q 64
        let x := (s.drain.serveAppends s.warp.rid).appendRecord s.warp.rid rec_
        (x.1.writeS d (BitVec.ofNat 64 x.2) (.bounded 0 3)).retire)

/-- REGION_CREATE (R328). -/
def execRegionCreate (s : State) : Out := .next (s.command State.createRegion)
/-- REGION_REREAD (R330). -/
def execRegionReread (s : State) : Out := .next (s.command State.rereadRegion)
/-- APPEND_DOORBELL (R333, R376): the host gives the module address of a record. -/
def execAppendDoorbell (s : State) : Out :=
  .next (if s.monarch.hostAttached && s.monarchUp then
    s.modifyRegion s.subject.rid fun r => { r with appends := r.appends ++ [(s.subject.addr, true)] }
    else s)
/-- APPEND_REQUEST (R333). -/
def execAppendRequest (s : State) : Out := .next (if s.monarchUp then s.serveAppend s.subject.rid else s)

/-! ## Code objects (R382, R383) -/

/-- What the loader finds for a launch. -/
structure Chosen where
  khdr : Nat
  header : KernelHeader
  constVa : Nat
  constLen : Nat
  segment : CodeSegment
  translated : Bool
deriving DecidableEq, Repr

/-- Why the loader finds nothing (R383): a read that failed, with its cause and address, or none that did. -/
abbrev NotLoaded := Option (Nat × Nat)

namespace State

/-- Bytes of a region's address space as the loader reads them, or the cause and address of the read that fails: one has no
translation or, when `strict`, is poisoned. -/
def loaderTry (s : State) (rid va n : Nat) (strict : Bool) : Except NotLoaded (List Byte) :=
  match (pagePieces (n / 4096 + 2) va n).find? fun x => (s.regionPhys rid x.1).isNone with
  | some x => .error (some (cTRANSLATION.toNat, x.1))
  | none =>
    let p := s.readRegion rid va n
    match if strict then p.bad.head? else none with
    | some w => .error (some (cUE.toNat, va + 4 * w))
    | none => .ok p.bytes

/-- The bytes of such a read, where it does not fail. -/
def loaderRead (s : State) (rid va n : Nat) (strict : Bool) : Option (List Byte) := (s.loaderTry rid va n strict).toOption

/-- Whether every page of a range is mapped. -/
def mapped (s : State) (rid va n : Nat) : Bool :=
  (pagePieces (n / 4096 + 2) va n).all fun x => (s.regionPhys rid x.1).isSome

/-- R383: the image descriptor chosen: by the module's revision word, else the highest revision of the family whose REQ the device
and the region's floor hold. -/
def chooseImage (floor : Nat) (ds : List (List Byte)) : Option (List Byte) :=
  match ds.find? fun d => numAt d 0 4 == 0x4C370B02 with
  | some d => some d
  | none =>
    (ds.filter fun d => numAt d 2 2 == 0x4C37 && (numAt d 4 32 ||| (devFeat &&& floor)) == (devFeat &&& floor)).foldl
      (fun (best : Option (List Byte)) d => match best with
        | none => some d
        | some b => if numAt b 0 2 < numAt d 0 2 then some d else best) none

/-- R383: the checks of a code object: its header and its image descriptors. -/
def checkObject (s : State) (rid code : Nat) : Except NotLoaded (List Byte × List (List Byte)) :=
  match s.loaderTry rid code 64 true with
  | .error e => .error e
  | .ok h =>
    let nimg := numAt h 6 2
    if numAt h 0 4 != 0x4F424A31 || numAt h 4 2 != 1 || 15 < nimg || !zeroAt h 12 4 || !zeroAt h 32 32 then .error none
    else match s.loaderTry rid (code + 64) (64 * nimg) true with
      | .error e => .error e
      | .ok db =>
        let ds := (range 0 nimg).map fun n => (db.drop (64 * n)).take 64
        if !(ds.all fun d => s.mapped rid (code + numAt d 36 8) (numAt d 44 4)) || !s.mapped rid (code + numAt h 16 8) (numAt h 24 8)
        then .error none
        else .ok (h, ds)

/-- R382, R383: a kernel of a native image: of `nkern` kernels, by its descriptor. -/
def nativeKernel (s : State) (rid code : Nat) (d : List Byte) (nkern kernel : Nat) : Except NotLoaded Chosen :=
  let base := code + numAt d 36 8
  let clen := numAt d 60 4
  let coff := numAt d 56 4
  if 2 ^ 24 < clen || coff % 4096 != 0 || numAt d 44 4 < coff + clen || nkern ≤ kernel then .error none
  else match s.loaderTry rid (base + numAt d 48 4) (4 * nkern) true with
    | .error e => .error e
    | .ok tb =>
      let offs := (range 0 nkern).map fun n => numAt tb (4 * n) 4
      let khdr := base + offs.getD kernel 0
      match s.loaderTry rid khdr 64 true with
      | .error e => .error e
      | .ok hb =>
        match headerOf hb with
        | none => .error none
        | some hd =>
          let root := (s.region? rid).elim 0 Region.ptroot
          let kernels := offs.filterMap fun o => ((s.loaderRead rid (base + o) 64 false).bind headerOf).map fun k =>
            (⟨base + o + 64, k.codelen / 4⟩ : Segment)
          .ok ⟨khdr, hd, base + coff, clen, s.prefixed root (base + offs.foldl min (offs.getD 0 0)) kernels, false⟩

end State

/-! ### Translated functions (R384, R385) -/

/-- R384: the words of `n` that have S = 1: an entry and the loop heads after it. -/
def stopWords (entry : Nat) (loops : List Nat) (n : Nat) : List Nat :=
  (range 0 n).filter fun i => i == entry || (entry < i && loops.contains i)

/-- R384: bytes with S = 1 in exactly the words that an entry and loop heads are, from the entry on. -/
def withStops (entry : Nat) (loops : List Nat) (bs : List Byte) : List Byte :=
  (range 0 (bs.length / 4)).flatMap fun i =>
    let w := numAt bs (4 * i) 4
    bytesOf 4 (if i < entry then w else w % 2 ^ 31 + if (stopWords entry loops (bs.length / 4)).contains i then 2 ^ 31 else 0)

/-- R384: the first word of a translated function's code: after its header, where it is a kernel. -/
def entryWord (sec : List Byte) (code fn : Nat) : Nat :=
  if (headerOf ((Config.translation sec code fn).take 64)).isSome then 16 else 0

/-- R384, R382: the live-register map of a translated function: 32 bytes for each safe point, in ordinal order. -/
def liveMap (sec : List Byte) (fn points : Nat) : List Byte :=
  (range 0 points).flatMap fun k => bytesOf 32 (Config.liveMasks sec fn k).toNat

/-- R384: a translated function as the translator writes it: native code with its stop bits, and its live-register map. -/
def nativeFunction (sec : List Byte) (code fn : Nat) : List Byte :=
  let bs := Config.translation sec code fn
  let entry := entryWord sec code fn
  withStops entry (Config.loopHeads sec fn) bs ++ liveMap sec fn (stopWords entry (Config.loopHeads sec fn) (bs.length / 4)).length

/-- R384: the constant bytes of its Golierum section that a translated kernel takes with it, at most 16 MiB; a function that is no
kernel has none. -/
def constantsFor (sec : List Byte) (code fn : Nat) : List Byte :=
  let p := Config.constantsPlace sec fn
  if entryWord sec code fn = 0 then [] else (sec.drop p.1).take (min p.2 (2 ^ 24))

namespace State

/-- R382: the bytes of a code object's Golierum section. -/
def golierum (s : State) (rid code : Nat) : List Byte :=
  let h := (s.readRegion rid code 64).bytes
  (s.readRegion rid (code + numAt h 16 8) (numAt h 24 8)).bytes

/-- R385: the translated function of a region with a number in a code object, once it is published. -/
def function? (s : State) (rid code fn : Nat) : Option Translated :=
  s.monarch.functions.find? fun f => f.rid == rid && f.code == code && f.fn == fn

/-- R383 step 3, R385: a kernel that is translated: its header, and where it and its constants lie once it is published. -/
def translatedKernel (s : State) (rid code kernel : Nat) : Except NotLoaded Chosen :=
  match headerOf ((nativeFunction (s.golierum rid code) code kernel).take 64) with
  | none => .error none
  | some hd =>
    .ok (match s.function? rid code kernel with
      | none => ⟨0, hd, 0, 0, ⟨0, [], []⟩, true⟩
      | some f => ⟨Config.heapVirtual + f.off, hd, Config.heapVirtual + f.constOff, f.constLen, f.segment, true⟩)

/-- R383: the loader's choice for a code object and a kernel; none: REASON 2. -/
def selectKernel (s : State) (rid code kernel : Nat) : Except NotLoaded Chosen :=
  match s.region? rid with
  | none => .error none
  | some r =>
    match s.checkObject rid code with
    | .error e => .error e
    | .ok (h, ds) =>
      let floor := r.feat[0].toNat + 2 ^ 64 * r.feat[1].toNat + 2 ^ 128 * r.feat[2].toNat + 2 ^ 192 * r.feat[3].toNat
      match chooseImage floor ds with
      | some d => s.nativeKernel rid code d (numAt h 8 4) kernel
      | none => if numAt h 24 8 = 0 || numAt h 8 4 ≤ kernel then .error none else s.translatedKernel rid code kernel

end State

/-! ## Taking a launch (R331, R332, R336) -/

/-- R332: the completion word. -/
def completionWord (tag : Word) (relaunches : Nat) (cause : BitVec 16) (reason status : Nat) : List Byte :=
  bytesOf 1 status ++ bytesOf 1 reason ++ bytesOf 1 cause.toNat ++ bytesOf 1 relaunches ++ bytesOf 4 tag.toNat

/-- R331: the lease ranges of a record: first page and pages. -/
def leasesOf (rec_ : List Byte) : List (Nat × Nat) :=
  ((range 0 8).map fun n =>
    let x := numAt rec_ (40 + 8 * n) 8
    (x / 2 ^ 28, x % 2 ^ 28)).filter fun l => l.2 != 0

/-- R332: whether the eight bytes of a completion word lie inside one lease range. -/
def complOk (leases : List (Nat × Nat)) (compl : Nat) : Bool :=
  compl % 8 == 0 && leases.any fun l => l.1 * 4096 ≤ compl && compl + 8 ≤ (l.1 + l.2) * 4096

namespace State

/-- A completion word written by the Monarch, with a release. -/
def writeCompletion (s : State) (rid compl : Nat) (word : List Byte) : State := s.writeRegion rid compl ⟨word, []⟩

/-- R330: leased bytes of the pinned launches that count against a region. -/
def leasedBytes (s : State) (top : Nat) : Nat :=
  (s.launches.filter fun l => l.pinned && s.countsAgainst l.rid top).foldl (fun n l =>
    l.lease.foldl (fun n x => n + 4096 * x.2) n) 0

/-- R330: whether leased bytes fit in every region on the path, beside those already pinned (`beside`) or alone. -/
def leasesFit (s : State) (rid bytes : Nat) (beside : Bool) : Bool :=
  (s.pathOf rid).all fun top =>
    (if beside then s.leasedBytes top.rid else 0) + bytes ≤ s.effective 3 Region.hbmb top s.regions.length

/-- R332 REASON 5: whether the budgets can never hold one gang. -/
def gangNeverFits (s : State) (rid gang block : Nat) (h : KernelHeader) : Bool :=
  let n := s.regions.length
  (s.pathOf rid).any fun top =>
    s.effective 0 Region.cores top n < gang || s.effective 2 Region.vregs top n < gang * block * (h.varch + h.vren)
      || s.effective 1 Region.scratchu top n < gang * h.scratch

/-- The lowest stamp that no launch uses and no line still records (R370); 0: none free. -/
def freeStamp (s : State) : BitVec 6 :=
  (((range 1 63).find? fun t => !(s.launches.any fun l => (l.stamp.toNat == t || l.given.toNat == t) && l.state != .done)
    && !(s.homes.marks.any fun m => m.stamp.toNat == t)).elim 0) (BitVec.ofNat 6)

/-- A gang entry of a launch, ready since a time. -/
def newGang (l : Launch) (i at_ : Nat) : Gang :=
  { launch := l.id, index := i, rid := l.rid, state := .ready, blocks := [], barriers := Vector.replicate 16 Barrier.fresh,
    abandoned := false, readyAt := at_, placedAt := 0, aging := 0, expired := false, victim := false, favoured := false, promised := false,
    image := none, places := [], areas := [], asked := false, halt := none, haltBy := (0, 0), toHalt := [], dumpDue := false, haltAt := 0,
    second := [], headers := [] }

/-- R336: a record taken: rejected with a reason, or a launch whose gangs are ready. A record that asks for more leased bytes or record
areas than its region can ever have is rejected before its kernel is looked for; R332 orders only the check of leases (DESIGN CHOICE,
log 95). -/
def takeRecord (s : State) (r : Region) (rec_ : List Byte) : State :=
  let f := numAt rec_
  let leases := leasesOf rec_
  let tag := BitVec.ofNat 32 (f 4 4)
  let compl := f 104 8
  let gangs := f 20 4
  let gang := f 14 1
  let block := f 15 1
  let reject := fun (reason : Nat) => s.writeCompletion r.rid compl (completionWord tag 0 0 reason 3)
  if !complOk leases compl then s.report 0x332 [r.rid, tag.toNat]
  else if gangs = 0 || 2 ^ 24 < gangs || gang = 0 || 4 < gang || block = 0 || 16 < block then reject 1
  else if !s.leasesFit r.rid (leases.foldl (fun n x => n + 4096 * x.2) 0) false || r.chrylen < 1024 * gang * block then reject 5
  else match s.selectKernel r.rid (f 24 8) (f 16 4) with
    | .error none => reject 2
    | .error (some x) => (reject 2).report 0x383 [r.rid, x.1, x.2]
    | .ok k =>
      if k.header.gang != gang || k.header.block != block then reject 3
      else if s.gangNeverFits r.rid gang block k.header then reject 5
      else
        let stamp := if s.policyOf r.rid == 3 then s.freeStamp else 0
        let l : Launch :=
          { id := s.monarch.nextLaunch, rid := r.rid, state := .taken, tag := tag, compl := compl, lease := leases,
            arg := BitVec.ofNat 64 (f 32 8), code := f 24 8, gangs := gangs, kernel := f 16 4, nblock := gang, nwarp := block,
            khdr := k.khdr, varch := k.header.varch, vren := k.header.vren, scratch := k.header.scratch,
            trapvec := k.header.trapvec, segment := k.segment, constVa := k.constVa, constLen := k.constLen,
            constMap := [], pinned := false, referral := none,
            nextGang := 1, readyAt := s.gtime, relaunches := 0, cause := 0, causeAt := 0, causeGang := 0, failed := false,
            ending := none, stamp := stamp, given := stamp, poolHomes := [], translated := k.translated }
        { s with launches := s.launches ++ [l], gangs := s.gangs ++ [newGang l 0 s.gtime],
                 monarch := { s.monarch with nextLaunch := s.monarch.nextLaunch + 1 } }

/-- LAUNCH_TAKE (R333, R336): the Monarch copies the oldest entry of a queue, advances LQHEAD and takes the record. -/
def takeLaunch (s : State) (rid : Nat) : State :=
  match s.region? rid with
  | none => s
  | some r =>
    if !s.monarchUp || r.stopped || queued r = 0 then s
    else
      let rec_ := (s.readRegion rid (r.lqbase + 128 * (r.lqhead.toNat % 2 ^ r.lqorder)) 128).bytes
      let t := s.putBlock r.addr 104 (bytesOf 4 (r.lqhead + 1).toNat)
      (t.modifyRegion rid fun r => { r with lqhead := r.lqhead + 1 }).takeRecord r rec_

end State

/-- LAUNCH_TAKE (R336). -/
def execLaunchTake (s : State) : Out := .next (s.takeLaunch s.subject.rid)

/-! ## The end of a launch (R310, R323, R332, R345) -/

namespace State

/-- R394: the rows of pool tables that a member's launch of a stamp has added to here: put back, when it is relaunched, as they were, with
their poison (R309); its journal entries here are given up. An entry of a row that has moved to another member since stays here (the
spec does not say: DESIGN CHOICE, log 99). -/
def closeRows (s : State) (member : Nat) (stamp : BitVec 6) (restore : Bool) : State :=
  if stamp = 0 then s
  else
    let mine := fun (j : RowImage) => j.member == member && j.stamp == stamp
    { s with fabric := { s.fabric with tables := s.fabric.tables.map fun t =>
      let u := if restore then (t.journal.filter mine).foldl (fun (u : PoolTable) j => { u.setRow j.version j.row j.bytes with
          bad := (u.bad.filter fun b => !(b.1 == j.version && b.2.1 == j.row)) ++ j.bad.map fun w => (j.version, j.row, w) }) t else t
      { u with journal := u.journal.filter fun j => !mine j } } }

/-- The homes of pool rows elsewhere that a launch's adds have touched. -/
def awayHomes (l : Launch) : List Nat := l.poolHomes.filter (· != Config.moduleNumber)

/-- What a launch that ends gives up: its pins, its journal entries, here and at the homes of pool rows, its constant words. -/
def closeLaunch (s : State) (id : Nat) : State :=
  match s.launch? id with
  | none => s
  | some l =>
    let s := s.modifyLaunch id fun l => { l with state := .done, pinned := false, referral := none, ending := none }
    let s := s.closeRows Config.moduleNumber l.given false
    let s := if l.given = 0 then s else (awayHomes l).foldl (fun s h => s.send h (.forget l.given)) s
    let s := s.modifyRegion l.rid fun r =>
      { r with jrn := ((r.jrn.map fun x => if x = id then 0 else x).reverse.dropWhile (· == 0)).reverse }
    { s with cores := s.cores.map fun c => { c with ccache := c.ccache.filter fun w => w.launch != id } }

/-- A launch ended with a STATUS and a REASON. -/
def endLaunch (s : State) (id reason status : Nat) : State :=
  match s.launch? id with
  | none => s
  | some l => (s.writeCompletion l.rid l.compl (completionWord l.tag l.relaunches l.cause reason status)).closeLaunch id

/-- LAUNCH_COMPLETION (R332): blocks that nothing holds any more retire (R263); when every gang has retired the word is written, once. -/
def completeLaunch (s : State) (id : Nat) : State :=
  let s := (s.gangs.filter fun g => g.launch == id).foldl (fun s g => s.retireBlocks id g.index) s
  match s.launch? id with
  | none => s
  | some l =>
    let mine := s.gangs.filter fun g => g.launch == id
    if l.state != .placing || l.ending.isSome || l.nextGang < l.gangs || !(mine.all fun g => g.state == .retired) then s
    else
      let t := s.endLaunch id 0 (if l.failed then 2 else 1)
      { t with gangs := t.gangs.filter fun g => g.launch != id }

end State

/-- LAUNCH_COMPLETION (R332). -/
def execLaunchCompletion (s : State) : Out := .next (s.completeLaunch s.subject.launch)

/-! ## Relaunch (R346) -/

namespace State

/-- R346: the writes of a launch that no controller has seen yet reach theirs, so that each line has its entry: dirty words that carry
its stamp, in an L1 and then in a slice (DEDUCED, log 76). -/
def flushStamped (s : State) (stamp : BitVec 6) : State :=
  let lines := (s.cores.flatMap fun c => (c.l1.filter fun (l : L1Line) => l.words.any fun w => w.dirty && w.stamp == stamp).map L1Line.line).eraseDups
  let s := lines.foldl recallLine s
  ((s.homes.lines.filter fun l => l.stamp == stamp).map SliceLine.line).foldl controllerWrite s

/-- R346: a line put back as its journal entry holds it, whatever any agent has written to it since. The entry has bits for three of the
line's four sectors (R345); the poison of the fourth stays as it stands (DEDUCED, log 1). -/
def restoreLine (s : State) (e : List Byte) : State :=
  let pa := numAt e 0 8
  let line := lineOf pa
  let raw := (e.drop 8).take 192
  let s := s.loseOwner line
  let s : State := { s with cores := s.cores.map fun (c : Core) => { c with l1 := c.l1.filter fun (l : L1Line) => l.line != line } }
  let s := s.setFresh (s.homes.fresh.filter fun c => lineOf c.1 != line)
  let s := s.setLines (s.homes.lines.filter fun x => x.line != line)
  let key := (s.mark line).key
  let plain := (range 0 4).flatMap fun k => s.recode (line * 4 + k) 0 key ((raw.drop (48 * k)).take 48)
  let fourth := (poisonSet s.homes.poison (line * 4 + 3), poisonSet s.homes.stored (line * 4 + 3))
  let s := s.rawStore none pa plain
  let s := (s.setPoisons (setPoison s.homes.poison (line * 4 + 3) fourth.1)).setStored (setPoison s.homes.stored (line * 4 + 3) fourth.2)
  let s := s.setMark { s.mark line with stamp := 0 }
  (range 0 3).foldl (fun s k =>
    let bad := BitVec.ofNat 12 (numAt e 201 5 / 2 ^ (12 * k))
    (s.setPoisons (setPoison s.homes.poison (line * 4 + k) bad)).setStored (setPoison s.homes.stored (line * 4 + k) bad)) s

/-- R346 step 3: the journal entries of a launch, newest first. -/
def restoreJournal (s : State) (l : Launch) : State :=
  match s.region? l.rid with
  | none => s
  | some r =>
    let mine := ((range 0 r.jrn.length).filter fun n => r.jrn.getD n 0 == l.id).reverse
    mine.foldl (fun s n => s.restoreLine (s.readRegion l.rid (r.jrnbase + 256 * n) 256).bytes) s

/-- The images of a launch's evicted gangs and the record areas of their warps given up, and its gangs forgotten. -/
def dropGangs (s : State) (l : Launch) : State :=
  let mine := s.gangs.filter fun g => g.launch == l.id
  let s := mine.foldl (fun s g =>
    match g.image with
    | none => s
    | some m => (g.areas.foldl (fun (s : State) va => s.freeRecordArea l.rid va) s).modifyRegion l.rid fun r =>
        { r with chryUsed := r.chryUsed.filter fun x => x != m }) s
  { s with gangs := s.gangs.filter fun g => g.launch != l.id }

/-- R394: every home elsewhere that a launch has added to is asked once to restore its rows. -/
def askRestores (s : State) (l : Launch) : State :=
  (awayHomes l).foldl (fun s h =>
    if s.fabric.restores.contains (h, l.stamp) then s
    else ({ s with fabric := { s.fabric with restores := s.fabric.restores ++ [(h, l.stamp)] } } : State).send h (.restore l.stamp)) s

/-- R346 step 3, R394: the memory and the pool rows here that a journaled launch has written, as they were before it. -/
def undo (s : State) (l : Launch) : State :=
  (((s.flushStamped l.stamp).restoreJournal l).closeRows Config.moduleNumber l.stamp true).modifyRegion l.rid fun r =>
    { r with jrn := ((r.jrn.map fun x => if x = l.id then 0 else x).reverse.dropWhile (· == 0)).reverse }

/-- RELAUNCH (R346, R394): once every placed gang of a launch that a halt has ended is gone, a journaled launch's writes are undone, here
and, each when it has answered, at the homes of pool rows it has added to; then the launch begins anew, or ends. -/
def relaunch (s : State) (id : Nat) : State :=
  match s.launch? id with
  | none => s
  | some l =>
    let mine := s.gangs.filter fun g => g.launch == id
    match l.ending with
    | none => s
    | some again =>
      if l.state = .done then s
      else if mine.any fun g => g.state == .placed || g.state == .halting then s
      else if l.stamp = 0 then (s.dropGangs l).endLaunch id 0 2
      else if (awayHomes l).any s.isLost then
        ((((s.undo l).dropGangs l).modifyLaunch id fun l => { l with cause := cREMOTE, failed := true })).endLaunch id 0 2
      else if !(awayHomes l).isEmpty then s.askRestores l
      else
        let t := (s.undo l).dropGangs l
        if again && l.relaunches < 3 then
          let t := t.modifyLaunch id fun l => { l with
            relaunches := l.relaunches + 1, nextGang := 1, readyAt := s.gtime, cause := 0, failed := false, ending := none, poolHomes := [] }
          { t with gangs := t.gangs ++ [newGang l 0 s.gtime] }
        else t.endLaunch id 0 2

/-- R394: another member's launch of a stamp is to be restored here, or has ended. -/
def serveRelaunch (s : State) (member : Nat) (stamp : BitVec 6) (ended : Bool) : State :=
  if ended then s.closeRows member stamp false else (s.closeRows member stamp true).send member (.restored stamp)

/-- R394: a home elsewhere has restored the rows of a launch of a stamp. -/
def rowsRestored (s : State) (member : Nat) (stamp : BitVec 6) : State :=
  if s.fabric.restores.contains (member, stamp) then
    let s : State := { s with fabric := { s.fabric with restores := s.fabric.restores.filter (· != (member, stamp)) } }
    { s with launches := s.launches.map fun l =>
      if l.stamp = stamp ∧ l.state ≠ .done then { l with poolHomes := l.poolHomes.filter (· != member) } else l }
  else s

end State

/-- RELAUNCH (R346, R394): of a launch of this module; or, with `flag`, what member n asks for its launch of stamp `id`: to restore its
rows, or, with `flag2` too, to forget them; or, with `flag2` alone, its answer that it has restored those of ours. -/
def execRelaunch (s : State) : Out :=
  let x := s.subject
  .next (if x.flag then s.serveRelaunch x.n (BitVec.ofNat 6 x.id) x.flag2
    else if x.flag2 then s.rowsRestored x.n (BitVec.ofNat 6 x.id)
    else s.relaunch x.launch)

end Sys2Proof.Machine
end

