-- ==== Sys2Proof/Machine/Placement.lean ====
section
/-!
DEFINITION. Translation maintenance (R355, R365, R366), leases pinned (R335), and the gang placer: placing, evicting and restoring
gangs (R258, R264-R268, R283, R284, R291, R336-R343).
-/

namespace Sys2Proof.Machine

namespace State

/-! ## What is pinned (R335) -/

/-- Whether a range of addresses meets another. -/
def meets (a n b m : Nat) : Bool := a < b + m && b < a + n

/-- R335, R382: the parts of a code object: header and descriptors, each image, the Golierum section. -/
def codeParts (s : State) (rid code : Nat) : List (Nat × Nat) :=
  match s.loaderRead rid code 64 false with
  | none => [(code, 64)]
  | some h =>
    let n := numAt h 6 2
    let ds := (s.loaderRead rid (code + 64) (64 * n) false).getD []
    (code, 64 + 64 * n) :: (code + numAt h 16 8, numAt h 24 8)
      :: (range 0 n).map fun i => (code + numAt ds (64 * i + 36) 8, numAt ds (64 * i + 44) 4)

/-- R335, R385: what is pinned of a region: its launches' leases, code objects and constant segments, its own areas while it has any
launch, and the code heap. -/
def pinnedParts (s : State) (r : Region) : List (Nat × Nat) :=
  let mine := s.launches.filter fun l => l.rid == r.rid && l.pinned
  let heap := if s.monarch.heap = 0 then [] else [(Config.heapVirtual, s.monarch.heap)]
  if mine.isEmpty then heap
  else mine.flatMap (fun l => (l.lease.map fun x => (x.1 * 4096, x.2 * 4096)) ++ (l.constVa, l.constLen) :: s.codeParts r.rid l.code)
    ++ [(r.chrybase, r.chrylen), (r.dumpbase, r.dumplen), (r.jrnbase, r.jrnlen)] ++ heap

/-- R335, R366: whether a launch pins a page of a region. -/
def pinsPage (s : State) (r : Region) (va size : Nat) : Bool := (s.pinnedParts r).any fun x => meets va size x.1 x.2

/-- R357: the pinned ranges of a region that a range meets. -/
def pinnedIn (s : State) (r : Region) (va n : Nat) : List Nat :=
  ((s.pinnedParts r).filter fun x => meets va n x.1 x.2).flatMap fun x => [x.1, x.2]

/-! ## Invalidation (R355) -/

/-- Whether a TLB entry of a region overlaps a range. -/
def tlbOverlaps (rid va n : Nat) (t : TlbEntry) : Bool :=
  let size := 2 ^ leafBits t.level
  t.rid == rid && t.vpage * size < va + n && va < (t.vpage + 1) * size

/-- R355: TGEN advances, entries that overlap the range are dropped, frames of a generation that wraps round are cleared, and the
host is told. Accesses translated under the older generation are complete by then. -/
def invalidate (s : State) (rid va n : Nat) : State :=
  match s.region? rid with
  | none => s
  | some r =>
    let s := (s.cores.filter fun c => c.rid == rid).foldl (fun s c => c.copies.foldl (fun s k => s.finishCopy c.pcn k.id) s) s
    let s := s.onWarps (fun w => w.rid == rid) drain
    let new := r.tgen + 1
    let s := (s.modifyRegion rid fun r => { r with tgen := new }).putBlock r.addr 76 (bytesOf 2 new.toNat)
    let hit := (s.cores.filter fun c => c.rid == rid).map fun c => clusterOf c.pcn
    let s : State := { s with
      cores := s.cores.map fun (c : Core) => if c.rid = rid then { c with tgen := new, tlb := c.tlb.filter fun t => !tlbOverlaps rid va n t } else c
      clusters := s.clusters.map fun (k : Cluster) => if hit.contains k.id then { k with tlb := k.tlb.filter fun t => !tlbOverlaps rid va n t } else k }
    let s := s.onWarps (fun w => w.rid == rid) fun s =>
      { s with warp := { s.warp with areg := s.warp.areg.map fun a => if a.tgen = new then { a with frame := 0, limit := 0 } else a } }
    let pinned := s.pinnedIn r va n
    (if pinned.isEmpty then s else s.report 0x357 (rid :: pinned)).report 0x355 [rid, new.toNat]

/-! ## Moving pages (R335, R366) -/

/-- The leaf of an address: level, entry and the physical address of the entry. -/
def leafAt (s : State) (va : Nat) : Nat → Nat → Nat → Option (Nat × DWord × Nat)
  | 0, _, _ => none
  | fuel + 1, level, table =>
    let e := s.tableEntry table level va
    if !pteValid e || malformed s.monarch level e then none
    else if pteLeaf e then some (level, e, table + 8 * tableIndex level va)
    else s.leafAt va fuel (level + 1) (ptePa e)

/-- R366: a page copied to a new place, its leaf rewritten and the page invalidated. -/
def movePage (s : State) (r : Region) (va new : Nat) : State :=
  match s.leafAt va 5 0 r.ptroot with
  | none => s
  | some (level, e, at_) =>
    let size := 2 ^ leafBits level
    let old := ptePa e
    let key := pteKey e
    let s := s.atHomes key old size
    let bs := s.agentRead key old size
    let bad := (range 0 (size / 4)).filter fun w => s.poisonedAt (old + 4 * w)
    let s := s.homeWriteAll key 0 (cellsFrom new bs)
    let s := bad.foldl (fun (s : State) w => s.poisonWord (new + 4 * w)) s
    let stack := match placeOf s.monarch new with | .direct k => k | _ => 0
    let e := (e &&& ~~~(0x1C0FFFFFFFFFF000#64)) ||| BitVec.ofNat 64 (new + stack * 2 ^ 58)
    (s.homeWriteAll 0 0 (cellsFrom at_ (bytesOf 8 e.toNat))).invalidate r.rid (va - va % size) size

/-- R351: the entries of a table at a level. -/
def tableSize (level : Nat) : Nat := if level = 3 then 32 else if level = 4 then 16 else 512

/-- R351, R353: the tables of a region from one on: address and bytes. -/
def tablesFrom (s : State) : Nat → Nat → Nat → List (Nat × Nat)
  | 0, _, _ => []
  | fuel + 1, level, table => (table, 8 * tableSize level) :: (range 0 (tableSize level)).flatMap fun i =>
      let e := BitVec.ofNat 64 (ofBytes (s.agentRead 0 (table + 8 * i) 8))
      if !pteValid e || malformed s.monarch level e || pteLeaf e then [] else s.tablesFrom fuel (level + 1) (ptePa e)

/-- R366: whether a physical page holds any table of a region. -/
def holdsTables (s : State) (pa size : Nat) : Bool :=
  s.regions.any fun r => (s.tablesFrom 5 0 r.ptroot).any fun t => meets pa size t.1 t.2

/-- R366: the stack of a die that a page goes to, by the free frames of its two: the one with more, the lower on a tie. -/
def stackFor (die lower upper : Nat) : Nat := if lower < upper then 2 * die + 1 else 2 * die

/-- The key under which scores of a page of a region are kept. -/
def scoreKey (rid va : Nat) : Nat := rid * 2 ^ 36 + va / 4096

/-- R365: the summed score for a die of the page whose units of 4 KiB are the n from one on. -/
def scoreOf (s : State) (first n die : Nat) : Nat :=
  s.monarch.scores.foldl (fun t x =>
    if first ≤ x.1 && x.1 < first + n && x.2.1 == die then t + x.2.2.foldl (· + ·) 0 else t) 0

/-- R366: the die with the best summed score; the lowest among equals. -/
def bestDie (s : State) (first n : Nat) : Nat :=
  (range 1 3).foldl (fun b d => if s.scoreOf first n b < s.scoreOf first n d then d else b) 0

/-- PAGE_MOVE (R366): the page moves to a frame of the best die when every condition holds. `free`: the free frames of that die's two
stacks, which the Monarch counts; which frame of the stack it takes is its choice. -/
def tryMovePage (s : State) (rid va new : Nat) (free : Nat × Nat) : State :=
  match s.region? rid with
  | none => s
  | some r =>
    match s.leafAt va 5 0 r.ptroot with
    | none => s
    | some (level, e, _) =>
      let size := 2 ^ leafBits level
      let first := scoreKey rid (va - va % size)
      let n := size / 4096
      let die := s.bestDie first n
      match placeOf s.monarch (ptePa e), placeOf s.monarch new with
      | .direct k, .direct k2 =>
        if pteFix e || s.pinsPage r (va - va % size) size || s.holdsTables (ptePa e) size || k2 != stackFor die free.1 free.2 || k / 2 == die
            || s.scoreOf first n die < 2 * s.scoreOf first n (k / 2) || new % size != 0 || !mappable s.monarch new size then s
        else s.movePage r va new
      | _, _ => s

/-- FOOTPRINT_READ (R365): the counts of every core are credited to pages and cleared; scores keep eight readings. -/
def readFootprints (s : State) : State :=
  let credits : List (Nat × Nat × Nat) := s.cores.flatMap fun c => c.footprint.flatMap fun f =>
    let first := f.base / 4096
    let pages := if f.bytes = 0 then 0 else (f.base + f.bytes - 1) / 4096 + 1 - first
    (range first pages).map fun p => (f.rid * 2 ^ 36 + p, c.pcn / 64, f.count / pages)
  let keys := (s.monarch.scores.map (fun x => (x.1, x.2.1)) ++ credits.map fun x => (x.1, x.2.1)).eraseDups
  let scores := keys.map fun k =>
    let old := ((s.monarch.scores.find? fun x => (x.1, x.2.1) == k).map fun x => x.2.2).getD []
    let new := (credits.filter fun x => (x.1, x.2.1) == k).foldl (fun n x => n + x.2.2) 0
    (k.1, k.2, (new :: old).take 8)
  { s with
    cores := s.cores.map fun (c : Core) => { c with footprint := c.footprint.map fun (f : Footprint) => { f with count := 0 } }
    monarch := { s.monarch with scores := scores.filter fun x => x.2.2.any (· != 0) } }

end State

/-- INVALIDATE (R355). -/
def execInvalidate (s : State) : Out := .next (s.command fun s => s.invalidate s.subject.rid s.subject.addr s.subject.len)
/-- PAGE_MOVE (R366). -/
def execPageMove (s : State) : Out :=
  .next (s.tryMovePage s.subject.rid s.subject.addr s.subject.value (s.subject.list.getD 0 0, s.subject.list.getD 1 0))
/-- FOOTPRINT_READ (R365). -/
def execFootprintRead (s : State) : Out := .next s.readFootprints

/-! ## Pinning (R335) -/

namespace State

/-- A launch rejected after it was taken: its gangs are forgotten. -/
def rejectLaunch (s : State) (id reason : Nat) : State :=
  let t := s.endLaunch id reason 3
  { t with gangs := t.gangs.filter fun g => g.launch != id }

/-- The virtual address of the first leased page with a property. -/
def leasedPage (l : Launch) (p : Nat → Bool) : Option Nat :=
  l.lease.findSome? fun x => ((range x.1 x.2).map (4096 * ·)).find? p

/-- Whether an address translates to the capacity tier. -/
def inTier (s : State) (root va : Nat) : Bool :=
  match s.walk root va with
  | .ok (level, e) => (match placeOf s.monarch (leafPa level e va) with | .tier _ => true | _ => false)
  | .error _ => false

/-- The leased pages of the capacity tier moved into direct HBM4E, each to the next of the frames that the Monarch has found free
(R335, R366). None of `Except.ok`: `true` when a page may not move, `false` when the frames do not suffice. -/
def makeResident (s : State) (l : Launch) (r : Region) : List Nat → Except Bool State
  | [] => if (leasedPage l (s.inTier r.ptroot)).isNone then .ok s else .error false
  | frame :: rest =>
    match leasedPage l (s.inTier r.ptroot) with
    | none => .ok s
    | some va =>
      match s.leafAt va 5 0 r.ptroot with
      | none => .error true
      | some (level, e, _) =>
        if pteFix e then .error true
        else if frame % 2 ^ leafBits level != 0 || frame ≥ 512 * gib || !mappable s.monarch frame (2 ^ leafBits level) then .error false
        else (s.movePage r va frame).makeResident l r rest

/-- A place of direct HBM4E where no byte is listed and none of the frames already chosen lies, for a page of a size. -/
def emptyFrame (s : State) (taken : List (Nat × Nat)) (size : Nat) : Nat :=
  let used := fun (pa : Nat) =>
    (s.homes.mem.any fun c => pa ≤ c.1 && c.1 < pa + size) || (s.homes.fresh.any fun c => pa ≤ c.1 && c.1 < pa + size)
      || taken.any fun x => x.1 < pa + size && pa < x.1 + x.2
  (((range 0 (s.homes.mem.length + s.homes.fresh.length + taken.length + 1)).find? fun i => !used (i * size)).getD 0) * size

/-- Frames for the leased pages of a launch that lie in the capacity tier, in the order they move: what the model lets the Monarch
find free when nothing else is said (DESIGN CHOICE, log 25). -/
def framesFor (s : State) (l : Launch) (r : Region) : List Nat :=
  let leaves : List Nat := (l.lease.flatMap fun x => range x.1 x.2).foldl (fun (acc : List (Nat × Nat)) page =>
    match s.walk r.ptroot (page * 4096) with
    | .ok (level, e) =>
      (match placeOf s.monarch (ptePa e) with
      | .tier _ => if acc.any fun x => x.1 == ptePa e then acc else acc ++ [(ptePa e, 2 ^ leafBits level)]
      | _ => acc)
    | .error _ => acc) [] |>.map Prod.snd
  (leaves.foldl (fun (taken : List (Nat × Nat)) size => taken ++ [(s.emptyFrame taken size, size)]) []).map Prod.fst

/-- LEASE_PIN (R330, R335): the launch's turn in its region, its leases within the budgets; a page without a translation is
referred to the region handler. -/
def pinLaunch (s : State) (id : Nat) (frames : List Nat) : State :=
  match s.launch? id with
  | none => s
  | some l =>
    match s.region? l.rid with
    | none => s
    | some r =>
      let earlier := (s.launches.takeWhile fun x => x.id != id).any fun x => x.rid == l.rid && x.state == .taken
      let bytes := l.lease.foldl (fun n x => n + 4096 * x.2) 0
      if l.state != .taken || earlier || l.referral.isSome || !s.leasesFit l.rid bytes true then s
      else
        match leasedPage l fun va => (s.regionPhys l.rid va).isNone with
        | some va => (s.modifyLaunch id fun l => { l with referral := some va }).report 0x335 [l.rid, va]
        | none =>
          match s.makeResident l r frames with
          | .error true => s.rejectLaunch id 4
          | .error false => s
          | .ok t => t.modifyLaunch id fun l => { l with pinned := true, state := .placing }

end State

/-- LEASE_PIN (R335): the subject's list names the frames of direct HBM4E that the Monarch has found free. -/
def execLeasePin (s : State) : Out := .next (s.pinLaunch s.subject.launch s.subject.list)

/-- LEASE_REFERRAL_ANSWER (R335): a translation has been provided, and pinning goes on; or none, and the launch is rejected. A host
handler's answer carries a number (R372). -/
def execLeaseReferralAnswer (s : State) : Out :=
  let id := s.subject.launch
  .next (s.command fun s => match (s.launch? id).bind Launch.referral with
    | none => s
    | some _ => if s.subject.flag then s.modifyLaunch id fun l => { l with referral := none } else s.rejectLaunch id 4)

/-! ## Where a gang fits (R258, R330, R336, R337) -/

/-- A block to place: its index, window units, the registers each of its warps needs in the order they are placed, and the core
within the cluster it must return to (R284). -/
structure BlockShape where
  index : Nat
  scratch : Nat
  needs : List Nat
  place : Option Nat
deriving DecidableEq, Repr

namespace State

/-- The blocks that hold windows of a core. -/
def blocksOn (s : State) (pcn : Nat) : List Block :=
  (s.gangs.filter placedGang).flatMap fun g => g.blocks.filter fun b => b.pcn == pcn && !b.retired

/-- Whether a core holds a region's work. -/
def coreHeld (s : State) (pcn : Nat) : Bool := !(s.warpsOn pcn).isEmpty || !(s.blocksOn pcn).isEmpty

/-- Whether taking a region's work makes a core reload (R343). -/
def needsReload (s : State) (rid pcn : Nat) : Bool := !(s.core pcn).loaded || (s.core pcn).rid != rid

/-- The scratchpad part a core has, or would have once configured for a region (R231, R337). -/
def splitFor (s : State) (rid pcn : Nat) : Nat :=
  if s.needsReload rid pcn then (s.region? rid).elim 0 Region.split else (s.core pcn).split

/-- R232: the lowest unit at which a window fits. -/
def windowAt (s : State) (rid pcn scratch : Nat) : Option Nat :=
  (range 0 (s.splitFor rid pcn + 1)).find? fun u => u + scratch ≤ s.splitFor rid pcn &&
    (s.blocksOn pcn).all fun b => u + scratch ≤ b.unit || b.unit + b.scratch ≤ u

/-- R258, R337: whether a core accepts a block of a region. -/
def acceptsBlock (s : State) (rid pcn : Nat) (b : BlockShape) : Bool :=
  (s.core pcn).enabled && (!s.coreHeld pcn || (s.core pcn).rid == rid)
    && (takeSlots b.needs (s.rooms pcn)).isSome && (s.windowAt rid pcn b.scratch).isSome

/-- R283, R284, R337: the cores of a cluster that blocks take, in block order, and how many of them reload; none when they do not
fit there. -/
def fitsOn (s : State) (rid cl : Nat) (shape : List BlockShape) : Option (List Nat × Nat) :=
  let reloads := fun (l : List Nat) => (l.filter (s.needsReload rid)).length
  if shape.any fun b => b.place.isSome then
    let cores := shape.map fun b => 4 * cl + b.place.getD 0
    if (cores.zip shape).all fun x => s.acceptsBlock rid x.1 x.2 then some (cores, reloads cores) else none
  else
    let ok := (range (4 * cl) 4).filter fun pcn => shape.all (s.acceptsBlock rid pcn)
    if ok.length < shape.length then none
    else
      let pick := ((ok.filter fun c => !s.needsReload rid c) ++ ok.filter (s.needsReload rid)).take shape.length
      let cores := (range (4 * cl) 4).filter pick.contains
      some (cores, reloads cores)

/-- R337: the cluster with the fewest reloads, then the lowest die and cluster number; clusters are numbered 16 × die + cluster. -/
def bestFit (s : State) (rid : Nat) (shape : List BlockShape) : Option (List Nat) :=
  ((range 0 64).foldl (fun (best : Option (List Nat × Nat)) cl =>
    match s.fitsOn rid cl shape, best with
    | none, _ => best
    | some x, none => some x
    | some x, some b => if x.2 < b.2 then some x else best) none).map Prod.fst

/-- R330, R196: whether a region's budgets, and its Chrysalis area, allow a shape on cores. -/
def budgetsAllow (s : State) (rid : Nat) (cores : List Nat) (shape : List BlockShape) (newAreas : Nat) : Bool :=
  s.withinBudgets rid cores (shape.foldl (fun n b => b.needs.foldl (· + ·) n) 0) (shape.foldl (fun n b => n + b.scratch) 0)
    && ((range 0 newAreas).foldl (fun (t : Option State) _ =>
      t.bind fun t => (t.recordArea rid).map fun va => t.takeArea rid va 1024) (some s)).isSome

/-! ## Which gang next (R336, R338) -/

/-- R338: a gang's effective priority. -/
def gangPrio (s : State) (g : Gang) : Nat :=
  let p := (s.region? g.rid).elim 0 fun r => (s.effective 5 Region.prio r s.regions.length).toNat
  if g.state = .placed then p else min 7 (p + g.aging)

/-- Whether a launch is being ended (R346). -/
def launchEnding (s : State) (id : Nat) : Bool := (s.launch? id).any fun l => l.ending.isSome

/-- R396: whether a gang belongs to a region that leaves the module, of a launch that need not end here first. -/
def staysAway (s : State) (g : Gang) : Bool :=
  (s.region? g.rid).any Region.migrating && (s.launch? g.launch).any fun l => l.stamp == 0

/-- R336, R341: the evicted gang of a region that is restored first. -/
def evictedHead (s : State) (rid : Nat) : Option Gang :=
  let before := fun (a b : Gang) =>
    if a.favoured != b.favoured then a.favoured else a.launch < b.launch || (a.launch == b.launch && a.index < b.index)
  (s.gangs.filter fun g => g.rid == rid && g.state == .evicted && !s.launchEnding g.launch && !s.staysAway g).foldl
    (fun (m : Option Gang) g => match m with | none => some g | some x => if before g x then some g else m) none

/-- R336: the unplaced gang of a region that is placed next: that of the first launch that has one left; a launch that is not yet
pinned, or is being ended, holds the later ones back. -/
def unplacedHead (s : State) (rid : Nat) : Option Gang :=
  match s.launches.find? fun l => l.rid == rid && (l.stamp != 0 || !(s.region? rid).any Region.migrating) && (l.state == .taken || (l.state == .placing &&
      (l.ending.isSome || s.gangs.any fun g => g.launch == l.id && g.state == .ready))) with
  | none => none
  | some l =>
    if l.state = .taken ∨ l.ending.isSome then none
    else if l.translated && (s.function? l.rid l.code l.kernel).isNone then none
    else s.gangs.find? fun g => g.launch == l.id && g.state == .ready

/-- The gangs the placer tries, one a region, in order: one that victims were chosen for (R339), then by effective priority, then the one
ready longest. Of a region that leaves the module only journaled launches go on (R396). -/
def readyGangs (s : State) : List Gang :=
  let heads := s.regions.filterMap fun r => match s.evictedHead r.rid with | some g => some g | none => s.unplacedHead r.rid
  let rank := fun (a b : Gang) =>
    if a.promised != b.promised then a.promised
    else s.gangPrio b < s.gangPrio a || (s.gangPrio a == s.gangPrio b && a.readyAt ≤ b.readyAt)
  heads.foldl (fun acc g => (acc.takeWhile (rank · g)) ++ g :: acc.dropWhile (rank · g)) []

/-! ## Reload and placement (R49, R232, R283, R343) -/

/-- R343: a core that takes another region's work is written back, emptied and configured. -/
def loadCore (s : State) (rid pcn : Nat) : State :=
  if !s.needsReload rid pcn then s
  else match s.region? rid with
    | none => s
    | some r =>
      let n := s.regions.length
      (s.flushL1 pcn).modifyCore pcn fun c => { c with
        tlb := [], ccache := [], footprint := [], loaded := true, rid := rid, ptroot := r.ptroot, keyid := r.keyid, split := r.split,
        tgen := r.tgen, dupn := s.effective 7 Region.dupn r n, trapmode := s.effective 8 Region.trapmode r n }

/-- A record area taken for a warp to come: its address and place. -/
def newArea (s : State) (rid : Nat) : State × Nat × Phys × Phys :=
  match s.recordArea rid with
  | none => (s, 0, ⟨0, 0, false⟩, ⟨0, 0, false⟩)
  | some va => (s.takeArea rid va 1024, va, (s.areaPlace rid va).getD (⟨0, 0, false⟩, ⟨0, 0, false⟩))

/-- The block of a gang put on a core: the core loaded, the window found and cleared, and the core's words acquired (R325). -/
def seatBlock (s : State) (g : Gang) (b : BlockShape) (pcn nwarp : Nat) (abandoned : Bool) : State × Nat :=
  let s := s.loadCore g.rid pcn
  let unit := (s.windowAt g.rid pcn b.scratch).getD 0
  let s := (s.clearWindow pcn unit b.scratch).dropShared pcn
  let block : Block :=
    { index := b.index, pcn := pcn, unit := unit, scratch := b.scratch, nwarp := nwarp, abandoned := abandoned, retired := false,
      barriers := Vector.replicate 16 Barrier.fresh }
  (s.modifyGang g.launch g.index fun g => { g with blocks := g.blocks ++ [block] }, unit)

/-- A gang that starts to be placed. -/
def beginPlacing (s : State) (g : Gang) : State :=
  s.modifyGang g.launch g.index fun g =>
    { g with state := .placed, placedAt := s.gtime, aging := 0, expired := false, victim := false, favoured := false, promised := false,
             blocks := g.blocks.filter Block.retired }

/-- R49, R258: a fresh block's warps, by index. -/
def seatWarps (s : State) (g : Gang) (l : Launch) (b : BlockShape) (pcn : Nat) : State :=
  ((range 0 b.needs.length).zip ((takeSlots b.needs (s.rooms pcn)).getD [])).foldl (fun s x =>
    let a := s.newArea g.rid
    let h : KernelHeader := ⟨l.varch, l.vren, l.scratch, l.nwarp, l.nblock, l.trapvec, 0, 0⟩
    let w := s.newWarp pcn x.2 g.launch g.index b.index (some x.1) l.khdr h a.2.1 a.2.2
    let w : Warp := { w with sreg := w.sreg.set 1 l.arg, sshd := w.sshd.set 1 .unbounded }
    (a.1.addWarp w).lunaPlaced w) s

/-- The power state once a gang has been placed (R377). -/
def powerRun (s : State) : State :=
  if s.monarch.power = .ready then { s with monarch := { s.monarch with power := .run } } else s

/-- The effective quantum of a region in nanoseconds. -/
def quantumOf (s : State) (rid : Nat) : Nat :=
  (s.region? rid).elim 0 fun r => 1000 * s.effective 4 Region.quantum r s.regions.length

/-- R338: the levels that a gang of a region ready since a time has gained by waiting. -/
def agedSince (s : State) (rid readyAt : Nat) : Nat := min 3 ((s.gtime - readyAt) / s.quantumOf rid)

/-- R18: a launch's constant space bound when it is placed: the frames that its pages have. -/
def bindConst (s : State) (id : Nat) : State :=
  s.modifyLaunch id fun l =>
    let first := l.constVa / 4096
    { l with constMap := if l.constLen = 0 then [] else
        (range first ((l.constVa + l.constLen - 1) / 4096 + 1 - first)).map fun page =>
          (s.regionPhys l.rid (page * 4096)).map fun p => (p.pa, p.key) }

/-- A fresh gang placed on cores: each block and its warps; the launch's next gang, ready as long as the first, is then the one to
place. The first binds the constant space. -/
def placeFresh (s : State) (g : Gang) (l : Launch) (cores : List Nat) (shape : List BlockShape) : State :=
  let s := if g.index = 0 then s.bindConst l.id else s
  let s := (cores.zip shape).foldl (fun s x =>
    (s.seatBlock g x.2 x.1 l.nwarp false).1.seatWarps g l x.2 x.1) (s.beginPlacing g)
  let s := if l.nextGang < l.gangs then
      { (s.modifyLaunch l.id fun l => { l with nextGang := l.nextGang + 1 }) with
        gangs := s.gangs ++ [{ newGang l l.nextGang l.readyAt with aging := s.agedSince l.rid l.readyAt }] }
    else s
  s.powerRun

/-- The shape of a fresh gang. -/
def freshShape (l : Launch) : List BlockShape :=
  (range 0 l.nblock).map fun b => ⟨b, l.scratch, List.replicate l.nwarp (l.varch + l.vren), none⟩

end State

/-! ## Restoring (R268, R284, R291) -/

/-- A block as its image holds it. -/
structure SavedBlock where
  index : Nat
  nwarp : Nat
  scratch : Nat
  abandoned : Bool
  phases : List Nat
  arrived : List Nat
  window : Part
  warps : List Saved
deriving DecidableEq, Repr

/-- The next multiple of 64. -/
def up64 (n : Nat) : Nat := (n + 63) / 64 * 64

/-- Bytes of a part of an image, with the words that are poisoned, counted from its start. -/
def Part.slice (p : Part) (o n : Nat) : Part :=
  ⟨(p.bytes.drop o).take n, (p.bad.filter fun w => o ≤ 4 * w && 4 * w < o + n).map (· - o / 4)⟩

/-- Warp images from an offset on, while `more` says that one lies there: the warps and the offset behind them. -/
def savedWarps (p : Part) (launch gang rid : Nat) (trapvec : Nat → Nat) (more : Nat → Nat → Bool) : Nat → Nat → Nat → List Saved × Nat
  | 0, _, o => ([], o)
  | fuel + 1, n, o =>
    if more n o then
      let h := p.slice o 256
      let len := warpImageLen (16 * numAt h.bytes 66 1) (popCount (BitVec.ofNat 4 (numAt h.bytes 65 1)))
      let im := p.slice o len
      let rest := savedWarps p launch gang rid trapvec more fuel (n + 1) (up64 (o + len))
      (savedWarp im.bytes im.bad launch gang rid (trapvec (numAt h.bytes 80 8)) :: rest.1, rest.2)
    else ([], o)

/-- The blocks of an image from an offset on: `n` blocks, `spawned` warps still to come. -/
def savedBlocks (p : Part) (launch gang rid : Nat) (trapvec : Nat → Nat) : Nat → Nat → Nat → List SavedBlock
  | 0, _, _ => []
  | n + 1, spawned, o =>
    let h := (p.slice o 192).bytes
    let scratch := numAt h 2 1
    let w := o + 192
    let members := popCount (BitVec.ofNat 16 (numAt h 4 2))
    let a := savedWarps p launch gang rid trapvec (fun k _ => k < members) 16 0 (up64 (w + scratch * 32768))
    let b := savedWarps p launch gang rid trapvec (fun k x => k < spawned
      && numAt p.bytes (x + 68) 1 == 255 && numAt p.bytes (x + 69) 1 == numAt h 0 1) spawned 0 a.2
    { index := numAt h 0 1, nwarp := numAt h 1 1, scratch := scratch, abandoned := numAt h 3 1 % 2 = 1,
      phases := (range 0 16).map fun k => numAt h (66 + 8 * k) 2, arrived := (range 0 16).map fun k => numAt h (64 + 8 * k) 2,
      window := p.slice w (scratch * 32768), warps := a.1 ++ b.1 }
      :: savedBlocks p launch gang rid trapvec n (spawned - b.1.length) b.2

namespace State

/-- The trap vector of a warp whose kernel header lies at an address. -/
def trapvecAt (s : State) (g : Gang) (khdr : Nat) : Nat :=
  match s.launch? g.launch with
  | some l => if l.khdr = khdr then l.trapvec else (((s.loaderRead g.rid khdr 64 false).bind headerOf).map KernelHeader.trapvec).getD 0
  | none => 0

/-- The blocks of an evicted gang, from its image. -/
def savedGang (s : State) (g : Gang) : List SavedBlock :=
  match g.image, s.region? g.rid with
  | some m, some r =>
    let p := s.readRegion g.rid (r.chrybase + m.1) m.2
    savedBlocks p g.launch g.index g.rid (s.trapvecAt g) (numAt p.bytes 0 1) (numAt p.bytes 1 1) 192
  | _, _ => []

/-- The shape of a saved gang; `places` gives each block's core within its cluster. -/
def savedShape (bs : List SavedBlock) (places : List Nat) : List BlockShape :=
  (bs.zip places).map fun x => ⟨x.1.index, x.1.scratch, x.1.warps.map fun w => w.warp.varch + w.warp.vren, some x.2⟩

/-- R256, R268, R291: what a warp that had arrived at a barrier waits for, by the word at its pc. One whose ARRIVED bit the image does
not hold had arrived in a phase that has completed, and leaves the barrier at its first try. -/
def savedWait (s : State) (rid : Nat) (b : SavedBlock) (w : Saved) : Option Wait :=
  if w.state ≠ 1 then none
  else
    let root := (s.region? rid).elim 0 Region.ptroot
    match decode (s.codeWord root w.warp.pc.toNat) with
    | .ok (.bar d id) =>
      let phase := b.phases.getD id.toNat 0
      let arrived := w.warp.index.any fun i => b.arrived.getD id.toNat 0 / 2 ^ i % 2 = 1
      some (.bar d id (if arrived then phase else phase + 65535))
    | .ok (.gbar d id) => some (.gbar d id 0)
    | _ => none

/-- R268: a saved warp in its new slot, its registers rebound, its tiles pinned, its queues its own again. A queue whose number another
warp owns on the new core becomes the restored warp's (the spec does not say: DESIGN CHOICE, log 64); a record area of its image that has
no translation takes no records (DESIGN CHOICE, log 91). -/
def seatSaved (s : State) (g : Gang) (b : SavedBlock) (pcn cw : Nat) (x : Saved) : State :=
  let wait := s.savedWait g.rid b x
  let w : Warp := { x.warp with
    pcn := pcn, cw := cw, recAt := s.areaPlace g.rid x.warp.recVa, wait := wait, status := if wait.isSome then .waiting else .ready,
    waitSince := s.clock, clkOff := x.warp.clkOff - BitVec.ofNat 64 s.clock }
  let s := ((s.addWarp w).lunaPlaced w).onWarp pcn cw fun t =>
    let t : State := { t with warp := { t.warp with areg := t.warp.areg.map t.frameOf } }
    let t : State := { t with warp := { t.warp with
      sums := (pinnedTiles t.warp).map fun k => establish t.warp.tileAcc k (tileCells t.warp t.warp.tileAcc k) } }
    x.queues.foldl (fun t q =>
      let p := streamOf (q.2.1.take 64)
      let a := if p.scratch then ArrayReg.start else t.warp.areg.get (aIdx p.areg)
      let lost := !p.scratch && (p.least < 0 || (a.extent.toNat : Int) ≤ p.greatest)
      t.setQueue pcn (BitVec.ofNat 2 q.1) (savedQueue t.warp q.2.1 q.2.2 lost)) t
  match wait with
  | some (.gbar _ id _) => s.modifyGang g.launch g.index fun g =>
      { g with barriers := g.barriers.set id.toNat ((g.barriers.get ⟨id.toNat, id.isLt⟩).arrive (32 * pcn + cw)) id.isLt }
  | _ => s

/-- R268, R284, R291: an evicted gang restored to cores: windows, barriers, warps; its image is given up. -/
def placeSaved (s : State) (g : Gang) (bs : List SavedBlock) (cores : List Nat) (shape : List BlockShape) : State :=
  let s := (s.beginPlacing g).modifyGang g.launch g.index fun g => { g with barriers := Vector.replicate 16 Barrier.fresh }
  let s := (cores.zip (shape.zip bs)).foldl (fun s x =>
    let pcn := x.1
    let b := x.2.2
    let seated := s.seatBlock g x.2.1 pcn b.nwarp b.abandoned
    let base := seated.2 * 32768
    let s := seated.1.modifyCore pcn fun c => { c with
      sram := c.sram.write base b.window.bytes, sramPoison := c.sramPoison ++ b.window.bad.map (· + base / 4) }
    let slots := (takeSlots x.2.1.needs (s.rooms pcn)).getD []
    let s := (slots.zip b.warps).foldl (fun s y => s.seatSaved g b pcn y.1 y.2) s
    let placeOfIndex := fun (i : Nat) => ((slots.zip b.warps).find? fun y => y.2.warp.index == some i).map fun y => 32 * pcn + y.1
    let bars := Vector.ofFn fun k : Fin 16 =>
      ({ arrived := ((range 0 16).filter fun i => b.arrived.getD k.val 0 / 2 ^ i % 2 = 1).filterMap placeOfIndex, again := [],
         phase := b.phases.getD k.val 0 } : Barrier)
    s.modifyBlock g.launch g.index b.index fun y => { y with barriers := bars }) s
  ((s.freeImage g.launch g.index).modifyGang g.launch g.index fun g => { g with places := [], areas := [] }).powerRun

/-! ## Eviction (R264, R339-R342) -/

/-- R339: whether one placed gang may be evicted for another: a lower effective priority, or an equal one with its quantum
expired. -/
def mayEvict (s : State) (g v : Gang) : Bool :=
  s.gangPrio v < s.gangPrio g || (s.gangPrio v == s.gangPrio g && v.expired)

/-- The state with gangs gone from their cores, to see what would fit. -/
def without (s : State) (vs : List Gang) : State :=
  let gone := fun (l g : Nat) => vs.any fun v => v.launch == l && v.index == g
  { s with
    others := s.warps.filter fun w => !gone w.launch w.gang
    warp := { s.warp with status := .free }
    gangs := s.gangs.map fun g => if gone g.launch g.index then { g with state := .evicted } else g }

/-- R339: the gangs on a cluster that a gang may evict, in the order they are taken: lowest effective priority first, then most
recently placed first. -/
def victimsOn (s : State) (g : Gang) (cl : Nat) : List Gang :=
  let vs := s.gangs.filter fun v => v.state == .placed && !v.asked && (v.blocks.any fun b => !b.retired && clusterOf b.pcn == cl)
    && s.mayEvict g v
  let before := fun (a b : Gang) => s.gangPrio a < s.gangPrio b || (s.gangPrio a == s.gangPrio b && b.placedAt ≤ a.placedAt)
  vs.foldl (fun acc v => (acc.takeWhile (before · v)) ++ v :: acc.dropWhile (before · v)) []

/-- R342: of gangs in order, those whose images the Chrysalis areas hold together. -/
def imagesFit (s : State) : List Gang → List Gang
  | [] => []
  | v :: rest =>
    match (s.region? v.rid).bind fun r => (fitArea r.chryUsed r.chrybase r.chrylen 64 (s.gangImageLen v)).map fun o => r.chrybase + o with
    | none => s.imagesFit rest
    | some va => v :: (s.takeArea v.rid va (s.gangImageLen v)).imagesFit rest

/-- R342: whether the Chrysalis area of a gang's region can hold its image beside those of the victims chosen before it whose drains have not
begun. -/
def imageFits (s : State) (v : Gang) : Bool :=
  (s.imagesFit ((s.gangs.filter fun x => x.victim && x.state == .placed && x.image.isNone) ++ [v])).contains v

/-- R339: the shortest prefix of a cluster's victims after whose eviction a shape fits there. -/
def victimPrefix (s : State) (g : Gang) (cl : Nat) (shape : List BlockShape) : Option (List Gang) :=
  let vs := s.imagesFit (s.victimsOn g cl)
  ((range 1 vs.length).find? fun k => ((s.without (vs.take k)).fitsOn g.rid cl shape).isSome).map vs.take

/-- R339: the shortest prefix over the clusters, then the fewest victim blocks, then the lowest cluster. -/
def chooseVictims (s : State) (g : Gang) (shape : List BlockShape) : Option (List Gang) :=
  let blocks := fun (vs : List Gang) => vs.foldl (fun n v => n + (v.blocks.filter fun b => !b.retired).length) 0
  (range 0 64).foldl (fun (best : Option (List Gang)) cl =>
    match s.victimPrefix g cl shape, best with
    | none, _ => best
    | some vs, none => some vs
    | some vs, some b => if vs.length < b.length || (vs.length == b.length && blocks vs < blocks b) then some vs else best) none

/-- A ready gang placed on cores, or restored to them. -/
def seat (s : State) (g : Gang) (cores : List Nat) (shape : List BlockShape) (bs : List SavedBlock) : State :=
  if g.state = .evicted then s.placeSaved g bs cores shape
  else match s.launch? g.launch with
    | none => s
    | some l => s.placeFresh g l cores shape

/-- One ready gang tried: placed where it fits, or victims chosen for it; none when neither is possible. `evicts`: it may choose
victims. -/
def tryPlace (s : State) (g : Gang) (evicts : Bool) : Option State :=
  let bs := if g.state = .evicted then s.savedGang g else []
  let shape := if g.state = .evicted then savedShape bs g.places else (s.launch? g.launch).elim [] freshShape
  let areas := if g.state = .evicted then 0 else shape.foldl (fun n b => n + b.needs.length) 0
  if shape.isEmpty then none
  else match s.bestFit g.rid shape with
    | some cores => if s.budgetsAllow g.rid cores shape areas then some (s.seat g cores shape bs) else none
    | none =>
      if !evicts || g.favoured then none
      else (s.chooseVictims g shape).map fun vs =>
        { s with gangs := s.gangs.map fun x =>
            if vs.any fun v => v.launch == x.launch && v.index == x.index then { x with victim := true }
            else if x.launch = g.launch ∧ x.index = g.index then { x with promised := true } else x }

/-- GANG_PLACE (R336-R339): the ready gangs are tried in order until one is placed or victims are chosen for one. While victims are
being drained nothing else is placed: their cores are kept for the gang they were chosen for. -/
def placeNext (s : State) : State :=
  if !s.monarchUp || s.gangs.any Gang.victim then s
  else (s.readyGangs.findSome? fun g => s.tryPlace g true).getD s

/-- GANG_RESTORE (R268): an evicted gang is placed again where it fits, when the placer comes to it: no gang that it tries earlier fits
anywhere (R336, R339). -/
def restoreGang (s : State) (launch gang : Nat) : State :=
  if !s.monarchUp || s.gangs.any Gang.victim || s.regions.any (fun r => r.migrating && (s.gang? launch gang).any fun g => g.rid == r.rid) then s
  else match s.gang? launch gang with
    | none => s
    | some g =>
      let me := fun (h : Gang) => h.launch == launch && h.index == gang
      if g.state = .evicted ∧ s.readyGangs.any me ∧ ((s.readyGangs.takeWhile fun h => !me h).all fun h => (s.tryPlace h false).isNone) then
        (s.tryPlace g false).getD s
      else s

/-! ### The drain of an eviction (R264) -/

/-- The current warp brought to its retirement boundary for a save: what it had executed retires, a fault that goes beyond it is not
delivered, its tiles are compared; or it is halted, by the fault it drains for or by a compare. -/
def drainForSave (s : State) : State :=
  if warpHalting s.warp then s.haltWarp
  else if s.warp.status = .halted then s
  else
    let s := s.finishExecuted
    if warpHalting s.warp then s.haltWarp
    else
      let s := { s with warp := { s.warp with pending := [] } }
      let c := s.compareEach (pinnedTiles s.warp)
      if c.2 then c.1 else (c.1.raise [c.1.gridRecord]).haltWarp

/-- Once every warp of the gang is at its boundary, and none more will be halted, the current warp leaves a barrier whose phase has
completed; it stays DRAINING. -/
def settleForSave (s : State) : State :=
  if s.warp.status = .halted then s
  else
    let s := s.leaveBarrier
    { s with warp := { s.warp with status := .draining } }

/-- R342: room kept in the Chrysalis area for the image of a gang whose drain begins; none where it does not fit. -/
def reserveImage (s : State) (g : Gang) : Option State :=
  if g.image.isSome then some s
  else (s.region? g.rid).bind fun r => (fitArea r.chryUsed r.chrybase r.chrylen 64 (s.gangImageLen g)).map fun o =>
    (s.takeArea g.rid (r.chrybase + o) (s.gangImageLen g)).modifyGang g.launch g.index fun g =>
      { g with image := some (o, s.gangImageLen g) }

/-- R342: a gang whose image does not fit is no victim; nor is any gang of its region then favoured for it (R341). -/
def unchoose (s : State) (g : Gang) : State :=
  let s := s.modifyGang g.launch g.index fun g => { g with victim := false }
  if s.gangs.any fun x => x.rid == g.rid && x.victim then s
  else { s with gangs := s.gangs.map fun x => if x.rid = g.rid then { x with favoured := false } else x }

/-- R265, R291: the STATE of a warp image: 1 when it has arrived at the barrier it waits at. -/
def savedState (w : Warp) : Nat :=
  match w.wait with
  | some (.bar ..) => 1
  | some (.gbar ..) => 1
  | _ => 0

/-- R264 step 5: the current warp's slot is freed once its image is written; its record area stays (R342). -/
def freeSaved (s : State) : State :=
  let w := s.warp
  let s := s.lunaWarp 0x12 (BitVec.ofNat 64 w.gang)
  let s := (s.freeQueues w.pcn w.cw).forgetBindings w.pcn w.cw
  { s with warp := { Warp.start with pcn := w.pcn, cw := w.cw } }

/-- GANG_EVICT (R264-R267): a gang chosen for eviction is drained, saved and taken from its cores. While a copy waits for another module its
warps are DRAINING; a dump that one of its warps owes is written in it; a halt goes before it. -/
def evictGang (s : State) (launch gang : Nat) : State :=
  match s.gang? launch gang with
  | none => s
  | some g =>
    let mine := ofGang launch gang
    if g.state != .placed || !g.victim || g.asked then s
    else match s.reserveImage g with
    | none => s.unchoose g
    | some s =>
      let s := s.onWarps mine beginDrain
      let s := (s.warps.filter mine).foldl (fun s w => s.finishCopies w.pcn w.cw) s
      if (s.warps.filter mine).any fun w => !s.copiesDone w.pcn w.cw then s
      else
        let s := (s.onWarps mine drainForSave).onWarps mine settleForSave
        -- a warp halted in the drain has its dump written, and the others go on being saved
        let s := ((s.region? g.rid).elim [] Region.dumps).foldl (fun s _ =>
          if (s.warps.filter mine).any fun w => w.status == .halted then s.writeDump g.rid none else s) s
        match s.gang? launch gang, s.region? g.rid with
        | some g, some r =>
          if g.asked || g.state != .placed || (s.warps.filter mine).any fun w => w.status == .halted then s
          else
            let khdr := (s.launch? launch).elim 0 Launch.khdr
            let im := s.gangImage g khdr savedState
            let o := g.image.elim 0 Prod.fst
            let areas := (s.warps.filter mine).map Warp.recVa
            let s := ((s.freeImage launch gang).writeRegion g.rid (r.chrybase + o) im).takeArea g.rid (r.chrybase + o) im.bytes.length
            let live := g.blocks.filter fun b => !b.retired
            let s := live.foldl (fun s b => s.clearWindow b.pcn b.unit b.scratch) s
            let s := s.onWarps mine freeSaved
            s.modifyGang launch gang fun g =>
              { g with state := .evicted, victim := false, image := some (o, im.bytes.length),
                       places := live.map fun b => b.pcn % 4, areas := areas, readyAt := s.gtime, aging := 0 }
        | _, _ => s

/-! ## Time (R338, R340, R341) -/

/-- QUANTUM_EXPIRY (R340). -/
def expireQuantum (s : State) (launch gang : Nat) : State :=
  s.modifyGang launch gang fun g =>
    if g.state = .placed ∧ g.placedAt + s.quantumOf g.rid ≤ s.gtime then { g with expired := true } else g

/-- PRIORITY_AGING (R338): one level a quantum waited, up to 3. -/
def ageGang (s : State) (launch gang : Nat) : State :=
  s.modifyGang launch gang fun g =>
    if (g.state = .ready ∨ g.state = .evicted) ∧ g.aging < 3 ∧ g.readyAt + (g.aging + 1) * s.quantumOf g.rid ≤ s.gtime then
      { g with aging := g.aging + 1 }
    else g

/-- WAITER_YIELD (R341): a gang all of whose warps have waited a quantum for a word makes way for an evicted gang of its region. -/
def yieldWaiters (s : State) (launch gang : Nat) : State :=
  match s.gang? launch gang with
  | none => s
  | some g =>
    let ws := (s.warps.filter (ofGang launch gang)).filter fun w => w.status != .halted
    let cycles := s.quantumOf g.rid / 1000 * s.monarch.clockMHz
    let waits := fun (w : Warp) => w.status == .waiting && w.waitSince + cycles ≤ s.clock
      && w.wait.any fun | .waitw .. => true | .waitwG .. => true | _ => false
    if g.state != .placed || g.asked || g.victim || ws.isEmpty || !ws.all waits || !s.imageFits g then s
    else match s.evictedHead g.rid with
      | none => s
      | some h => if h.favoured then s else (s.modifyGang launch gang fun g => { g with victim := true }).modifyGang h.launch h.index fun h =>
          { h with favoured := true }

end State

/-- GANG_PLACE (R337). -/
def execGangPlace (s : State) : Out := .next s.placeNext
/-- GANG_EVICT (R264). -/
def execGangEvict (s : State) : Out := .next (s.evictGang s.subject.launch s.subject.gang)
/-- GANG_RESTORE (R268). -/
def execGangRestore (s : State) : Out := .next (s.restoreGang s.subject.launch s.subject.gang)
/-- QUANTUM_EXPIRY (R340). -/
def execQuantumExpiry (s : State) : Out := .next (s.expireQuantum s.subject.launch s.subject.gang)
/-- PRIORITY_AGING (R338). -/
def execPriorityAging (s : State) : Out := .next (s.ageGang s.subject.launch s.subject.gang)
/-- WAITER_YIELD (R341). -/
def execWaiterYield (s : State) : Out := .next (s.yieldWaiters s.subject.launch s.subject.gang)

end Sys2Proof.Machine
end

