-- ==== Sys2Proof/Machine/Package.lean ====
section
/-!
DEFINITION. The memory controllers' own steps: data-bus inversion (R358), self-refresh (R360), merges and the memory-side cache
(R350, R362), the scrubber (R369, R370).
-/

namespace Sys2Proof.Machine

namespace State

/-! ## Channels (R349, R358, R360) -/

/-- A channel of the module's 8 stacks of 32 (R8, R13). -/
def channel (s : State) (stack ch : Nat) : Channel :=
  (s.homes.channels.find? fun c => c.stack == stack && c.ch == ch).getD (Channel.fresh stack ch)

/-- A channel replaced. -/
def setChannel (s : State) (c : Channel) : State :=
  s.setChannels (replaceWhere (fun x => x.stack == c.stack && x.ch == c.ch) c s.homes.channels)

/-- A step about the channel that the step at hand names, where there is such a channel (R8, R13). -/
def onChannel (s : State) (f : Channel → Channel) : State :=
  if s.subject.n < 8 ∧ s.subject.id < 32 then s.setChannel (f (s.channel s.subject.n s.subject.id)) else s

/-- R358: the energy of bursts, by the weights of the configuration image. -/
def energy (m : Monarch) (zeros toggles : Nat) : Nat := m.dbiw.1 * zeros + m.dbiw.2 * toggles

end State

/-- R358: the two counters of a channel after bursts in which DBI-DC and DBI-AC would have driven given zeros and toggles. -/
def Channel.counted (c : Channel) (m : Monarch) (x : List Nat) : Channel :=
  { c with counters := (c.counters.1 + State.energy m (x.getD 0 0) (x.getD 1 0), c.counters.2 + State.energy m (x.getD 2 0) (x.getD 3 0)) }

/-- R358: the comparison at the end of a window; a window counts its own bursts (DEDUCED, log 69). -/
def Channel.windowEnd (c : Channel) : Channel :=
  let mine := if c.dbiAc then c.counters.2 else c.counters.1
  let other := if c.dbiAc then c.counters.1 else c.counters.2
  { c with estimates := c.counters, counters := (0, 0), switching := 100 * other ≤ 94 * mine && other < mine }

namespace State

/-! ## The scrubber (R369, R370) -/

/-- The mark of a line without a stamp that no launch in flight carries (R370). -/
def dropOldStamp (s : State) (line : Nat) : State :=
  let m := s.mark line
  if m.stamp = 0 ∨ s.launches.any (fun l => l.stamp == m.stamp && l.state != .done) then s else s.setMark { m with stamp := 0 }

/-- R369: the patrol of a line, some of whose sectors (0-3) hold errors that cannot be corrected. -/
def patrol (s : State) (line : Nat) (bad : List Nat) : State :=
  let s := (bad.filter (· < 4)).foldl (fun (s : State) k => (s.poisonStored (4 * line + k)).report 0x369 [line, k]) (s.wake line)
  (s.checkTag line).dropOldStamp line

end State

/-- DBI_WINDOW_END (R358): the subject's list gives zeros and toggles under DBI-DC, then under DBI-AC, of the bursts since the channel's
last step. -/
def execDbiWindowEnd (s : State) : Out :=
  .next (s.onChannel fun c => (c.counted s.monarch s.subject.list).windowEnd)

/-- DBI_MODE_SWITCH (R358): at a refresh, a channel that owes a switch makes it, and its counters restart; the bursts since its last
step as above. -/
def execDbiModeSwitch (s : State) : Out :=
  .next (s.onChannel fun c =>
    if c.switching then { c with dbiAc := !c.dbiAc, switching := false, counters := (0, 0) } else c.counted s.monarch s.subject.list)

/-- SELF_REFRESH_ENTRY (R360): a request that arrives in the same cycle (the subject's flag) wins. -/
def execSelfRefreshEntry (s : State) : Out :=
  .next (if s.subject.flag then s else s.onChannel fun c => { c with selfRefresh := true })

/-- SELF_REFRESH_EXIT (R360): the request that caused it is served after it. -/
def execSelfRefreshExit (s : State) : Out := .next (s.onChannel fun c => { c with selfRefresh := false })

/-- CONTROLLER_WRITE (R350). -/
def execControllerWrite (s : State) : Out := .next (s.controllerWrite s.subject.n)

/-- MSC_REQUEST (R362, R363): a fill or a write-back (the flag) of bytes of one line, at least one: address and length. -/
def execMscRequest (s : State) : Out :=
  .next (s.mscRequest s.subject.addr (max 1 (min s.subject.len (192 - s.subject.addr % 192))) s.subject.flag)

/-- SCRUB_PATROL (R369). -/
def execScrubPatrol (s : State) : Out := .next (s.patrol s.subject.n s.subject.list)

end Sys2Proof.Machine
end

