-- ==== Sys2Proof/Machine/Monarch.lean ====
section
/-!
DEFINITION. The Monarch as a control processor: boot and the configuration image (R373, R374), standby (R372), attestation and keys
(R375), the host's two windows (R376), power (R377), the host's going and coming (R395), the trap mode (R269).
-/

namespace Sys2Proof.Machine

/-! ## The configuration image (R374) -/

/-- R374: whether an image's fields pass step 1 of R373, its signature apart. A repair entry names a stack, a channel and a
pseudo-channel that exist (R349). -/
def imageOk (bs : List Byte) : Bool :=
  let f := numAt bs
  let n := f 1284 4
  1384 ≤ bs.length && f 0 4 == 0x43464732 && f 4 2 == 2 && zeroAt bs 6 2 && zeroAt bs 16 16 && zeroAt bs 66 6
    && n ≤ 16384 && f 12 4 == 1384 + 8 * n && f 12 4 ≤ bs.length
    && 1 ≤ f 64 1 && f 64 1 ≤ 4 && f 65 1 < 4
    && f 1132 8 % 2097152 == 0 && 67108864 ≤ f 1132 8 && f 1132 8 ≤ 4294967296
    && ((range 32 32).all fun i => f i 1 < 128)
    && ((range 104 1024).all fun i => f i 1 == 255 || f i 1 < 32)
    && ((range 0 n).all fun k => f (1288 + 8 * k) 1 < 8 && f (1289 + 8 * k) 1 < 32 && f (1290 + 8 * k) 1 < 2)

namespace State

/-- The Monarch changed. -/
def modMonarch (s : State) (f : Monarch → Monarch) : State := { s with monarch := f s.monarch }

/-- R373: a step of the boot has failed. -/
def toRecovery (s : State) : State := s.modMonarch fun m => { m with power := .recovery }

/-- The image in flash, as long as it says it is. -/
def flashImage (s : State) : List Byte := s.monarch.image.take (numAt s.monarch.image 12 4)

/-- R374, R230, R362: the module configured by its image: the core enable map, the lane sparing map, empty tags of the memory-side
cache. -/
def configure (s : State) : State :=
  let bs := s.flashImage
  let f := numAt bs
  let part := fun (pcn k : Nat) (p : Partition) =>
    { Partition.reset with stuck := p.stuck, spare := if f (104 + 4 * pcn + k) 1 = 255 then none else some (f (104 + 4 * pcn + k) 1) }
  let cores := (range 0 256).map fun pcn =>
    { Core.reset pcn with
      enabled := f (72 + pcn / 8) 1 / 2 ^ (pcn % 8) % 2 == 1
      parts := Vector.ofFn fun k : Fin 4 => part pcn k.val ((s.core pcn).parts.get k) }
  let s : State := { s with cores := cores }
  (s.setMsc []).modMonarch fun m => { m with
    power := .ready, carve := f 64 1, integrity := f 65 1 % 2 == 1, encryption := f 65 1 / 2 % 2 == 1, heap := f 1132 8,
    dbiw := (f 1128 2, f 1130 2), fwhash := BitVec.ofNat 384 (f 1236 48), serial := BitVec.ofNat 256 (f 32 32),
    cen := BitVec.ofNat 256 (f 72 32), standby := false }

/-- R373: the boot ROM's five steps. -/
def boot (s : State) : State :=
  let f := numAt s.monarch.image
  if !imageOk s.monarch.image || !signatureOk Config.rootKey (s.flashImage.take (s.flashImage.length - 96)) (s.flashImage.drop (s.flashImage.length - 96)) then s.toRecovery
  else if f 8 4 < s.monarch.svn then s.toRecovery
  else
    let s := s.modMonarch fun m => { m with svn := f 8 4 }
    if ofBytes (sha384 s.monarch.firmware) ≠ f 1236 48 then s.toRecovery
    else if !Config.trainingOk s.clock then s.toRecovery
    else s.configure

/-- R377, R375: power is gone. Flash stays, and what is broken; what is to happen next (`agenda`) is no state of the module. -/
def powerOff (s : State) : State :=
  { State.reset with
    cores := (s.cores.filter fun c => c.parts.toList.any fun p => !p.stuck.isEmpty).map fun c =>
      { Core.reset c.pcn with parts := c.parts.map fun p => { Partition.reset with stuck := p.stuck } }
    monarch := { Monarch.reset with
      image := s.monarch.image, firmware := s.monarch.firmware, svn := s.monarch.svn, hostAttached := s.monarch.hostAttached }
    agenda := s.agenda, subject := s.subject }

end State

/-- POWER_ON (R373). -/
def execPowerOn (s : State) : Out := .next (if s.monarch.power = .off then s.boot else s)

/-- RECOVERY_IMAGE_WRITE (R373): a new image and firmware go to flash. -/
def execRecoveryImageWrite (s : State) : Out :=
  .next (if s.monarch.power = .recovery then
    s.actOnce fun s => s.modMonarch fun m => { m with image := s.subject.bytes, firmware := s.subject.more } else s)

/-- REBOOT_REQUEST (R373). -/
def execRebootRequest (s : State) : Out :=
  .next (if s.monarch.power = .recovery then s.actOnce State.boot else s)

/-- POWER_LOSS (R377, R375). -/
def execPowerLoss (s : State) : Out := .next s.powerOff

/-! ## The standby (R372) -/

/-- STANDBY_TAKEOVER (R372). -/
def execStandbyTakeover (s : State) : Out :=
  .next (if s.monarchUp then s.modMonarch fun m => { m with standby := true } else s)

/-- STANDBY_DIE_FAILURE (R372): die C3 fails while the standby holds control: the module stops and the host's link goes down. -/
def execStandbyDieFailure (s : State) : Out :=
  .next (if s.monarch.standby then s.modMonarch fun m => { m with stopped := true, hostAttached := false } else s)

/-! ## Attestation and keys (R375, R367) -/

namespace State

/-- R375: the 192 bytes of a report, in the order the rule names its parts, and then the signature over them. The spec gives no
byte layout (DESIGN CHOICE, log 22); the bytes it names no use for are free. -/
def attest (s : State) : State :=
  let m := s.monarch
  let body := (s.subject.bytes ++ List.replicate 32 0).take 32 ++ sha384 s.flashImage ++ bytesOf 48 m.fwhash.toNat
    ++ bytesOf 32 m.serial.toNat ++ bytesOf 4 0x4C370B02 ++ (range 164 28).map Config.reportByte
  s.modMonarch fun m => { m with report := body ++ sign Config.identityKey (Config.signingNonce body) body }

/-- What memory under a key id reads as once the id names another key: the ciphertext stays (R367). -/
def rekey (s : State) (k : BitVec 6) (new : Nat) : State :=
  let old := s.keyValue k
  if !s.monarch.encryption || old = new then s
  else (s.homes.marks.filter fun m => m.key == k).foldl (fun s m =>
    (range (m.line * 4) 4).foldl (fun (s : State) sec =>
      let bs := s.homes.mem.read (sec * 48) 48
      s.setMem (s.homes.mem.write (sec * 48) (recrypt sec old new bs))) s) s

/-- R375: a wrapped key for a key id from 1 to 63; one that does not unwrap changes nothing. -/
def loadKey (s : State) (id wrapped : Nat) : State :=
  match Config.unwrapKey wrapped with
  | none => s
  | some k =>
    if id = 0 ∨ 63 < id then s
    else (s.rekey (BitVec.ofNat 6 id) (k + 1)).modMonarch fun m =>
      { m with keys := replaceWhere (fun x => x.1 == id) (id, k) m.keys }

end State

/-- ATTESTATION_REPORT (R375): the host's nonce is the subject's bytes. -/
def execAttestationReport (s : State) : Out := .next (s.command State.attest)

/-- KEY_LOAD (R375). -/
def execKeyLoad (s : State) : Out := .next (s.command fun s => s.loadKey s.subject.id s.subject.value)

/-! ## Power and clock (R377, R378) -/

namespace State

/-- LUNA_SYNC (R378): a SYNC record in a cluster's recorder: GTIME, why, and the records dropped since the last. -/
def lunaSync (s : State) (cl : Nat) (clockChange : Bool) : State :=
  let x := 2 * min 127 (s.cluster cl).dropped + if clockChange then 1 else 0
  s.luna cl 0x01 0 (BitVec.ofNat 8 x) 0xFFFFFFFF#32 (BitVec.ofNat 64 s.gtime)

/-- The clock of every die set; every recorder marks the change. -/
def setClock (s : State) (mhz : Nat) : State :=
  if mhz = s.monarch.clockMHz then s
  else (range 0 64).foldl (fun s cl => s.lunaSync cl true) (s.modMonarch fun m => { m with clockMHz := mhz })

/-- R377: one sample of the module's power, in watts. -/
def samplePower (s : State) (watts : Nat) : State :=
  let m := s.monarch
  if m.power ≠ .run then s
  else if 3600 < watts then (s.setClock (max 1200 (m.clockMHz - 50))).modMonarch fun m => { m with calm := 0 }
  else if watts < 3400 then
    let calm := min 10 (m.calm + 1)
    (if calm = 10 then s.setClock (min 2400 (m.clockMHz + 50)) else s).modMonarch fun m => { m with calm := calm }
  else s.modMonarch fun m => { m with calm := 0 }

end State

/-- POWER_SAMPLE (R377). -/
def execPowerSample (s : State) : Out := .next (s.samplePower s.subject.value)

/-! ## The host's windows (R376) -/

namespace State

/-- Whether the host reaches the Monarch. -/
def hostUp (s : State) : Bool := s.monarch.hostAttached && s.monarchUp

/-- R376: whether a BAR2 offset reaches a byte. -/
def bar2Reaches (s : State) (o : Nat) : Bool :=
  match placeOf s.monarch o with
  | .direct _ => true
  | .tier _ => true
  | _ => false

/-- R376: a host read through BAR2: all ones where nothing is reached. -/
def hostLoad (s : State) (o n : Nat) : State :=
  let lines := (((range o n).filter s.bar2Reaches).map lineOf).eraseDups
  let s := lines.foldl (fun s l => s.atHomes 0 (192 * l) 192) s
  s.modMonarch fun m => { m with hostRead := (range o n).map fun a => if s.bar2Reaches a then s.agentByte 0 a else 0xFF }

/-- R376: a host write through BAR2: discarded where nothing is reached. -/
def hostStore (s : State) (o : Nat) (bs : List Byte) : State :=
  s.homeWriteAll 0 0 ((cellsFrom o bs).filter fun c => s.bar2Reaches c.1)

end State

/-- HOST_MEMORY_ACCESS (R376): `flag` for a write. -/
def execHostMemoryAccess (s : State) : Out :=
  let x := s.subject
  .next (if !s.hostUp then s else if x.flag then s.hostStore x.addr x.bytes else s.hostLoad x.addr x.len)

/-- HOST_REGISTER_WRITE (R376): a register of BAR0 that has no behaviour of its own holds what is written. -/
def execHostRegisterWrite (s : State) : Out :=
  let x := s.subject
  .next (if s.hostUp && x.addr < 2 ^ 24 then
    s.modMonarch fun m => { m with bar0 := replaceWhere (fun r => r.1 == x.addr) (x.addr, x.value) m.bar0 } else s)

/-! ## The host goes and comes (R395) -/

/-- HOST_LINK_LOST (R395): every pending delivery whose handler is the host is answered HALT. -/
def execHostLinkLost (s : State) : Out :=
  let s := s.modMonarch fun m => { m with hostAttached := false }
  .next (s.onWarps (fun w => State.awaitsAnswer w && !State.debugHeld w && (s.trapmodeOf w.rid).getLsbD 0) State.answerHalt)

/-- HOST_ATTACH (R395). -/
def execHostAttach (s : State) : Out := .next (s.modMonarch fun m => { m with hostAttached := true })

/-- TRAP_MODE_SET (R269): COALESCE when the subject's flag is set, else PERMIT. -/
def execTrapModeSet (s : State) : Out :=
  .next (if s.subject.pcn < 256 then s.modifyCore s.subject.pcn fun c => { c with coalesce := s.subject.flag } else s)

end Sys2Proof.Machine
end

