-- ==== Sys2Proof/Machine/Debug.lean ====
section
/-!
DEFINITION. Luna's own steps (R378, R379), safe points and the debugger (R380), causal experiments (R381), the translator and its
code heap (R384-R386).
-/

namespace Sys2Proof.Machine

/-! ## Luna (R378, R379) -/

/-- A step about the cluster that the step at hand names, one of the 64 (R8). -/
def State.onCluster (s : State) (f : State → Nat → State) : State := if s.subject.n < 64 then f s s.subject.n else s

/-- LUNA_RECORD (R378): an event of cluster n: its number (id), WHO (cw), ORDINAL (addr), DETAIL (value). -/
def execLunaRecord (s : State) : Out :=
  let x := s.subject
  .next (s.onCluster fun s n =>
    s.luna n (BitVec.ofNat 8 x.id) (BitVec.ofNat 8 x.cw) 0 (BitVec.ofNat 32 x.addr) (BitVec.ofNat 64 x.value))

/-- LUNA_SYNC (R378). -/
def execLunaSync (s : State) : Out := .next (s.onCluster fun s n => s.lunaSync n s.subject.flag)

/-- LUNA_REARM (R379): the Monarch reads the ring, and the recorder writes again. -/
def execLunaRearm (s : State) : Out :=
  .next (s.onCluster fun s n => s.setCluster { s.cluster n with frozen := false, left := none, leftBefore := none })

/-- FREEZE_MASK_SET (R379). -/
def execFreezeMaskSet (s : State) : Out :=
  .next (s.onCluster fun s n => s.setCluster { s.cluster n with mask := BitVec.ofNat 8 s.subject.value })

/-- CLUSTER_WATCHDOG (R378): a cluster that holds a READY warp has retired nothing for 2²⁴ cycles. -/
def execClusterWatchdog (s : State) : Out :=
  .next (s.onCluster fun s cl => if s.warps.any fun w => State.clusterOf w.pcn == cl && w.status == .ready then
    s.luna cl 0x41 0 0 0xFFFFFFFF#32 0 else s)

/-! ## Safe points (R380, R138) -/

namespace State

/-- R380, R138: why the current warp stops before a word it is about to run: a breakpoint (1), a single step (cause STEP, R195). A
word it has just been stopped at does not stop it again. A `rep` that is issued with XREP other than 0 is no stop site of its own word,
since R138 names that site "with XREP = 0" (DEDUCED, log 60). Between a `tret.x` and the retirement of what it reruns nothing stops
it (R198). -/
def stopReason (s : State) (w : Word) : Option Nat :=
  if !w.getLsbD 31 || s.warp.resumed || s.warp.rerun || (majorOf w == 0x12 && s.warp.xrep != 0) then none
  else
    let points := (s.region? s.warp.rid).elim [] Region.breakpoints
    if !points.isEmpty && points.contains (s.ordinalOf s.warp.launch s.faultPc.toNat).toNat then some 1
    else if s.warp.stepping then some cSTEP.toNat else none

/-- The subject's warp, when the debugger holds it (R380). -/
def onStopped (s : State) (f : State → State) : State := s.onSubject (fun w => awaitsAnswer w && debugHeld w) f

end State

/-- BREAKPOINT_SET (R380): up to 8 ordinals of a region. -/
def execBreakpointSet (s : State) : Out :=
  .next (s.command fun s =>
    if 8 < s.subject.list.length then s
    else s.modifyRegion s.subject.rid fun r => { r with breakpoints := s.subject.list })

/-- SINGLE_STEP (R380): a stopped warp goes on to its next safe point. -/
def execSingleStep (s : State) : Out :=
  .next (s.command fun s => s.onStopped fun t =>
    let t := t.answer .retry
    { t with warp := { t.warp with stepping := true } })

/-- SAFE_POINT_STOP (R380): a warp that has come to a word it must stop before, and does not wait at it: one whose instruction has
executed is past its stop (R216, R221). -/
def execSafePointStop (s : State) : Out :=
  .next (s.onSubject (fun w => w.status == .ready && w.wait.isNone) fun t =>
    match t.nextWord?.bind t.stopReason with
    | some reason => t.debugStop reason
    | none => t)

/-- SAMPLE_PERIOD_SET (R380): a period of 2¹² to 2³² cycles, of one of the 256 cores (R8). -/
def execSamplePeriodSet (s : State) : Out :=
  let n := s.subject.value
  .next (if s.subject.pcn < 256 && 4096 ≤ n && n ≤ 2 ^ 32 then s.modifyCore s.subject.pcn fun c => { c with samplePeriod := some n } else s)

/-- SAMPLE_PERIOD_END (R380). -/
def execSamplePeriodEnd (s : State) : Out :=
  .next (if s.subject.pcn < 256 then s.modifyCore s.subject.pcn fun c => { c with sampleDue := c.sampleDue || c.samplePeriod.isSome } else s)

/-! ## The debugger and registers (R380)

The spec says that a stopped warp's registers are read and written through the Monarch; how a command names one is the model's
(DESIGN CHOICE, log 23). -/

namespace State

/-- A register of the current warp as the debugger reads it: class, number, lane or part. -/
def debugRead (s : State) (cls n k : Nat) : DWord :=
  let w := s.warp
  if cls = 0 then s.readS (BitVec.ofNat 7 n)
  else if cls = 1 then ((s.readV (BitVec.ofNat 7 n)).get ⟨k % 32, Nat.mod_lt _ (by decide)⟩).setWidth 64
  else if cls = 2 then (s.readP (BitVec.ofNat 3 n)).setWidth 64
  else if cls = 3 then w.mode
  else if cls = 4 then w.pc.setWidth 64
  else if cls = 5 then w.flg.setWidth 64
  else if cls = 6 then w.active.setWidth 64
  else if cls = 7 then (if n = 0 then w.xs0 else w.xs1)
  else if cls = 8 then (sysRead s n).1
  else if cls = 9 then ((s.readF (BitVec.ofNat 2 n)).get ⟨k % 32, Nat.mod_lt _ (by decide)⟩).setWidth 64
  else
    let a := s.readA (BitVec.ofNat 4 n)
    if k = 0 then a.base.setWidth 64 else if k = 1 then a.extent.setWidth 64
    else if k = 2 then BitVec.ofNat 64 (a.esize.toNat + 16 * a.check.toNat + (if a.ro then 64 else 0) + 2 ^ 16 * a.vcount.toNat)
    else if k = 3 then a.frame.setWidth 64 else if k = 4 then a.limit.setWidth 64 else a.tgen.setWidth 64

/-- A register of the current warp as the debugger writes it; nothing is known of the value (R25: W = 1). An array register's run is
found again. -/
def debugWrite (s : State) (cls n k : Nat) (x : DWord) : State :=
  if cls = 0 then s.writeS (BitVec.ofNat 7 n) x .unbounded
  else if cls = 1 then
    let r := BitVec.ofNat 7 n
    s.putV r ((s.readV r).set (k % 32) (x.setWidth 32) (Nat.mod_lt _ (by decide))) .unbounded
  else if cls = 2 then s.writeP (BitVec.ofNat 3 n) 0xFFFFFFFF#32 (x.setWidth 32)
  else if cls = 3 then s.setMode x
  else if cls = 4 then { s with warp := { s.warp with pc := x.setWidth 48, rep := none } }
  else if cls = 5 then { s with warp := { s.warp with flg := x.setWidth 8 } }
  else if cls = 6 then s.setActive (x.setWidth 32)
  else if cls = 7 then (if n = 0 then { s with warp := { s.warp with xs0 := x } } else { s with warp := { s.warp with xs1 := x } })
  else if cls = 8 then (if sysWritable n then sysWrite s n x else s)
  else if cls = 9 then
    let f := BitVec.ofNat 2 n
    s.writeF f ((s.readF f).set (k % 32) (x.setWidth 32) (Nat.mod_lt _ (by decide)))
  else
    let r := BitVec.ofNat 4 n
    let a := s.readA r
    let a := if k = 0 then { a with base := x.setWidth 48 } else if k = 1 then { a with extent := x.setWidth 31 }
      else if k = 2 then { a with esize := x.setWidth 4, check := x.extractLsb' 4 2, ro := x.getLsbD 6, vcount := x.extractLsb' 16 16 }
      else a
    s.writeA r (s.frameOf a)

end State

/-- DEBUG_REGISTER_ACCESS (R380): class `id`, number `n`, lane or part `len`; `flag` for a write of `value`. The handler of a TRAPPED warp
that no debugger holds may so rewrite its trap registers (R271), the system registers 0x30 to 0x34. -/
def execDebugRegisterAccess (s : State) : Out :=
  let x := s.subject
  .next (s.command fun s => s.onSubject State.awaitsAnswer fun t =>
    if State.debugHeld t.warp then
      if x.flag then t.debugWrite x.id x.n x.len (BitVec.ofNat 64 x.value)
      else t.modMonarch fun m => { m with hostRead := bytesOf 8 (t.debugRead x.id x.n x.len).toNat }
    else if x.flag && x.id == 8 && 0x30 ≤ x.n && x.n ≤ 0x34 then t.debugWrite 8 x.n 0 (BitVec.ofNat 64 x.value)
    else t)

/-! ## Causal experiments (R381, R147) -/

namespace State

/-- R381: the progress counters of the cores, and they cleared. -/
def takeProgress (s : State) : State × List (Nat × List Nat) :=
  ({ s with cores := s.cores.map fun (c : Core) => { c with pmark := Vector.replicate 8 0 } },
    s.cores.map fun c => (c.pcn, c.pmark.toList.map BitVec.toNat))

/-- R381: the counts of a period that is over, or of an experiment that is, set to 0. -/
def clearCausal (s : State) : State :=
  let fresh := fun (w : Warp) => { w with causalHits := 0 }
  { s with
    warp := fresh s.warp, others := s.others.map fresh
    cores := s.cores.map fun (c : Core) => { c with causal := 0 } }

/-- R381: an experiment started. -/
def startCausal (s : State) (rid segment first last speedup : Nat) : State :=
  if 256 < speedup || s.monarch.causal.isSome then s
  else
    let t := s.takeProgress
    (clearCausal t.1).modMonarch fun m => { m with causal := some ⟨rid, segment, first, last, speedup, t.2⟩ }

/-- R381: the experiment ended: its counters go to the Monarch's log. -/
def endCausal (s : State) : State :=
  match s.monarch.causal with
  | none => s
  | some _ =>
    let t := s.takeProgress
    let t := t.2.foldl (fun (u : State) c => u.report 0x381 (c.1 :: c.2)) t.1
    t.modMonarch fun m => { m with causal := none }

/-- R381: whether a warp has a word at the head of its reorder buffer: it runs or waits at one. One that is held from dispatch, backs off,
is TRAPPED, drains or is halted has none there (DEDUCED, log 77). -/
def headed (s : State) (w : Warp) : Bool := (w.status == .ready && w.hold ≤ s.clock) || w.status == .waiting

/-- R381: whether the word at the head of a warp lies in the experiment's range of its code segment. -/
def inCausalRange (s : State) (e : Causal) (w : Warp) : Bool :=
  let va := (if w.rep.isSome then w.pc + 4 else w.pc).toNat
  let o := (s.ordinalOf w.launch va).toNat
  w.rid == e.rid && s.headed w && (s.segmentOf w.launch va).any (fun g => g.start == e.segment) && e.first ≤ o && o ≤ e.last

/-- R381: cycles that pass, counted for the warps whose word lies in the range and for their cores. -/
def countCausal (s : State) (cycles : Nat) : State :=
  match s.monarch.causal with
  | none => s
  | some e =>
    let hit := s.inCausalRange e
    let count := fun (w : Warp) => if hit w then { w with causalHits := w.causalHits + cycles } else w
    let cores := (s.warps.filter hit).map Warp.pcn
    { s with
      warp := count s.warp, others := s.others.map count
      cores := s.cores.map fun (c : Core) => if cores.contains c.pcn then { c with causal := c.causal + cycles } else c }

/-- R381: the end of a period: warps of the region without a cycle in the range are held from dispatch. -/
def endCausalPeriod (s : State) : State :=
  match s.monarch.causal with
  | none => s
  | some e =>
    let imax := (s.cores.filter fun c => c.rid == e.rid).foldl (fun n c => max n c.causal) 0
    let settle := fun (w : Warp) =>
      if w.rid = e.rid ∧ w.causalHits = 0 then { w with hold := s.clock + e.speedup * imax / 256 } else w
    clearCausal { s with warp := settle s.warp, others := s.others.map settle }

end State

/-- CAUSAL_EXPERIMENT (R381): started (`flag`) over the ordinals n to len of the code segment that starts at `addr`, with F in `value`; or
ended. -/
def execCausalExperiment (s : State) : Out :=
  let x := s.subject
  .next (s.command fun s => if x.flag then s.startCausal x.rid x.addr x.n x.len x.value else s.endCausal)

/-- CAUSAL_PERIOD_END (R381). -/
def execCausalPeriodEnd (s : State) : Out := .next s.endCausalPeriod

/-! ## The translator (R384-R386) -/

/-- An address, or another number of at most 48 bits, put into a scalar register. -/
def constantInto (r : BitVec 7) (n : Nat) : List Instr :=
  [.sli r (BitVec.ofNat 18 (n / 2 ^ 36)), .slih r (BitVec.ofNat 18 (n / 2 ^ 18)), .slih r (BitVec.ofNat 18 n)]

/-- An array register bound, through two scalar registers from `r` on, to one element of 8 bytes. -/
def boundTo (k : BitVec 4) (r : BitVec 7) (at_ : Nat) : List Instr :=
  constantInto r at_ ++ constantInto (r + 1) (3 * 2 ^ 32 + 1) ++ [.abinds k r]

/-- R385: the four steps of a function's stub: its number posted with a release atomic, the wait at its slot, `fetchb`, the jump. Which
instructions do them, and in which registers, is not stated (DESIGN CHOICE, log 101). -/
def stubSteps (code fn : Nat) : List Instr :=
  let r := BitVec.ofNat 7 (Config.stubScalar code fn % 59)
  let k := Config.stubArray code fn
  let slot := Config.slotAddress code fn
  boundTo k r Config.requestWord ++ [.sli (r + 2) 0] ++ constantInto (r + 3) fn ++ [.axchSg (r + 3) k (r + 2) 2]
    ++ constantInto r slot ++ constantInto (r + 1) (Config.stubAddress code fn) ++ [.waitwG r (r + 1), .fetchb]
    ++ boundTo k r slot ++ [.slda (r + 3) k (r + 2) 0, .jmpi (r + 3)]

/-- The bytes of a function's stub. -/
def stubCode (code fn : Nat) : List Byte := (stubSteps code fn).flatMap fun i => (encode i).elim [] fun w => bytesOf 4 w.toNat

namespace State

/-- R385: an address stored into a function's slot, with a release. -/
def setSlot (s : State) (rid code fn addr : Nat) : State :=
  s.writeRegion rid (Config.slotAddress code fn) ⟨bytesOf 8 addr, []⟩

/-- R386: the least recently published function whose code object has no placed and no ready gang. -/
def coldest (s : State) : Option Translated :=
  s.monarch.functions.find? fun f => !s.launches.any fun l => l.rid == f.rid && l.code == f.code
    && s.gangs.any fun g => g.launch == l.id && g.state != .retired

/-- R386 step 2: cold functions evicted until `len` bytes fit, their slots back at their stubs first. -/
def evictCold (s : State) (len : Nat) : Nat → State
  | 0 => s
  | fuel + 1 =>
    let used := s.monarch.functions.map fun f => (f.off, f.len)
    if (fitArea used Config.heapVirtual s.monarch.heap 4096 len).isSome then s
    else match s.coldest with
      | none => s
      | some f =>
        ((s.setSlot f.rid f.code f.fn (Config.stubAddress f.code f.fn)).modMonarch fun m =>
          { m with functions := m.functions.filter (· != f) }).evictCold len fuel

/-- R385: before the first function of a code object is translated, every slot starts out pointing at its stub. -/
def placeStubs (s : State) (rid code : Nat) : State :=
  if s.monarch.functions.any fun f => f.rid == rid && f.code == code then s
  else (range 0 (Config.functionCount (s.golierum rid code))).foldl (fun s fn =>
    (s.writeRegion rid (Config.stubAddress code fn) ⟨stubCode code fn, []⟩).setSlot rid code fn (Config.stubAddress code fn)) s

/-- R384: launches of a translated kernel take its header and its constant segment from where they have come to lie. -/
def bindLaunches (s : State) (f : Translated) : State :=
  { s with launches := s.launches.map fun l =>
    if l.translated ∧ l.rid = f.rid ∧ l.code = f.code ∧ l.kernel = f.fn ∧ l.state ≠ .done then
      { l with khdr := Config.heapVirtual + f.off, constVa := Config.heapVirtual + f.constOff, constLen := f.constLen }
    else l }

end State

/-- R384, R385: what a function takes of the code heap, its constants beginning on a page of their own: where these begin, and in all. -/
def heapNeed (sec : List Byte) (code fn : Nat) : Nat × Nat :=
  let n := (nativeFunction sec code fn).length
  let at_ := (n + 4095) / 4096 * 4096
  if (constantsFor sec code fn).isEmpty then (0, n) else (at_, at_ + (constantsFor sec code fn).length)

namespace State

/-- R385: a function translated from its section's bytes, written to the heap with its constants, written back and invalidated as `dwb`
and `iinv` do, and then published. -/
def publish (s : State) (sec : List Byte) (rid code fn off : Nat) : State :=
  let bs := nativeFunction sec code fn
  let cs := constantsFor sec code fn
  let need := heapNeed sec code fn
  let base := Config.heapPhysical + off
  let s := s.homeWriteAll 0 0 (cellsFrom base bs ++ cellsFrom (base + need.1) cs)
  let s : State := { s with cores := s.cores.map fun (c : Core) =>
    { c with icache := c.icache.filter fun e => !(base ≤ e.1 + 3 && e.1 < base + need.2) } }
  let va := Config.heapVirtual + off
  let kernel : Segment := ⟨va + 4 * entryWord sec code fn, (Config.translation sec code fn).length / 4 - entryWord sec code fn⟩
  let f : Translated :=
    ⟨rid, code, fn, off, need.2, off + need.1, cs.length, s.prefixed ((s.region? rid).elim 0 Region.ptroot) va [kernel]⟩
  ((s.modMonarch fun m => { m with functions := m.functions ++ [f] }).bindLaunches f).setSlot rid code fn va

/-- R386 step 4: the launch that asked is rejected when nothing of it has been placed; warps that wait in the function's stub take
CODE_HEAP_FULL at their `waitw.g`. -/
def heapFull (s : State) (rid launch code fn : Nat) : State :=
  let mine := s.gangs.filter fun g => g.launch == launch
  let s := if (s.launch? launch).any (fun l => l.rid == rid && l.code == code && l.state != .done && l.nextGang ≤ 1)
      && mine.all (fun g => g.state == .ready) then s.rejectLaunch launch 6 else s
  let slot := Config.slotAddress code fn
  s.onWarps (fun w => w.rid == rid && w.status == .waiting && w.wait.any fun | .waitwG va _ => va == slot | _ => false)
    fun t => t.fault .scalar ⟨cHEAP, 0, BitVec.ofNat 64 slot⟩

/-- TRANSLATE_FUNCTION (R385, R386). -/
def translateFunction (s : State) (rid launch code fn : Nat) : State :=
  let sec := s.golierum rid code
  let len := (heapNeed sec code fn).2
  let place := fun (s : State) =>
    fitArea (s.monarch.functions.map fun f => (f.off, f.len)) Config.heapVirtual s.monarch.heap 4096 len
  if !s.monarchUp || (s.function? rid code fn).isSome then s
  else
    let s := s.placeStubs rid code
    match place s with
    | some o => s.publish sec rid code fn o
    | none =>
      let t := s.evictCold len s.monarch.functions.length
      match place t with
      | some o => t.publish sec rid code fn o
      | none => t.heapFull rid launch code fn

end State

/-- TRANSLATE_FUNCTION (R385): function n of the code object at `addr` of a region, for a `launch` that is not yet placed; or, with `flag`,
the function whose number a stub has posted to the translator's request word. -/
def execTranslateFunction (s : State) : Out :=
  let x := s.subject
  .next (s.translateFunction x.rid x.launch x.addr (if x.flag then ofBytes (s.readRegion x.rid Config.requestWord 8).bytes else x.n))

end Sys2Proof.Machine
end

