-- ==== Sys2Proof/Machine/Fabric.lean ====
section
/-!
DEFINITION. The fabric: flits that arrive and links (R387, R388), peers that are lost (R393), pool rows and tables (R389, R391, R392),
and the migration of a region (R396).
-/

namespace Sys2Proof.Machine

namespace State

/-! ## Ports (R387, R388) -/

/-- The cluster whose recorder takes a port's events: the first of the port's die, four ports to a die (DESIGN CHOICE, log 24). -/
def portCluster (id : Nat) : Nat := 16 * (id / 4)

/-- R387: a replay on a port, of a flit that failed its check here or at the peer; 256 within 100 µs are a storm (R387 does not say at
which of the two ports a replay counts: DESIGN CHOICE, log 79). -/
def replayFlit (s : State) (p : Port) : State :=
  let recent := s.gtime :: p.replays.filter fun t => s.gtime < t + 100000
  if 256 ≤ recent.length then
    (s.setPort { p with replays := [] }).luna (portCluster p.id) 0x42 0 0 0xFFFFFFFF#32 (BitVec.ofNat 64 p.id)
  else s.setPort { p with replays := recent }

/-- R387: an intact flit whose turn it is: what it acknowledges leaves the replay buffer; its payload is delivered, but for an idle flit
and one for another module (the spec has no module pass flits on: DESIGN CHOICE, log 79). One replayed on another path comes with
its `original` number, by which one that has been delivered already is known and discarded (R388). -/
def takeFlit (s : State) (p : Port) (flit : List Byte) (original : Option Word) : State :=
  let kind := numAt flit 0 2
  let payload := (flit.drop 16).take 224
  let known := (numAt flit 2 2, original.getD (BitVec.ofNat 32 (numAt flit 8 4)), payload)
  let mine := numAt flit 4 4 == Config.moduleNumber && numAt flit 2 2 < 4096 && 1 ≤ kind && kind ≤ 3
  let fresh := mine && !(original.isSome && s.fabric.taken.contains known)
  let s := s.setPort { p with
    nextSeq := p.nextSeq + 1
    delivered := if fresh then p.delivered ++ [payload] else p.delivered }
  let s : State := if fresh then { s with fabric := { s.fabric with taken := s.fabric.taken ++ [known] } } else s
  s.acknowledged p.id (BitVec.ofNat 32 (numAt flit 12 4))

/-- R387: a flit arrives at a port. An intact one is taken when it is the next in SEQ order; one taken before, or ahead of its turn, is
not. -/
def receiveFlit (s : State) (id : Nat) (flit : List Byte) (original : Option Word) : State :=
  let p := s.port id
  if 16 ≤ id || p.down || p.retraining then s
  else if !Config.flitCheckOk (BitVec.ofNat 2048 (ofBytes flit)) then s.replayFlit p
  else if BitVec.ofNat 32 (numAt flit 8 4) != p.nextSeq then s
  else s.takeFlit p flit original

/-- R387: a flit that this port has sent failed its CHECK at the peer. -/
def flitFailed (s : State) (id : Nat) (seq : Word) : State :=
  let p := s.port id
  if 16 ≤ id || p.down || p.retraining || !(p.buffer.any fun f => f.seq == seq) then s else (s.replayFlit p).resend id seq

/-- The subject's port, one of the sixteen (R13), when it has a property. -/
def onPort (s : State) (ok : Port → Bool) (f : State → Port → State) : State :=
  if s.subject.id < 16 ∧ ok (s.port s.subject.id) then f s (s.port s.subject.id) else s

end State

/-- FLIT_RECEIVE (R387); `flag` for a flit that is replayed on another path than it was first sent on, n its original number (R388); or,
with `flag2`, the peer of the port finds that the flit of SEQ n fails its check. -/
def execFlitReceive (s : State) : Out :=
  let x := s.subject
  let n := BitVec.ofNat 32 x.n
  .next (if x.flag2 then s.flitFailed x.id n else s.receiveFlit x.id x.bytes (if x.flag then some n else none))

/-- LANE_SPARE (R388): the spare lane takes the place of one of the 8, once; what was not acknowledged is sent again after the stall. -/
def execLaneSpare (s : State) : Out :=
  .next (s.onPort (fun p => p.sparedLane.isNone && !p.down && s.subject.n < 8) fun s p =>
    (s.setPort { p with sparedLane := some s.subject.n }).replayBuffer p.id)

/-- LINK_RETRAIN (R388): a second lane fails, the spare being in use. -/
def execLinkRetrain (s : State) : Out :=
  .next (s.onPort (fun p => p.sparedLane.isSome && !p.down) fun s p => s.setPort { p with retraining := true })

/-- LINK_RETRAIN_DONE (R388): the link goes on with its 4 best lanes, and what was not acknowledged is sent again. -/
def execLinkRetrainDone (s : State) : Out :=
  .next (s.onPort Port.retraining fun s p => (s.setPort { p with retraining := false, lanes := 4 }).replayBuffer p.id)

/-- LINK_DOWN (R388): the retrain fails or takes longer than 20 µs; what the link had to carry moves to the next paths. -/
def execLinkDown (s : State) : Out :=
  .next (s.onPort Port.retraining fun s p => (s.setPort { p with retraining := false, down := true, lanes := 0 }).reroute p.id)

/-! ## Lost peers (R393) -/

namespace State

/-- The rows of a copy that it still waits for and that a lost peer is the home of, or was asked for: positions in its index list. -/
def lostRows (s : State) (pcn : Nat) (c : Copy) (peer : Nat) : List Nat :=
  match c.version with
  | none => []
  | some (t, v) => (range 0 c.count).filter fun m =>
      !s.dropped pcn c m && (s.rowHome t v (indexOf c m).toNat == some peer || (c.rowAsked m).contains peer)
        && (match c.op with
          | .gather => !rowWhole c m
          | _ => c.todo.any fun o => o / (c.size / 4) == m)

/-- LOST_REQUEST_COMPLETION (R393): a copy's requests to a lost peer end. -/
def endLost (s : State) (pcn id peer : Nat) : State :=
  if !s.isLost peer then s
  else
    let s := s.readIndices pcn id
    match s.copy? pcn id with
    | none => s
    | some c => if !c.areg.pooled then s else (s.lostRows pcn c peer).foldl (fun s m => s.endLostRow pcn id m) s

/-- A region that has not been able to leave stays: its queue is served and its gangs restored here again, and the host is told. -/
def endMigration (s : State) (rid peer code : Nat) : State :=
  (s.modifyRegion rid fun r => { r with
    migrating := false, copied := false, sentTo := 0, stopped := decide (2 ^ r.lqorder < queued r) }).report code [rid, peer]

/-- R393: what the Monarch had asked of a lost peer ends failed and is reported: moves of rows to it, restores of journals, and regions
sent to it. -/
def endLostMoves (s : State) (peer : Nat) : State :=
  let moves := s.fabric.tables.flatMap fun t => (t.moving.filter fun m => m.member == peer).map fun m => [t.id, m.version, m.row, peer]
  let restores := (s.fabric.restores.filter fun r => r.1 == peer).map fun r => [r.2.toNat, peer]
  let s : State := { s with fabric := { s.fabric with
    restores := s.fabric.restores.filter fun r => r.1 != peer
    tables := s.fabric.tables.map fun (t : PoolTable) => { t with moving := t.moving.filter fun m => m.member != peer } } }
  let s := (moves ++ restores).foldl (fun s x => s.report 0x393 x) s
  (s.regions.filter fun r => r.migrating && r.copied && r.sentTo == peer).foldl (fun s r => s.endMigration r.rid peer 0x393) s

end State

/-- PEER_LOST (R393): a module is removed from the pod or fails its heartbeat; one that no path reaches is lost without it. -/
def execPeerLost (s : State) : Out :=
  let n := s.subject.n
  .next (if s.fabric.lost.contains n then s else { s with fabric := { s.fabric with lost := n :: s.fabric.lost } })

/-- LOST_REQUEST_COMPLETION (R393): of a copy, or, with the flag set, of the Monarch's own requests. -/
def execLostRequestCompletion (s : State) : Out :=
  let x := s.subject
  .next (if x.flag then (if s.isLost x.n then s.endLostMoves x.n else s) else s.endLost x.pcn x.id x.n)

/-! ## Pool rows (R391, R392) -/

namespace State

/-- R392: another member's read of a row, or one of this module's that a member forwards here: answered when the row's home is here, else
forwarded to the home the directory names. -/
def servePeerRead (s : State) (origin : Nat) (tag : Nat × Nat × Nat) (t v row : Nat) : State :=
  match s.rowHome t v row with
  | none => s
  | some h =>
    if h = Config.moduleNumber then
      if origin = Config.moduleNumber then s.receiveRow tag.1 tag.2.1 tag.2.2 (s.poolRow t v row) (s.poolBad t v row)
      else s.send origin (.row tag (s.poolRow t v row) (s.poolBad t v row))
    else s.send h (.rowRead origin tag t v row)

/-- R392: an element add that comes from another member: applied and acknowledged when the row's home is here, else forwarded. -/
def servePeerAdd (s : State) (origin : Nat) (tag : Nat × Nat × Nat) (t v row : Nat) (a : LoggedAdd) (stamp : BitVec 6) : State :=
  match s.rowHome t v row with
  | none => s
  | some h =>
    if h = Config.moduleNumber then
      let s := s.poolAdd origin stamp t v row a
      if origin = Config.moduleNumber then s.addAcknowledged tag.1 tag.2.1 tag.2.2 h else s.send origin (.added tag h)
    else s.send h (.rowAdd origin tag t v row a stamp)

end State

/-- POOL_ROW_READ (R392): position n of the index list of a copy of this module; with `flag2`, bytes of that row from its home, the list
naming the poisoned words among them; with `flag`, the request of member n, its list naming table, version, row, and the core, copy
and position it is for. -/
def execPoolRowRead (s : State) : Out :=
  let x := s.subject
  let at_ := fun (i : Nat) => x.list.getD i 0
  .next (if x.flag then s.servePeerRead x.n (at_ 3, at_ 4, at_ 5) (at_ 0) (at_ 1) (at_ 2)
    else if x.flag2 then s.receiveRow x.pcn x.id x.n x.bytes x.list
    else s.readRow x.pcn x.id x.n)

/-- POOL_ROW_ADD (R392): element n of a copy of this module; with `flag2`, the home that the list names acknowledges it; with `flag`, the request of member n,
its list naming table, version, row, the core, copy and element it is for, element of the row, value, MODE, stamp, and 1 for a value
read with poison. -/
def execPoolRowAdd (s : State) : Out :=
  let x := s.subject
  let at_ := fun (i : Nat) => x.list.getD i 0
  .next (if x.flag then s.servePeerAdd x.n (at_ 3, at_ 4, at_ 5) (at_ 0) (at_ 1) (at_ 2)
      ⟨at_ 6, BitVec.ofNat 32 (at_ 7), BitVec.ofNat 64 (at_ 8), at_ 10 == 1⟩ (BitVec.ofNat 6 (at_ 9))
    else if x.flag2 then s.addAcknowledged x.pcn x.id x.n (at_ 0)
    else s.sendElement x.pcn x.id x.n)

/-! ## Tables (R389, R392) -/

namespace State

/-- R389: a table created: an id from 1 to 65,535 not in use, rows of 64 to 4,096 bytes. -/
def createTable (s : State) (id size : Nat) : State :=
  if id = 0 ∨ 65535 < id ∨ size < 64 ∨ 4096 < size ∨ s.fabric.tables.any (fun t => t.id == id) then s
  else { s with fabric := { s.fabric with tables := s.fabric.tables ++
    [{ id := id, rowSize := size, current := 0, versions := [], grants := [], data := [], bad := [], moving := [], journal := [] }] } }

/-- R389: a region granted a table, with its rights. -/
def grantTable (s : State) (id rid : Nat) (read add : Bool) : State :=
  s.modifyTable id fun t => { t with grants := replaceWhere (fun g => g.1 == rid) (rid, read, add) t.grants }

/-- R389: the next version of a table: its row count, the home of each present row, and the bytes of the rows that this module
holds, in the order of the rows. -/
def publishTable (s : State) (id rows : Nat) (homes : List (Nat × Nat)) (bytes : List Byte) : State :=
  s.modifyTable id fun t =>
    let v := t.current + 1
    let mine := (homes.filter fun h => h.2 == Config.moduleNumber).map Prod.fst
    let data := (range 0 mine.length).zip mine |>.map fun x =>
      (v, x.2, ((bytes.drop (x.1 * t.rowSize)).take t.rowSize ++ List.replicate t.rowSize 0).take t.rowSize)
    { t with current := v, versions := t.versions ++ [⟨v, rows, homes⟩], data := t.data ++ data }

/-- R392 step 1: a row to be moved: its copy goes to its new member, or, at that member, arrives, with its poisoned words. -/
def moveRow (s : State) (id v row member : Nat) (bytes : List Byte) (bad : List Nat) : State :=
  if member = Config.moduleNumber then
    s.modifyTable id fun t => { t.setRow v row bytes with
      bad := (t.bad.filter fun b => !(b.1 == v && b.2.1 == row)) ++ bad.map fun w => (v, row, w) }
  else if s.rowHome id v row = some Config.moduleNumber then
    (s.modifyTable id fun t => { t with moving := t.moving ++ [⟨v, row, member, []⟩] }).send member
      (.rowCopy id v row (s.poolRow id v row) (s.poolBad id v row))
  else s

/-- A row's home in the directory. -/
def setHome (s : State) (id v row member : Nat) : State :=
  s.modifyTable id fun t => { t with versions := t.versions.map fun y =>
    if y.version = v then { y with homes := y.homes.map fun h => if h.1 = row then (row, member) else h } else y }

/-- Logged adds from their bytes, 20 each: element, value, MODE, and 1 for a value read with poison. -/
def logOf (bs : List Byte) : List LoggedAdd :=
  (range 0 (bs.length / 20)).map fun i =>
    ⟨numAt bs (20 * i) 4, BitVec.ofNat 32 (numAt bs (20 * i + 4) 4), BitVec.ofNat 64 (numAt bs (20 * i + 8) 8), numAt bs (20 * i + 16) 4 == 1⟩

/-- R392 step 3: the handover: the old home sends the adds it has logged; the new one applies them in their order; the directories of
both, and of every other member, name the new home. -/
def handover (s : State) (id v row member : Nat) (bytes : List Byte) : State :=
  let me := Config.moduleNumber
  if member = me then
    let s := (logOf bytes).foldl (fun s a => s.poolAdd 0 0 id v row a) s
    s.setHome id v row member
  else if s.rowHome id v row != some me then s.setHome id v row member
  else
    match (s.fabric.tables.find? fun t => t.id == id).bind fun t => t.moving.find? fun m => m.version == v && m.row == row && m.member == member with
    | none => s
    | some m =>
      ((s.modifyTable id fun t => { t with moving := t.moving.filter (· != m) }).send member (.rowLog id v row m.log)).setHome id v row member

end State

/-- TABLE_CREATE (R389). -/
def execTableCreate (s : State) : Out := .next (s.command fun s => s.createTable s.subject.id s.subject.len)
/-- TABLE_GRANT (R389): READ with `flag`, ADD with `flag2`. -/
def execTableGrant (s : State) : Out :=
  .next (s.command fun s => s.grantTable s.subject.id s.subject.rid s.subject.flag s.subject.flag2)
/-- TABLE_PUBLISH (R389). -/
def execTablePublish (s : State) : Out :=
  .next (s.command fun s => s.publishTable s.subject.id s.subject.len s.subject.rows s.subject.bytes)
/-- ROW_MOVE (R392): row n of version `value` of table `id` to member `addr`; its bytes, and in the list its poisoned words, where it
arrives. -/
def execRowMove (s : State) : Out :=
  let x := s.subject
  .next (s.moveRow x.id x.value x.n x.addr x.bytes x.list)
/-- ROW_HANDOVER (R392). -/
def execRowHandover (s : State) : Out :=
  let x := s.subject
  .next (s.handover x.id x.value x.n x.addr x.bytes)

/-! ## Migration (R396) -/

namespace State

/-- R396 step 1: a region leaves: nothing more is taken from its queue, and its gangs are to be evicted. -/
def startMigration (s : State) (rid : Nat) : State :=
  s.modifyRegion rid fun r => { r with stopped := true, migrating := true, copied := false, sentTo := 0 }

/-- The leaves of a region's tables from one on: physical address, bytes, key id. -/
def leavesFrom (s : State) : Nat → Nat → Nat → List (Nat × Nat × BitVec 6)
  | 0, _, _ => []
  | fuel + 1, level, table => (range 0 (tableSize level)).flatMap fun i =>
      let e := BitVec.ofNat 64 (ofBytes (s.agentRead 0 (table + 8 * i) 8))
      if !pteValid e || malformed s.monarch level e then []
      else if pteLeaf e then [(ptePa e, 2 ^ leafBits level, pteKey e)]
      else s.leavesFrom fuel (level + 1) (ptePa e)

/-- R396 step 2: what is copied of a region's memory, each part under its key id: the control block, the tables, and every page they map,
among them the leased and pinned pages, the Chrysalis area and the launch queue. -/
def regionCells (s : State) (r : Region) : List (BitVec 6 × List Host.Cell) :=
  (((r.addr, 256) :: s.tablesFrom 5 0 r.ptroot).map fun x => (0, cellsFrom x.1 (s.agentRead 0 x.1 x.2)))
    ++ (s.leavesFrom 5 0 r.ptroot).map fun x => (x.2.2, cellsFrom x.1 (s.agentRead x.2.2 x.1 x.2.1))

/-- The addresses of the poisoned words of a region's memory. Poison travels with the data (R309). -/
def regionPoison (s : State) (r : Region) : List Nat :=
  (((r.addr, 256) :: s.tablesFrom 5 0 r.ptroot) ++ (s.leavesFrom 5 0 r.ptroot).map fun x => (x.1, x.2.1)).flatMap fun x =>
    ((range 0 (x.2 / 4)).map fun i => x.1 + 4 * i).filter s.agentPoison

/-- R396 step 2: all that goes to the target of a region: appends that have reached its doorbell are served first; its translated functions
lie in the code heap's pages, at the same places of the target's (DESIGN CHOICE, log 100). -/
def sendRegion (s : State) (rid target : Nat) : State :=
  let s := s.serveAppends rid
  match s.region? rid with
  | none => s
  | some r =>
    (s.modifyRegion rid fun r => { r with copied := true, sentTo := target }).send target (.region
      { region := r, launches := s.launches.filter fun l => l.rid == rid && l.state != .done
        gangs := s.gangs.filter fun g => g.rid == rid, cells := s.regionCells r, poison := s.regionPoison r
        functions := s.monarch.functions.filter fun f => f.rid == rid, gtime := s.gtime })

/-- R396: a region that leaves goes on, a step at a time: its journaled launches first end, one whose journal has filled among them; then
its gangs are evicted; then its memory is sent to the target; and once the target has restored the gangs (`restored`) the region is
freed here. One that goes to a lost module, or that its target has `refused`, stays. -/
def goOnMigrating (s : State) (rid target : Nat) (restored refused : Bool) : State :=
  let live := s.gangs.filter fun g => g.rid == rid
  match s.region? rid with
  | none => s
  | some r =>
    if s.isLost target || (refused && r.copied) then s.endMigration rid target (if s.isLost target then 0x393 else 0x396)
    else if s.launches.any fun l => l.rid == rid && l.state != .done && l.given != 0 then s
    else if live.any fun g => g.state == .placed || g.state == .halting then
      { s with gangs := s.gangs.map fun g => if g.rid = rid ∧ g.state = .placed ∧ !g.asked then { g with victim := true } else g }
    else if !r.copied then s.sendRegion rid target
    else if restored then
      let t : State := { s with
        regions := s.regions.filter fun r => r.rid != rid
        launches := s.launches.filter fun l => l.rid != rid
        gangs := s.gangs.filter fun g => g.rid != rid
        monarch := { s.monarch with functions := s.monarch.functions.filter fun f => f.rid != rid }
        cores := s.cores.map fun (c : Core) => if c.rid = rid then { c with loaded := false, rid := 0 } else c }
      t.report 0x396 [rid]
    else s

/-- R396 steps 2 and 3 at the target: the region's memory, block, launches and evicted gangs arrive. Numbers of launches are this
module's own. A region whose FEAT this module does not offer, or whose id is in use, is refused. -/
def arriveRegion (s : State) (a : Arrival) : State :=
  let feat := a.region.feat
  if (feat[0].toNat ||| devFeat) != devFeat || feat[1] != 0 || feat[2] != 0 || feat[3] != 0
      || s.regions.any (fun r => r.rid == a.region.rid) then s.report 0x328 [a.region.addr]
  else
    let base := s.monarch.nextLaunch
    let top := a.launches.foldl (fun n l => max n l.id) 0
    let s := a.cells.foldl (fun s x => s.homeWriteAll x.1 0 x.2) s
    let s := a.poison.foldl State.poisonWord s
    let ahead := (a.gtime + a.region.gtimeOff) - s.gtime
    let r : Region := { a.region with
      miggen := a.region.miggen + 1, migrating := false, copied := false, sentTo := 0, stopped := false, jrn := a.region.jrn.map fun x => if x = 0 then 0 else base + x,
      gtimeOff := ahead + Config.migrationNanos a.region.rid }
    let s : State := { s with
      regions := s.regions ++ [r]
      launches := s.launches ++ a.launches.map fun l => { l with id := base + l.id }
      gangs := s.gangs ++ a.gangs.map fun g => { g with launch := base + g.launch }
      monarch := { s.monarch with nextLaunch := base + top + 1, functions := s.monarch.functions ++ a.functions } }
    s.putBlock r.addr 160 (bytesOf 8 r.miggen.toNat)

end State

/-- MIGRATE_REGION (R396): a region arrives, or one leaves for module n: the command starts it, and later steps carry it on; `flag` once
the target has restored it, `flag2` once the target has refused it. -/
def execMigrateRegion (s : State) : Out :=
  let x := s.subject
  .next (if !s.monarchUp then s
    else match x.arrival with
      | some a => s.arriveRegion a
      | none =>
        if (s.region? x.rid).any Region.migrating then s.goOnMigrating x.rid x.n x.flag x.flag2 else s.command fun s => s.startMigration x.rid)

end Sys2Proof.Machine
end

