-- ==== Sys2Proof/Machine/Dispatch.lean ====
section
/-!
DEFINITION. One arm per constructor of `Instr`: each the call of that instruction's meaning.
-/

namespace Sys2Proof.Machine

def exec (i : Instr) (s : State) : Host.Outcome State Fault Refusal :=
  match i with
  | .sadd d a b => Sys2Proof.Machine.execSadd d a b s
  | .ssub d a b => Sys2Proof.Machine.execSsub d a b s
  | .smul d a b => Sys2Proof.Machine.execSmul d a b s
  | .smulh d a b => Sys2Proof.Machine.execSmulh d a b s
  | .smulhu d a b => Sys2Proof.Machine.execSmulhu d a b s
  | .sand d a b => Sys2Proof.Machine.execSand d a b s
  | .sor d a b => Sys2Proof.Machine.execSor d a b s
  | .sxor d a b => Sys2Proof.Machine.execSxor d a b s
  | .sshl d a b => Sys2Proof.Machine.execSshl d a b s
  | .sshr d a b => Sys2Proof.Machine.execSshr d a b s
  | .ssra d a b => Sys2Proof.Machine.execSsra d a b s
  | .smin d a b => Sys2Proof.Machine.execSmin d a b s
  | .smax d a b => Sys2Proof.Machine.execSmax d a b s
  | .sminu d a b => Sys2Proof.Machine.execSminu d a b s
  | .smaxu d a b => Sys2Proof.Machine.execSmaxu d a b s
  | .sdiv d a b => Sys2Proof.Machine.execSdiv d a b s
  | .sdivu d a b => Sys2Proof.Machine.execSdivu d a b s
  | .srem d a b => Sys2Proof.Machine.execSrem d a b s
  | .sremu d a b => Sys2Proof.Machine.execSremu d a b s
  | .spopc d a => Sys2Proof.Machine.execSpopc d a s
  | .sclz d a => Sys2Proof.Machine.execSclz d a s
  | .sshli d a n => Sys2Proof.Machine.execSshli d a n s
  | .sshri d a n => Sys2Proof.Machine.execSshri d a n s
  | .ssrai d a n => Sys2Proof.Machine.execSsrai d a n s
  | .ssetEq d a b => Sys2Proof.Machine.execSsetEq d a b s
  | .ssetNe d a b => Sys2Proof.Machine.execSsetNe d a b s
  | .ssetLt d a b => Sys2Proof.Machine.execSsetLt d a b s
  | .ssetGe d a b => Sys2Proof.Machine.execSsetGe d a b s
  | .ssetLtu d a b => Sys2Proof.Machine.execSsetLtu d a b s
  | .ssetGeu d a b => Sys2Proof.Machine.execSsetGeu d a b s
  | .saddi d a imm => Sys2Proof.Machine.execSaddi d a imm s
  | .sandi d a imm => Sys2Proof.Machine.execSandi d a imm s
  | .sori d a imm => Sys2Proof.Machine.execSori d a imm s
  | .sxori d a imm => Sys2Proof.Machine.execSxori d a imm s
  | .sli d imm => Sys2Proof.Machine.execSli d imm s
  | .slih d imm => Sys2Proof.Machine.execSlih d imm s
  | .iwidenUS d => Sys2Proof.Machine.execIwidenUS d s
  | .iwidenLS d => Sys2Proof.Machine.execIwidenLS d s
  | .iwidenBS d => Sys2Proof.Machine.execIwidenBS d s
  | .iwidenUV d => Sys2Proof.Machine.execIwidenUV d s
  | .iwidenLV d => Sys2Proof.Machine.execIwidenLV d s
  | .iwidenBV d => Sys2Proof.Machine.execIwidenBV d s
  | .iclampS d a b => Sys2Proof.Machine.execIclampS d a b s
  | .iclampV d a b => Sys2Proof.Machine.execIclampV d a b s
  | .ishqS d a => Sys2Proof.Machine.execIshqS d a s
  | .ishqV d a => Sys2Proof.Machine.execIshqV d a s
  | .bcc a b c o => Sys2Proof.Machine.execBcc a b c o s
  | .bcci a imm c o => Sys2Proof.Machine.execBcci a imm c o s
  | .jmp o => Sys2Proof.Machine.execJmp o s
  | .call o => Sys2Proof.Machine.execCall o s
  | .brp p t j => Sys2Proof.Machine.execBrp p t j s
  | .bany p o => Sys2Proof.Machine.execBany p o s
  | .ball p o => Sys2Proof.Machine.execBall p o s
  | .rep c x y z => Sys2Proof.Machine.execRep c x y z s
  | .jmpi a => Sys2Proof.Machine.execJmpi a s
  | .calli a => Sys2Proof.Machine.execCalli a s
  | .spawn d a => Sys2Proof.Machine.execSpawn d a s
  | .spawnW d a => Sys2Proof.Machine.execSpawnW d a s
  | .launch d a => Sys2Proof.Machine.execLaunch d a s
  | .vadd d a b => Sys2Proof.Machine.execVadd d a b s
  | .vsub d a b => Sys2Proof.Machine.execVsub d a b s
  | .vmul d a b => Sys2Proof.Machine.execVmul d a b s
  | .vmulh d a b => Sys2Proof.Machine.execVmulh d a b s
  | .vand d a b => Sys2Proof.Machine.execVand d a b s
  | .vor d a b => Sys2Proof.Machine.execVor d a b s
  | .vxor d a b => Sys2Proof.Machine.execVxor d a b s
  | .vandn d a b => Sys2Proof.Machine.execVandn d a b s
  | .vshl d a b => Sys2Proof.Machine.execVshl d a b s
  | .vshr d a b => Sys2Proof.Machine.execVshr d a b s
  | .vsra d a b => Sys2Proof.Machine.execVsra d a b s
  | .vmin d a b => Sys2Proof.Machine.execVmin d a b s
  | .vmax d a b => Sys2Proof.Machine.execVmax d a b s
  | .vmad d a b => Sys2Proof.Machine.execVmad d a b s
  | .vabs d a => Sys2Proof.Machine.execVabs d a s
  | .vneg d a => Sys2Proof.Machine.execVneg d a s
  | .vpopc d a => Sys2Proof.Machine.execVpopc d a s
  | .vclz d a => Sys2Proof.Machine.execVclz d a s
  | .vbrev d a => Sys2Proof.Machine.execVbrev d a s
  | .vmov d a => Sys2Proof.Machine.execVmov d a s
  | .vlane d => Sys2Proof.Machine.execVlane d s
  | .vbcast d a => Sys2Proof.Machine.execVbcast d a s
  | .vextr d a b => Sys2Proof.Machine.execVextr d a b s
  | .vcvt d a t => Sys2Proof.Machine.execVcvt d a t s
  | .vsel d a b p => Sys2Proof.Machine.execVsel d a b p s
  | .vcmp d a b c => Sys2Proof.Machine.execVcmp d a b c s
  | .vmovi d imm => Sys2Proof.Machine.execVmovi d imm s
  | .vaddi d a imm => Sys2Proof.Machine.execVaddi d a imm s
  | .vandi d a imm => Sys2Proof.Machine.execVandi d a imm s
  | .vshli d a n => Sys2Proof.Machine.execVshli d a n s
  | .vshri d a n => Sys2Proof.Machine.execVshri d a n s
  | .vsrai d a n => Sys2Proof.Machine.execVsrai d a n s
  | .vfadd d a b => Sys2Proof.Machine.execVfadd d a b s
  | .vfsub d a b => Sys2Proof.Machine.execVfsub d a b s
  | .vfmul d a b => Sys2Proof.Machine.execVfmul d a b s
  | .vfma d a b => Sys2Proof.Machine.execVfma d a b s
  | .vfms d a b => Sys2Proof.Machine.execVfms d a b s
  | .vfnma d a b => Sys2Proof.Machine.execVfnma d a b s
  | .vfnms d a b => Sys2Proof.Machine.execVfnms d a b s
  | .vfmin d a b => Sys2Proof.Machine.execVfmin d a b s
  | .vfmax d a b => Sys2Proof.Machine.execVfmax d a b s
  | .vfdiv d a b => Sys2Proof.Machine.execVfdiv d a b s
  | .vfabs d a => Sys2Proof.Machine.execVfabs d a s
  | .vfneg d a => Sys2Proof.Machine.execVfneg d a s
  | .vfrcp d a => Sys2Proof.Machine.execVfrcp d a s
  | .vfrsq d a => Sys2Proof.Machine.execVfrsq d a s
  | .vfsqrt d a => Sys2Proof.Machine.execVfsqrt d a s
  | .vfexp2 d a => Sys2Proof.Machine.execVfexp2 d a s
  | .vflog2 d a => Sys2Proof.Machine.execVflog2 d a s
  | .vfsin d a => Sys2Proof.Machine.execVfsin d a s
  | .vfcos d a => Sys2Proof.Machine.execVfcos d a s
  | .vfrnd d a => Sys2Proof.Machine.execVfrnd d a s
  | .vfclass d a => Sys2Proof.Machine.execVfclass d a s
  | .vfcmp d a b c => Sys2Proof.Machine.execVfcmp d a b c s
  | .pand d a b => Sys2Proof.Machine.execPand d a b s
  | .por d a b => Sys2Proof.Machine.execPor d a b s
  | .pxor d a b => Sys2Proof.Machine.execPxor d a b s
  | .pnot d a => Sys2Proof.Machine.execPnot d a s
  | .pandn d a b => Sys2Proof.Machine.execPandn d a b s
  | .pset d a => Sys2Proof.Machine.execPset d a s
  | .pget d a => Sys2Proof.Machine.execPget d a s
  | .ppopc d a => Sys2Proof.Machine.execPpopc d a s
  | .pfirst d a => Sys2Proof.Machine.execPfirst d a s
  | .vshfl d a b => Sys2Proof.Machine.execVshfl d a b s
  | .vshflx d a b => Sys2Proof.Machine.execVshflx d a b s
  | .vrot d a b => Sys2Proof.Machine.execVrot d a b s
  | .vredadd d a => Sys2Proof.Machine.execVredadd d a s
  | .vredmin d a => Sys2Proof.Machine.execVredmin d a s
  | .vredmax d a => Sys2Proof.Machine.execVredmax d a s
  | .vscan d a => Sys2Proof.Machine.execVscan d a s
  | .lda d a x m => Sys2Proof.Machine.execLda d a x m s
  | .sta d a x m => Sys2Proof.Machine.execSta d a x m s
  | .ldb d a x m => Sys2Proof.Machine.execLdb d a x m s
  | .stb d a x m => Sys2Proof.Machine.execStb d a x m s
  | .slda d a x m => Sys2Proof.Machine.execSlda d a x m s
  | .ssta d a x m => Sys2Proof.Machine.execSsta d a x m s
  | .lds d x m => Sys2Proof.Machine.execLds d x m s
  | .sts d x m => Sys2Proof.Machine.execSts d x m s
  | .slds d x m => Sys2Proof.Machine.execSlds d x m s
  | .ssts d x m => Sys2Proof.Machine.execSsts d x m s
  | .vspill d a => Sys2Proof.Machine.execVspill d a s
  | .vfill d a => Sys2Proof.Machine.execVfill d a s
  | .sspill d a => Sys2Proof.Machine.execSspill d a s
  | .sfill d a => Sys2Proof.Machine.execSfill d a s
  | .abind d a => Sys2Proof.Machine.execAbind d a s
  | .abinds d a => Sys2Proof.Machine.execAbinds d a s
  | .aqry d k f => Sys2Proof.Machine.execAqry d k f s
  | .aaddVg d a x r => Sys2Proof.Machine.execAaddVg d a x r s
  | .aaddfVg d a x r => Sys2Proof.Machine.execAaddfVg d a x r s
  | .aminVg d a x r => Sys2Proof.Machine.execAminVg d a x r s
  | .amaxVg d a x r => Sys2Proof.Machine.execAmaxVg d a x r s
  | .aminuVg d a x r => Sys2Proof.Machine.execAminuVg d a x r s
  | .amaxuVg d a x r => Sys2Proof.Machine.execAmaxuVg d a x r s
  | .aandVg d a x r => Sys2Proof.Machine.execAandVg d a x r s
  | .aorVg d a x r => Sys2Proof.Machine.execAorVg d a x r s
  | .axorVg d a x r => Sys2Proof.Machine.execAxorVg d a x r s
  | .axchVg d a x r => Sys2Proof.Machine.execAxchVg d a x r s
  | .acasVg d a x r => Sys2Proof.Machine.execAcasVg d a x r s
  | .aappVg d a x r => Sys2Proof.Machine.execAappVg d a x r s
  | .aaddSg d a x r => Sys2Proof.Machine.execAaddSg d a x r s
  | .aaddfSg d a x r => Sys2Proof.Machine.execAaddfSg d a x r s
  | .aminSg d a x r => Sys2Proof.Machine.execAminSg d a x r s
  | .amaxSg d a x r => Sys2Proof.Machine.execAmaxSg d a x r s
  | .aminuSg d a x r => Sys2Proof.Machine.execAminuSg d a x r s
  | .amaxuSg d a x r => Sys2Proof.Machine.execAmaxuSg d a x r s
  | .aandSg d a x r => Sys2Proof.Machine.execAandSg d a x r s
  | .aorSg d a x r => Sys2Proof.Machine.execAorSg d a x r s
  | .axorSg d a x r => Sys2Proof.Machine.execAxorSg d a x r s
  | .axchSg d a x r => Sys2Proof.Machine.execAxchSg d a x r s
  | .acasSg d a x r => Sys2Proof.Machine.execAcasSg d a x r s
  | .aaddVs d x r => Sys2Proof.Machine.execAaddVs d x r s
  | .aaddfVs d x r => Sys2Proof.Machine.execAaddfVs d x r s
  | .aminVs d x r => Sys2Proof.Machine.execAminVs d x r s
  | .amaxVs d x r => Sys2Proof.Machine.execAmaxVs d x r s
  | .aminuVs d x r => Sys2Proof.Machine.execAminuVs d x r s
  | .amaxuVs d x r => Sys2Proof.Machine.execAmaxuVs d x r s
  | .aandVs d x r => Sys2Proof.Machine.execAandVs d x r s
  | .aorVs d x r => Sys2Proof.Machine.execAorVs d x r s
  | .axorVs d x r => Sys2Proof.Machine.execAxorVs d x r s
  | .axchVs d x r => Sys2Proof.Machine.execAxchVs d x r s
  | .acasVs d x r => Sys2Proof.Machine.execAcasVs d x r s
  | .aappVs d x r => Sys2Proof.Machine.execAappVs d x r s
  | .aaddSs d x r => Sys2Proof.Machine.execAaddSs d x r s
  | .aaddfSs d x r => Sys2Proof.Machine.execAaddfSs d x r s
  | .aminSs d x r => Sys2Proof.Machine.execAminSs d x r s
  | .amaxSs d x r => Sys2Proof.Machine.execAmaxSs d x r s
  | .aminuSs d x r => Sys2Proof.Machine.execAminuSs d x r s
  | .amaxuSs d x r => Sys2Proof.Machine.execAmaxuSs d x r s
  | .aandSs d x r => Sys2Proof.Machine.execAandSs d x r s
  | .aorSs d x r => Sys2Proof.Machine.execAorSs d x r s
  | .axorSs d x r => Sys2Proof.Machine.execAxorSs d x r s
  | .axchSs d x r => Sys2Proof.Machine.execAxchSs d x r s
  | .acasSs d x r => Sys2Proof.Machine.execAcasSs d x r s
  | .dwb d a => Sys2Proof.Machine.execDwb d a s
  | .iinv d a => Sys2Proof.Machine.execIinv d a s
  | .acopyIn d a => Sys2Proof.Machine.execAcopyIn d a s
  | .acopyOut d a => Sys2Proof.Machine.execAcopyOut d a s
  | .agather d a => Sys2Proof.Machine.execAgather d a s
  | .ascadd d a => Sys2Proof.Machine.execAscadd d a s
  | .qstream q a => Sys2Proof.Machine.execQstream q a s
  | .qpop d q => Sys2Proof.Machine.execQpop d q s
  | .qstat d q => Sys2Proof.Machine.execQstat d q s
  | .cseal d => Sys2Proof.Machine.execCseal d s
  | .cwait a => Sys2Proof.Machine.execCwait a s
  | .armw d a => Sys2Proof.Machine.execArmw d a s
  | .waitg d a => Sys2Proof.Machine.execWaitg d a s
  | .waitw d a => Sys2Proof.Machine.execWaitw d a s
  | .waitwG d a => Sys2Proof.Machine.execWaitwG d a s
  | .bar d imm => Sys2Proof.Machine.execBar d imm s
  | .bara imm => Sys2Proof.Machine.execBara imm s
  | .gbar d imm => Sys2Proof.Machine.execGbar d imm s
  | .mop t a b => Sys2Proof.Machine.execMop t a b s
  | .mopn t a b => Sys2Proof.Machine.execMopn t a b s
  | .tzero t => Sys2Proof.Machine.execTzero t s
  | .mchk t => Sys2Proof.Machine.execMchk t s
  | .fmov f a => Sys2Proof.Machine.execFmov f a s
  | .mxon m => Sys2Proof.Machine.execMxon m s
  | .tcvt d t => Sys2Proof.Machine.execTcvt d t s
  | .tsld v t r x n => Sys2Proof.Machine.execTsld v t r x n s
  | .tsst v t r x n => Sys2Proof.Machine.execTsst v t r x n s
  | .fld f a x m => Sys2Proof.Machine.execFld f a x m s
  | .flds f x m => Sys2Proof.Machine.execFlds f x m s
  | .tld t a x m => Sys2Proof.Machine.execTld t a x m s
  | .tst t a x m => Sys2Proof.Machine.execTst t a x m s
  | .tstA t a x m => Sys2Proof.Machine.execTstA t a x m s
  | .tldv t a x y => Sys2Proof.Machine.execTldv t a x y s
  | .mset a => Sys2Proof.Machine.execMset a s
  | .mseti v w f => Sys2Proof.Machine.execMseti v w f s
  | .mget d => Sys2Proof.Machine.execMget d s
  | .srd d a => Sys2Proof.Machine.execSrd d a s
  | .swr d a => Sys2Proof.Machine.execSwr d a s
  | .flgr d => Sys2Proof.Machine.execFlgr d s
  | .flgc a => Sys2Proof.Machine.execFlgc a s
  | .xseed a => Sys2Proof.Machine.execXseed a s
  | .trap n => Sys2Proof.Machine.execTrap n s
  | .pmark n => Sys2Proof.Machine.execPmark n s
  | .ret => Sys2Proof.Machine.execRet s
  | .join => Sys2Proof.Machine.execJoin s
  | .tfence => Sys2Proof.Machine.execTfence s
  | .exit => Sys2Proof.Machine.execExit s
  | .nop => Sys2Proof.Machine.execNop s
  | .facq => Sys2Proof.Machine.execFacq s
  | .frel => Sys2Proof.Machine.execFrel s
  | .ffull => Sys2Proof.Machine.execFfull s
  | .fetchb => Sys2Proof.Machine.execFetchb s
  | .mxoff => Sys2Proof.Machine.execMxoff s
  | .tretR => Sys2Proof.Machine.execTretR s
  | .tretS => Sys2Proof.Machine.execTretS s
  | .tretX => Sys2Proof.Machine.execTretX s
  | .bkpt => Sys2Proof.Machine.execBkpt s
  | .branchMispredict => Sys2Proof.Machine.execBranchMispredict s
  | .trapEntry => Sys2Proof.Machine.execTrapEntry s
  | .constantCacheFill => Sys2Proof.Machine.execConstantCacheFill s
  | .storeRegistration => Sys2Proof.Machine.execStoreRegistration s
  | .lineFill => Sys2Proof.Machine.execLineFill s
  | .uncorrectableError => Sys2Proof.Machine.execUncorrectableError s
  | .correctedError => Sys2Proof.Machine.execCorrectedError s
  | .copySlotGrant => Sys2Proof.Machine.execCopySlotGrant s
  | .copySectorWrite => Sys2Proof.Machine.execCopySectorWrite s
  | .arrival => Sys2Proof.Machine.execArrival s
  | .copyComplete => Sys2Proof.Machine.execCopyComplete s
  | .csealUnblock => Sys2Proof.Machine.execCsealUnblock s
  | .cwaitSatisfied => Sys2Proof.Machine.execCwaitSatisfied s
  | .waitgSatisfied => Sys2Proof.Machine.execWaitgSatisfied s
  | .waitwSatisfied => Sys2Proof.Machine.execWaitwSatisfied s
  | .waitwGSatisfied => Sys2Proof.Machine.execWaitwGSatisfied s
  | .queueFill => Sys2Proof.Machine.execQueueFill s
  | .qpopEntryReady => Sys2Proof.Machine.execQpopEntryReady s
  | .spawnWRetry => Sys2Proof.Machine.execSpawnWRetry s
  | .tstATry => Sys2Proof.Machine.execTstATry s
  | .tstAVersionStore => Sys2Proof.Machine.execTstAVersionStore s
  | .tldvTry => Sys2Proof.Machine.execTldvTry s
  | .barrierPhaseComplete => Sys2Proof.Machine.execBarrierPhaseComplete s
  | .gangBarrierPhaseComplete => Sys2Proof.Machine.execGangBarrierPhaseComplete s
  | .rotatedDuplicate => Sys2Proof.Machine.execRotatedDuplicate s
  | .duplicatePipeHold => Sys2Proof.Machine.execDuplicatePipeHold s
  | .spareColumnRemap => Sys2Proof.Machine.execSpareColumnRemap s
  | .partitionWithdrawal => Sys2Proof.Machine.execPartitionWithdrawal s
  | .gangPlace => Sys2Proof.Machine.execGangPlace s
  | .gangEvict => Sys2Proof.Machine.execGangEvict s
  | .gangRestore => Sys2Proof.Machine.execGangRestore s
  | .launchCompletion => Sys2Proof.Machine.execLaunchCompletion s
  | .trapDelivery => Sys2Proof.Machine.execTrapDelivery s
  | .backoffExpiry => Sys2Proof.Machine.execBackoffExpiry s
  | .coalescerDrain => Sys2Proof.Machine.execCoalescerDrain s
  | .retry => Sys2Proof.Machine.execRetry s
  | .skip => Sys2Proof.Machine.execSkip s
  | .exclude => Sys2Proof.Machine.execExclude s
  | .halt => Sys2Proof.Machine.execHalt s
  | .warpHalt => Sys2Proof.Machine.execWarpHalt s
  | .gangHalt => Sys2Proof.Machine.execGangHalt s
  | .gangHaltReceipt => Sys2Proof.Machine.execGangHaltReceipt s
  | .monarchGangHalt => Sys2Proof.Machine.execMonarchGangHalt s
  | .dump => Sys2Proof.Machine.execDump s
  | .dumpAreaReset => Sys2Proof.Machine.execDumpAreaReset s
  | .regionCreate => Sys2Proof.Machine.execRegionCreate s
  | .regionReread => Sys2Proof.Machine.execRegionReread s
  | .appendDoorbell => Sys2Proof.Machine.execAppendDoorbell s
  | .appendRequest => Sys2Proof.Machine.execAppendRequest s
  | .launchTake => Sys2Proof.Machine.execLaunchTake s
  | .leasePin => Sys2Proof.Machine.execLeasePin s
  | .quantumExpiry => Sys2Proof.Machine.execQuantumExpiry s
  | .priorityAging => Sys2Proof.Machine.execPriorityAging s
  | .waiterYield => Sys2Proof.Machine.execWaiterYield s
  | .relaunch => Sys2Proof.Machine.execRelaunch s
  | .invalidate => Sys2Proof.Machine.execInvalidate s
  | .footprintRead => Sys2Proof.Machine.execFootprintRead s
  | .pageMove => Sys2Proof.Machine.execPageMove s
  | .dbiWindowEnd => Sys2Proof.Machine.execDbiWindowEnd s
  | .dbiModeSwitch => Sys2Proof.Machine.execDbiModeSwitch s
  | .selfRefreshEntry => Sys2Proof.Machine.execSelfRefreshEntry s
  | .selfRefreshExit => Sys2Proof.Machine.execSelfRefreshExit s
  | .controllerWrite => Sys2Proof.Machine.execControllerWrite s
  | .mscRequest => Sys2Proof.Machine.execMscRequest s
  | .scrubPatrol => Sys2Proof.Machine.execScrubPatrol s
  | .powerOn => Sys2Proof.Machine.execPowerOn s
  | .recoveryImageWrite => Sys2Proof.Machine.execRecoveryImageWrite s
  | .rebootRequest => Sys2Proof.Machine.execRebootRequest s
  | .standbyTakeover => Sys2Proof.Machine.execStandbyTakeover s
  | .attestationReport => Sys2Proof.Machine.execAttestationReport s
  | .keyLoad => Sys2Proof.Machine.execKeyLoad s
  | .powerSample => Sys2Proof.Machine.execPowerSample s
  | .lunaRecord => Sys2Proof.Machine.execLunaRecord s
  | .lunaSync => Sys2Proof.Machine.execLunaSync s
  | .lunaRearm => Sys2Proof.Machine.execLunaRearm s
  | .freezeMaskSet => Sys2Proof.Machine.execFreezeMaskSet s
  | .clusterWatchdog => Sys2Proof.Machine.execClusterWatchdog s
  | .breakpointSet => Sys2Proof.Machine.execBreakpointSet s
  | .singleStep => Sys2Proof.Machine.execSingleStep s
  | .safePointStop => Sys2Proof.Machine.execSafePointStop s
  | .samplePeriodSet => Sys2Proof.Machine.execSamplePeriodSet s
  | .samplePeriodEnd => Sys2Proof.Machine.execSamplePeriodEnd s
  | .debugRegisterAccess => Sys2Proof.Machine.execDebugRegisterAccess s
  | .trapModeSet => Sys2Proof.Machine.execTrapModeSet s
  | .causalExperiment => Sys2Proof.Machine.execCausalExperiment s
  | .causalPeriodEnd => Sys2Proof.Machine.execCausalPeriodEnd s
  | .translateFunction => Sys2Proof.Machine.execTranslateFunction s
  | .hostMemoryAccess => Sys2Proof.Machine.execHostMemoryAccess s
  | .hostRegisterWrite => Sys2Proof.Machine.execHostRegisterWrite s
  | .hostLinkLost => Sys2Proof.Machine.execHostLinkLost s
  | .hostAttach => Sys2Proof.Machine.execHostAttach s
  | .flitReceive => Sys2Proof.Machine.execFlitReceive s
  | .laneSpare => Sys2Proof.Machine.execLaneSpare s
  | .linkRetrain => Sys2Proof.Machine.execLinkRetrain s
  | .linkDown => Sys2Proof.Machine.execLinkDown s
  | .peerLost => Sys2Proof.Machine.execPeerLost s
  | .lostRequestCompletion => Sys2Proof.Machine.execLostRequestCompletion s
  | .poolRowRead => Sys2Proof.Machine.execPoolRowRead s
  | .poolRowAdd => Sys2Proof.Machine.execPoolRowAdd s
  | .tableCreate => Sys2Proof.Machine.execTableCreate s
  | .tableGrant => Sys2Proof.Machine.execTableGrant s
  | .tablePublish => Sys2Proof.Machine.execTablePublish s
  | .rowMove => Sys2Proof.Machine.execRowMove s
  | .rowHandover => Sys2Proof.Machine.execRowHandover s
  | .migrateRegion => Sys2Proof.Machine.execMigrateRegion s
  | .powerLoss => Sys2Proof.Machine.execPowerLoss s
  | .standbyDieFailure => Sys2Proof.Machine.execStandbyDieFailure s
  | .leaseReferralAnswer => Sys2Proof.Machine.execLeaseReferralAnswer s
  | .linkRetrainDone => Sys2Proof.Machine.execLinkRetrainDone s

end Sys2Proof.Machine
end

