-- ==== Sys2Proof/Machine/Turn.lean ====
section
/-!
DEFINITION. One turn of the machine: a warp's next instruction (R43, R80, R136, R380), a step of the agenda, or, with an empty
agenda, what the model does by itself (DESIGN CHOICE, log 30); and how time passes (R38).
-/

namespace Sys2Proof.Machine

namespace State

/-! ## A warp's turn -/

/-- A fetched word: a stop before it (R380), or the instruction it is, or ILLEGAL (R80); then a sample (R380). `w` is the word as it
stands in memory, `x` as it is to run: a repetition's has its fields stepped (R134). -/
def runWord (s : State) (w x : Word) : Out :=
  match s.stopReason w with
  | some reason => .next (s.debugStop reason)
  | none =>
    match decode x with
    | .ok i => (match exec i s with
      | .next t => .next (s.takeSample t w)
      | o => o)
    | .error _ => .next (s.fault (siteOfWord x) illegal)

/-- R80, R136: the current warp runs the word at its pc, or the next repetition of its `rep`. -/
def runReady (s : State) : Out :=
  match s.warp.rep with
  | some r =>
    match repWord s.warp r with
    | some x => s.runWord r.word x
    | none => .next (s.fault .scalar ⟨cREP, 0, s.faultPc.setWidth 64⟩)
  | none =>
    let s := s.noteFetch s.warp.pcn s.warp.pc.toNat
    match s.fetchWord s.warp.pcn s.warp.pc.toNat with
    | .error t => .next (s.fault .scalar { t with addr := s.warp.pc.setWidth 64 })
    | .ok (w, _) => s.runWord w w

/-- The current warp's turn: one that waits tries what it waits for, a READY one that is not held (R381) runs. -/
def runWarp (s : State) : Out :=
  if tries s.warp then .next s.tryWait
  else if s.warp.status = .ready ∧ s.warp.hold ≤ s.clock then s.runReady
  else .next s

/-- R45, R314: a load of the current warp executes ahead of its turn: what it reads is kept for the load of that very access. It checks
its address as the load will, and reads nothing where the load would fault. -/
def loadAhead (s : State) (scratch : Bool) (addr n : Nat) : State :=
  if s.warp.status ≠ .ready ∨ !([1, 2, 4, 8, 16, 128, 4096, 16384].contains n) ∨ addr % min n 16 ≠ 0 then s
  else if scratch then
    match s.scratchPlace addr n with
    | .error _ => s
    | .ok p =>
      let s := ({ s with warp := { s.warp with taken := [] } } : State).settleOwn p.1 p.2 n
      let e : Early := ⟨some p.1, p.2, (range p.2 n).map (s.scratchByte p.1), s.scratchBads p.1 p.2 n⟩
      { s with warp := { s.warp with ahead := e :: s.warp.ahead.filter (fun x => !x.meets e.scratch p.2 n), taken := [] } }
  else
    match s.piecesOf .read (n / 4096 + 2) 0 addr (addr + n) with
    | .ok [x] =>
      if (s.unleased addr n).isSome then s
      else
        let p : Phys := ⟨x.pa, x.key, x.unc⟩
        let s := (({ s with warp := { s.warp with taken := [] } } : State).reachRange (n / 4096 + 2) addr (addr + n)).fillFor p n
        let e : Early := ⟨none, p.pa, s.loadBytes p n, s.loadBads p n⟩
        { s with warp := { s.warp with ahead := e :: s.warp.ahead.filter (fun x => !x.meets none p.pa n), taken := [] } }
    | _ => s

/-! ## What the model does by itself when the agenda is empty -/

/-- The steps without a word that may have something to do: a step and what it acts on. -/
def duties (s : State) : List (Instr × Subject) :=
  (s.warps.flatMap fun w =>
    let x : Subject := { pcn := w.pcn, cw := w.cw }
    [(.warpHalt, x), (.storeRegistration, x), (.backoffExpiry, x)])
  ++ (s.cores.flatMap fun c =>
    (c.copies.flatMap fun k => (.arrival, ({ pcn := c.pcn, id := k.id } : Subject)) :: (.copyComplete, { pcn := c.pcn, id := k.id })
      :: (k.todo.take 1).map fun o => (.copySectorWrite, { pcn := c.pcn, id := k.id, n := o }))
    ++ (range 0 4).map (fun q => (.queueFill, ({ pcn := c.pcn, id := q } : Subject)))
    ++ [(.coalescerDrain, ({ pcn := c.pcn } : Subject))])
  ++ (s.gangs.flatMap fun g =>
    let x : Subject := { launch := g.launch, gang := g.index }
    (.gangHalt, x) :: (.gangEvict, x) :: g.toHalt.map fun pcn => (.gangHaltReceipt, { x with pcn := pcn }))
  ++ (s.regions.flatMap fun r =>
    let x : Subject := { rid := r.rid }
    [(.dump, x), (.appendRequest, x), (.launchTake, x)])
  ++ (s.launches.flatMap fun l =>
    let x : Subject := { launch := l.id }
    [(.relaunch, x), (.launchCompletion, x),
     (.leasePin, { x with list := (s.region? l.rid).elim [] (s.framesFor l) })]
    ++ (if l.translated && l.state != .done then [(.translateFunction, ({ rid := l.rid, launch := l.id, addr := l.code, n := l.kernel } : Subject))]
      else []))
  ++ [(.gangPlace, ({} : Subject))]

/-- A step without a word, its subject given for it alone. -/
def runEvent (s : State) (i : Instr) (x : Subject) : Out :=
  if hasWord i then .next s else exec i { s with subject := x }

/-- A duty that changes something. -/
def dutyDone (s : State) (d : Instr × Subject) : Option State :=
  match s.runEvent d.1 d.2 with
  | .next t => if { t with subject := s.subject } = s then none else some t
  | _ => none

/-- A waiting warp whose wait is over, or has come further. -/
def waitDone (s : State) (w : Warp) : Option State :=
  let t := s.onWarp w.pcn w.cw tryWait
  match t.warpAt? w.pcn w.cw with
  | none => some t
  | some v => if tries v ∧ v.wait = w.wait then none else some t

/-- R257, R43: the warp that is dispatched next, among those that run: warps are visited in ascending slot number, round and round, from
the one after the warp last dispatched, cores and partitions in ascending order (log 30). -/
def nextRunner (s : State) (runs : Warp → Bool) : Option Warp :=
  let after := fun (w : Warp) => (w.place + (32 * 256 - s.warp.place % (32 * 256)) + (32 * 256 - 1)) % (32 * 256)
  (s.warps.filter runs).foldl (fun (m : Option Warp) w => match m with
    | none => some w
    | some v => if after w < after v then some w else m) none

/-- With an empty agenda: a READY warp runs its next instruction; else a waiting warp whose wait is over; else a duty; else nothing but
time passes. -/
def idle (s : State) : Out :=
  match s.nextRunner fun w => w.status == .ready && w.wait.isNone && w.hold ≤ s.clock with
  | some w => (s.focus w.pcn w.cw).runReady
  | none => match (s.warps.filter tries).findSome? s.waitDone with
    | some t => .next t
    | none => match s.duties.findSome? s.dutyDone with
      | some t => .next t
      | none => .next s

/-! ## The turn -/

/-- One turn: an instruction that a return from a fault runs again (R198) goes before all else; then the agenda; a turn of a warp
that is not there, or of an instruction that has a word, passes. -/
def turn (s : State) : Out :=
  match s.warps.find? fun w => w.rerun && w.status == .ready with
  | some w => (s.focus w.pcn w.cw).runReady
  | none =>
    match s.agenda with
    | [] => s.idle
    | .event i x :: rest => ({ s with agenda := rest } : State).runEvent i x
    | .warp pcn cw :: rest =>
      let s : State := { s with agenda := rest }
      match s.warpAt? pcn cw with
      | none => .next s
      | some _ => (s.focus pcn cw).runWarp
    | .ahead pcn cw scratch addr n :: rest =>
      let s : State := { s with agenda := rest }
      match s.warpAt? pcn cw with
      | none => .next s
      | some _ => .next ((s.focus pcn cw).loadAhead scratch addr n)

/-- R38: time that passes in a step: a cycle and more, and global time; causal experiments count the cycles (R381). What an instruction
has taken of the loads ahead of it ends with it. -/
def elapse (s : State) : State :=
  let d := 1 + Config.stepCycles s.clock
  let s : State := { s with warp := { s.warp with taken := [] } }
  { s.countCausal d with clock := s.clock + d, gtime := s.gtime + Config.stepNanos s.clock }

/-- R372: whether a stopped module stays so: power loss alone is felt. -/
def halted (s : State) : Bool :=
  s.monarch.stopped && (match s.agenda with | .event .powerLoss _ :: _ => false | _ => true)

/-! ## An instruction placed where the next step fetches it -/

/-- The physical address where the code of `placeInstr` lies; its tables lie in the five pages before it. -/
def codePlace : Nat := 0x20000

/-- A table entry that points on: V alone (R352). -/
def pointer (table : Nat) : List Byte := bytesOf 8 (table + 1)

/-- Page tables that map the page at 0x1000 to the code's place, readable, writable and executable (R351, R352), and bytes of code
there. -/
def codeCells (bs : List Byte) : List Host.Cell :=
  cellsFrom (codePlace - 0x5000) (pointer (codePlace - 0x4000))
    ++ cellsFrom (codePlace - 0x4000) (pointer (codePlace - 0x3000))
    ++ cellsFrom (codePlace - 0x3000) (pointer (codePlace - 0x2000))
    ++ cellsFrom (codePlace - 0x2000) (pointer (codePlace - 0x1000))
    ++ cellsFrom (codePlace - 0x1000 + 8) (bytesOf 8 (codePlace + 0x1F))
    ++ cellsFrom codePlace bs

/-- A state in which the next step fetches and runs an instruction: the module is powered, the current warp stands READY on core 0
at an address whose page holds the instruction, and nothing is to happen before its turn. This stands for what the loader and
the gang placer do (R336, R337, R383; log 31). -/
def placeInstr (s : State) (bs : List Byte) : State :=
  let s : State := { s with
    agenda := [], others := s.others.filter fun w => !w.rerun && !(w.pcn == 0 && w.cw == 0)
    monarch := { s.monarch with power := .run, stopped := false }
    warp := { s.warp with pcn := 0, cw := 0, status := .ready, pc := 0x1000, rid := 1, varch := 128, rep := none, wait := none,
                          rerun := false, exclude := 0, hold := 0, stepping := false, pending := [] } }
  let s := s.setCore { Core.reset 0 with enabled := true, loaded := true, rid := 1, ptroot := codePlace - 0x5000 }
  let s := s.setCluster { s.cluster 0 with tlb := [] }
  s.homeWriteAll 0 0 (codeCells bs)

end State

end Sys2Proof.Machine
end

