-- ==== Sys2Proof/Machine/Step.lean ====
section
/-!
DEFINITION. One step of the machine, and an instruction placed for the next step to fetch.
-/

namespace Sys2Proof.Machine

/-- One step: one turn, and the time it takes; a module that has stopped (R372) makes none. -/
def step (s : State) : Host.Outcome State Fault Refusal :=
  if s.halted then .fault .moduleStopped
  else match s.turn with
    | .next t => .next t.elapse
    | .fault f => .fault f
    | .refused r => .refused r

/-- A state whose next step fetches and runs the instruction whose bits are `w` (R50: one 32-bit word, little-endian). -/
def State.withFetchWord (s : State) (nbits w : Nat) : State := s.placeInstr (bytesOf 4 (w % 2 ^ nbits))

end Sys2Proof.Machine
end

