-- ==== Sys2Proof/Laws/Encoding.lean ====
section
/-!
SUPPORT. What the fields of an encoded word are, format by format (R51), and what `decode` makes of a word whose shape is known.
-/

namespace Sys2Proof.Laws

set_option Elab.async false

/-- A field's value. -/
theorem field_toNat {m : Nat} (w : BitVec m) (lo n : Nat) : (field w lo n).toNat = w.toNat / 2 ^ lo % 2 ^ n := by
  simp [field]

/-- A field is what its value says. -/
theorem field_eq {m n : Nat} (w : BitVec m) (lo : Nat) (x : BitVec n) (h : w.toNat / 2 ^ lo % 2 ^ n = x.toNat) :
    field w lo n = x := BitVec.eq_of_toNat_eq (by rw [field_toNat, h])

/-- A word with a shape that is well formed, and not all zero, decodes to it. -/
theorem decode_of_shape {w : Word} {i : Instr} (hs : decodeShape w = some i) (hw : wellFormed i = true)
    (hz : field w 0 31 ≠ 0#31) : decode w = .ok i := by
  simp [decode, hs, hw, hz]

/-- A word with a major above 0 is not all zero. -/
theorem nonzero_of_major {w : Word} {n : Nat} (h : (field w 25 6).toNat = n) (hn : n ≠ 0) : field w 0 31 ≠ 0#31 := by
  intro hz
  have h0 := congrArg BitVec.toNat hz
  rw [field_toNat] at h h0
  simp at h h0
  omega

section Formats
variable (maj : Nat) (hm : maj < 64)
include hm

theorem encV3_fields (d a b : BitVec 7) (f : BitVec 4) :
    (field (encV3 maj d a b f) 25 6).toNat = maj ∧ field (encV3 maj d a b f) 18 7 = d ∧ field (encV3 maj d a b f) 11 7 = a
      ∧ field (encV3 maj d a b f) 4 7 = b ∧ field (encV3 maj d a b f) 0 4 = f := by
  have := d.isLt; have := a.isLt; have := b.isLt; have := f.isLt
  refine ⟨?_, field_eq _ _ _ ?_, field_eq _ _ _ ?_, field_eq _ _ _ ?_, field_eq _ _ _ ?_⟩ <;>
    simp [field_toNat, encV3] <;> omega

theorem encV2I_fields (d a : BitVec 7) (i : BitVec 11) :
    (field (encV2I maj d a i) 25 6).toNat = maj ∧ field (encV2I maj d a i) 18 7 = d ∧ field (encV2I maj d a i) 11 7 = a
      ∧ field (encV2I maj d a i) 0 11 = i := by
  have := d.isLt; have := a.isLt; have := i.isLt
  refine ⟨?_, field_eq _ _ _ ?_, field_eq _ _ _ ?_, field_eq _ _ _ ?_⟩ <;> simp [field_toNat, encV2I] <;> omega

theorem encSI_fields (d : BitVec 7) (i : BitVec 18) :
    (field (encSI maj d i) 25 6).toNat = maj ∧ field (encSI maj d i) 18 7 = d ∧ field (encSI maj d i) 0 18 = i := by
  have := d.isLt; have := i.isLt
  refine ⟨?_, field_eq _ _ _ ?_, field_eq _ _ _ ?_⟩ <;> simp [field_toNat, encSI] <;> omega

theorem encBC_fields (a b : BitVec 6) (c : BitVec 3) (o : BitVec 10) :
    (field (encBC maj a b c o) 25 6).toNat = maj ∧ field (encBC maj a b c o) 19 6 = a ∧ field (encBC maj a b c o) 13 6 = b
      ∧ field (encBC maj a b c o) 10 3 = c ∧ field (encBC maj a b c o) 0 10 = o := by
  have := a.isLt; have := b.isLt; have := c.isLt; have := o.isLt
  refine ⟨?_, field_eq _ _ _ ?_, field_eq _ _ _ ?_, field_eq _ _ _ ?_, field_eq _ _ _ ?_⟩ <;>
    simp [field_toNat, encBC] <;> omega

theorem encBCI_fields (a i : BitVec 6) (c : BitVec 3) (o : BitVec 10) :
    (field (encBCI maj a i c o) 25 6).toNat = maj ∧ field (encBCI maj a i c o) 19 6 = a ∧ field (encBCI maj a i c o) 13 6 = i
      ∧ field (encBCI maj a i c o) 10 3 = c ∧ field (encBCI maj a i c o) 0 10 = o := by
  have := a.isLt; have := i.isLt; have := c.isLt; have := o.isLt
  refine ⟨?_, field_eq _ _ _ ?_, field_eq _ _ _ ?_, field_eq _ _ _ ?_, field_eq _ _ _ ?_⟩ <;>
    simp [field_toNat, encBCI] <;> omega

theorem encJ_fields (o : BitVec 25) :
    (field (encJ maj o) 25 6).toNat = maj ∧ field (encJ maj o) 0 25 = o := by
  have := o.isLt
  refine ⟨?_, field_eq _ _ _ ?_⟩ <;> simp [field_toNat, encJ] <;> omega

theorem encBP_fields (p : BitVec 3) (t j : BitVec 11) :
    (field (encBP maj p t j) 25 6).toNat = maj ∧ field (encBP maj p t j) 22 3 = p ∧ field (encBP maj p t j) 11 11 = t
      ∧ field (encBP maj p t j) 0 11 = j := by
  have := p.isLt; have := t.isLt; have := j.isLt
  refine ⟨?_, field_eq _ _ _ ?_, field_eq _ _ _ ?_, field_eq _ _ _ ?_⟩ <;> simp [field_toNat, encBP] <;> omega

theorem encM_fields (d : BitVec 7) (k : BitVec 4) (x m : BitVec 7) :
    (field (encM maj d k x m) 25 6).toNat = maj ∧ field (encM maj d k x m) 18 7 = d ∧ field (encM maj d k x m) 14 4 = k
      ∧ field (encM maj d k x m) 7 7 = x ∧ field (encM maj d k x m) 0 7 = m := by
  have := d.isLt; have := k.isLt; have := x.isLt; have := m.isLt
  refine ⟨?_, field_eq _ _ _ ?_, field_eq _ _ _ ?_, field_eq _ _ _ ?_, field_eq _ _ _ ?_⟩ <;>
    simp [field_toNat, encM] <;> omega

theorem encTS_fields (v : BitVec 7) (t : BitVec 2) (r : BitVec 1) (x : BitVec 6) (m : BitVec 9) :
    (field (encTS maj v t r x m) 25 6).toNat = maj ∧ field (encTS maj v t r x m) 18 7 = v ∧ field (encTS maj v t r x m) 16 2 = t
      ∧ field (encTS maj v t r x m) 15 1 = r ∧ field (encTS maj v t r x m) 9 6 = x ∧ field (encTS maj v t r x m) 0 9 = m := by
  have := v.isLt; have := t.isLt; have := r.isLt; have := x.isLt; have := m.isLt
  refine ⟨?_, field_eq _ _ _ ?_, field_eq _ _ _ ?_, field_eq _ _ _ ?_, field_eq _ _ _ ?_, field_eq _ _ _ ?_⟩ <;>
    simp [field_toNat, encTS] <;> omega

theorem encX_fields (d a : BitVec 7) (g : BitVec 11) :
    (field (encX maj d a g) 25 6).toNat = maj ∧ field (encX maj d a g) 18 7 = d ∧ field (encX maj d a g) 11 7 = a
      ∧ field (encX maj d a g) 0 11 = g := by
  have := d.isLt; have := a.isLt; have := g.isLt
  refine ⟨?_, field_eq _ _ _ ?_, field_eq _ _ _ ?_, field_eq _ _ _ ?_⟩ <;> simp [field_toNat, encX] <;> omega

end Formats

/-! ## The shape of a word, by its major -/

theorem decodeShape_00 {w : Word} (h : (field w 25 6).toNat = 0x00) :
    decodeShape w = shape00 (field w 18 7) (field w 11 7) (field w 4 7) (field w 0 4) := by simp only [decodeShape, h]

theorem decodeShape_01 {w : Word} (h : (field w 25 6).toNat = 0x01) :
    decodeShape w = shape01 (field w 18 7) (field w 11 7) (field w 4 7) (field w 0 4) := by simp only [decodeShape, h]

theorem decodeShape_02 {w : Word} (h : (field w 25 6).toNat = 0x02) :
    decodeShape w = shape02 (field w 18 7) (field w 11 7) (field w 0 11) := by simp only [decodeShape, h]

theorem decodeShape_03 {w : Word} (h : (field w 25 6).toNat = 0x03) :
    decodeShape w = shape03 (field w 18 7) (field w 11 7) (field w 0 11) := by simp only [decodeShape, h]

theorem decodeShape_04 {w : Word} (h : (field w 25 6).toNat = 0x04) :
    decodeShape w = shape04 (field w 18 7) (field w 11 7) (field w 0 11) := by simp only [decodeShape, h]

theorem decodeShape_05 {w : Word} (h : (field w 25 6).toNat = 0x05) :
    decodeShape w = shape05 (field w 18 7) (field w 11 7) (field w 0 11) := by simp only [decodeShape, h]

theorem decodeShape_06 {w : Word} (h : (field w 25 6).toNat = 0x06) :
    decodeShape w = shape06 (field w 18 7) (field w 0 18) := by simp only [decodeShape, h]

theorem decodeShape_07 {w : Word} (h : (field w 25 6).toNat = 0x07) :
    decodeShape w = shape07 (field w 18 7) (field w 0 18) := by simp only [decodeShape, h]

theorem decodeShape_08 {w : Word} (h : (field w 25 6).toNat = 0x08) :
    decodeShape w = shape08 (field w 18 7) (field w 11 7) (field w 4 7) (field w 0 4) := by simp only [decodeShape, h]

theorem decodeShape_0C {w : Word} (h : (field w 25 6).toNat = 0x0C) :
    decodeShape w = shape0C (field w 19 6) (field w 13 6) (field w 10 3) (field w 0 10) := by simp only [decodeShape, h]

theorem decodeShape_0D {w : Word} (h : (field w 25 6).toNat = 0x0D) :
    decodeShape w = shape0D (field w 19 6) (field w 13 6) (field w 10 3) (field w 0 10) := by simp only [decodeShape, h]

theorem decodeShape_0E {w : Word} (h : (field w 25 6).toNat = 0x0E) :
    decodeShape w = shape0E (field w 0 25) := by simp only [decodeShape, h]

theorem decodeShape_0F {w : Word} (h : (field w 25 6).toNat = 0x0F) :
    decodeShape w = shape0F (field w 0 25) := by simp only [decodeShape, h]

theorem decodeShape_10 {w : Word} (h : (field w 25 6).toNat = 0x10) :
    decodeShape w = shape10 (field w 22 3) (field w 11 11) (field w 0 11) := by simp only [decodeShape, h]

theorem decodeShape_11 {w : Word} (h : (field w 25 6).toNat = 0x11) :
    decodeShape w = shape11 (field w 22 3) (field w 11 11) (field w 0 11) := by simp only [decodeShape, h]

theorem decodeShape_12 {w : Word} (h : (field w 25 6).toNat = 0x12) :
    decodeShape w = shape12 (field w 18 7) (field w 11 7) (field w 0 11) := by simp only [decodeShape, h]

theorem decodeShape_13 {w : Word} (h : (field w 25 6).toNat = 0x13) :
    decodeShape w = shape13 (field w 18 7) (field w 11 7) (field w 0 11) := by simp only [decodeShape, h]

theorem decodeShape_14 {w : Word} (h : (field w 25 6).toNat = 0x14) :
    decodeShape w = shape14 (field w 18 7) (field w 11 7) (field w 4 7) (field w 0 4) := by simp only [decodeShape, h]

theorem decodeShape_15 {w : Word} (h : (field w 25 6).toNat = 0x15) :
    decodeShape w = shape15 (field w 18 7) (field w 11 7) (field w 4 7) (field w 0 4) := by simp only [decodeShape, h]

theorem decodeShape_16 {w : Word} (h : (field w 25 6).toNat = 0x16) :
    decodeShape w = shape16 (field w 18 7) (field w 11 7) (field w 4 7) (field w 0 4) := by simp only [decodeShape, h]

theorem decodeShape_17 {w : Word} (h : (field w 25 6).toNat = 0x17) :
    decodeShape w = shape17 (field w 18 7) (field w 11 7) (field w 4 7) (field w 0 4) := by simp only [decodeShape, h]

theorem decodeShape_18 {w : Word} (h : (field w 25 6).toNat = 0x18) :
    decodeShape w = shape18 (field w 18 7) (field w 0 18) := by simp only [decodeShape, h]

theorem decodeShape_19 {w : Word} (h : (field w 25 6).toNat = 0x19) :
    decodeShape w = shape19 (field w 18 7) (field w 11 7) (field w 0 11) := by simp only [decodeShape, h]

theorem decodeShape_1A {w : Word} (h : (field w 25 6).toNat = 0x1A) :
    decodeShape w = shape1A (field w 18 7) (field w 11 7) (field w 0 11) := by simp only [decodeShape, h]

theorem decodeShape_1B {w : Word} (h : (field w 25 6).toNat = 0x1B) :
    decodeShape w = shape1B (field w 18 7) (field w 11 7) (field w 0 11) := by simp only [decodeShape, h]

theorem decodeShape_20 {w : Word} (h : (field w 25 6).toNat = 0x20) :
    decodeShape w = shape20 (field w 18 7) (field w 11 7) (field w 4 7) (field w 0 4) := by simp only [decodeShape, h]

theorem decodeShape_21 {w : Word} (h : (field w 25 6).toNat = 0x21) :
    decodeShape w = shape21 (field w 18 7) (field w 11 7) (field w 4 7) (field w 0 4) := by simp only [decodeShape, h]

theorem decodeShape_22 {w : Word} (h : (field w 25 6).toNat = 0x22) :
    decodeShape w = shape22 (field w 18 7) (field w 11 7) (field w 4 7) (field w 0 4) := by simp only [decodeShape, h]

theorem decodeShape_28 {w : Word} (h : (field w 25 6).toNat = 0x28) :
    decodeShape w = shape28 (field w 18 7) (field w 11 7) (field w 4 7) (field w 0 4) := by simp only [decodeShape, h]

theorem decodeShape_29 {w : Word} (h : (field w 25 6).toNat = 0x29) :
    decodeShape w = shape29 (field w 18 7) (field w 11 7) (field w 4 7) (field w 0 4) := by simp only [decodeShape, h]

theorem decodeShape_2C {w : Word} (h : (field w 25 6).toNat = 0x2C) :
    decodeShape w = shape2C (field w 18 7) (field w 14 4) (field w 7 7) (field w 0 7) := by simp only [decodeShape, h]

theorem decodeShape_2D {w : Word} (h : (field w 25 6).toNat = 0x2D) :
    decodeShape w = shape2D (field w 18 7) (field w 14 4) (field w 7 7) (field w 0 7) := by simp only [decodeShape, h]

theorem decodeShape_2E {w : Word} (h : (field w 25 6).toNat = 0x2E) :
    decodeShape w = shape2E (field w 18 7) (field w 14 4) (field w 7 7) (field w 0 7) := by simp only [decodeShape, h]

theorem decodeShape_2F {w : Word} (h : (field w 25 6).toNat = 0x2F) :
    decodeShape w = shape2F (field w 18 7) (field w 14 4) (field w 7 7) (field w 0 7) := by simp only [decodeShape, h]

theorem decodeShape_30 {w : Word} (h : (field w 25 6).toNat = 0x30) :
    decodeShape w = shape30 (field w 18 7) (field w 14 4) (field w 7 7) (field w 0 7) := by simp only [decodeShape, h]

theorem decodeShape_31 {w : Word} (h : (field w 25 6).toNat = 0x31) :
    decodeShape w = shape31 (field w 18 7) (field w 14 4) (field w 7 7) (field w 0 7) := by simp only [decodeShape, h]

theorem decodeShape_32 {w : Word} (h : (field w 25 6).toNat = 0x32) :
    decodeShape w = shape32 (field w 18 7) (field w 14 4) (field w 7 7) (field w 0 7) := by simp only [decodeShape, h]

theorem decodeShape_33 {w : Word} (h : (field w 25 6).toNat = 0x33) :
    decodeShape w = shape33 (field w 18 7) (field w 11 7) (field w 0 11) := by simp only [decodeShape, h]

theorem decodeShape_34 {w : Word} (h : (field w 25 6).toNat = 0x34) :
    decodeShape w = shape34 (field w 18 7) (field w 14 4) (field w 7 7) (field w 0 7) := by simp only [decodeShape, h]

theorem decodeShape_35 {w : Word} (h : (field w 25 6).toNat = 0x35) :
    decodeShape w = shape35 (field w 18 7) (field w 14 4) (field w 7 7) (field w 0 7) := by simp only [decodeShape, h]

theorem decodeShape_36 {w : Word} (h : (field w 25 6).toNat = 0x36) :
    decodeShape w = shape36 (field w 18 7) (field w 14 4) (field w 7 7) (field w 0 7) := by simp only [decodeShape, h]

theorem decodeShape_37 {w : Word} (h : (field w 25 6).toNat = 0x37) :
    decodeShape w = shape37 (field w 18 7) (field w 11 7) (field w 0 11) := by simp only [decodeShape, h]

theorem decodeShape_38 {w : Word} (h : (field w 25 6).toNat = 0x38) :
    decodeShape w = shape38 (field w 18 7) (field w 11 7) (field w 0 11) := by simp only [decodeShape, h]

theorem decodeShape_39 {w : Word} (h : (field w 25 6).toNat = 0x39) :
    decodeShape w = shape39 (field w 18 7) (field w 11 7) (field w 0 11) := by simp only [decodeShape, h]

theorem decodeShape_3A {w : Word} (h : (field w 25 6).toNat = 0x3A) :
    decodeShape w = shape3A (field w 18 7) (field w 11 7) (field w 0 11) := by simp only [decodeShape, h]

theorem decodeShape_3C {w : Word} (h : (field w 25 6).toNat = 0x3C) :
    decodeShape w = shape3C (field w 18 7) (field w 11 7) (field w 4 7) (field w 0 4) := by simp only [decodeShape, h]

theorem decodeShape_3D {w : Word} (h : (field w 25 6).toNat = 0x3D) :
    decodeShape w = shape3D (field w 18 7) (field w 16 2) (field w 15 1) (field w 9 6) (field w 0 9) := by simp only [decodeShape, h]

theorem decodeShape_3E {w : Word} (h : (field w 25 6).toNat = 0x3E) :
    decodeShape w = shape3E (field w 18 7) (field w 14 4) (field w 7 7) (field w 0 7) := by simp only [decodeShape, h]

theorem decodeShape_3F {w : Word} (h : (field w 25 6).toNat = 0x3F) :
    decodeShape w = shape3F (field w 18 7) (field w 11 7) (field w 0 11) := by simp only [decodeShape, h]

end Sys2Proof.Laws
end

