-- ==== Sys2Proof/Laws/PerInstr.lean ====
section
/-!
SUPPORT. Decoding an encoded instruction gives it back: one lemma per constructor (R50-R79).
-/

namespace Sys2Proof.Laws.RoundTrip

set_option Elab.async false

/-- The word that encodes a well-formed instruction decodes to it, with every operand; a step without a word has none. -/
def Statement (i : Instr) : Prop := wellFormed i = true → ∀ w, encode i = some w → decode w = .ok i

theorem sadd (d : BitVec 7) (a : BitVec 7) (b : BitVec 7) : Statement (.sadd d a b) := by
  intro hw u h
  obtain rfl : encV3 0x00 d a b 0#4 = u := Option.some.inj h
  obtain ⟨hM, h0, h1, h2, h3⟩ := encV3_fields 0x00 (by decide) d a b 0#4
  refine decode_of_shape ?_ hw ?_
  · rw [decodeShape_00 hM, h0, h1, h2, h3]
    simp [shape00]
  · intro hz
    have h3 := congrArg BitVec.toNat hz
    rw [field_toNat] at h3
    have := d.isLt; have := a.isLt; have := b.isLt
    have hn : ¬ (d = 0#7 ∧ a = 0#7 ∧ b = 0#7) := by
      simp only [wellFormed, Bool.and_eq_true, Bool.not_eq_true', Bool.and_eq_false_iff, beq_eq_false_iff_ne] at hw
      rintro ⟨rfl, rfl, rfl⟩
      simp at hw
    apply hn
    refine ⟨BitVec.eq_of_toNat_eq ?_, BitVec.eq_of_toNat_eq ?_, BitVec.eq_of_toNat_eq ?_⟩ <;> simp [encV3] at h3 ⊢ <;> omega

theorem ssub (d : BitVec 7) (a : BitVec 7) (b : BitVec 7) : Statement (.ssub d a b) := by
  intro hw u h
  obtain rfl : encV3 0x00 d a b 1#4 = u := Option.some.inj h
  obtain ⟨hM, h0, h1, h2, h3⟩ := encV3_fields 0x00 (by decide) d a b 1#4
  refine decode_of_shape ?_ hw ?_
  · rw [decodeShape_00 hM, h0, h1, h2, h3]
    simp [shape00]
  · intro hz
    have h4 := congrArg BitVec.toNat h3
    have h5 := congrArg BitVec.toNat hz
    rw [field_toNat] at h4 h5
    simp at h4 h5
    omega

theorem smul (d : BitVec 7) (a : BitVec 7) (b : BitVec 7) : Statement (.smul d a b) := by
  intro hw u h
  obtain rfl : encV3 0x00 d a b 2#4 = u := Option.some.inj h
  obtain ⟨hM, h0, h1, h2, h3⟩ := encV3_fields 0x00 (by decide) d a b 2#4
  refine decode_of_shape ?_ hw ?_
  · rw [decodeShape_00 hM, h0, h1, h2, h3]
    simp [shape00]
  · intro hz
    have h4 := congrArg BitVec.toNat h3
    have h5 := congrArg BitVec.toNat hz
    rw [field_toNat] at h4 h5
    simp at h4 h5
    omega

theorem smulh (d : BitVec 7) (a : BitVec 7) (b : BitVec 7) : Statement (.smulh d a b) := by
  intro hw u h
  obtain rfl : encV3 0x00 d a b 3#4 = u := Option.some.inj h
  obtain ⟨hM, h0, h1, h2, h3⟩ := encV3_fields 0x00 (by decide) d a b 3#4
  refine decode_of_shape ?_ hw ?_
  · rw [decodeShape_00 hM, h0, h1, h2, h3]
    simp [shape00]
  · intro hz
    have h4 := congrArg BitVec.toNat h3
    have h5 := congrArg BitVec.toNat hz
    rw [field_toNat] at h4 h5
    simp at h4 h5
    omega

theorem smulhu (d : BitVec 7) (a : BitVec 7) (b : BitVec 7) : Statement (.smulhu d a b) := by
  intro hw u h
  obtain rfl : encV3 0x00 d a b 4#4 = u := Option.some.inj h
  obtain ⟨hM, h0, h1, h2, h3⟩ := encV3_fields 0x00 (by decide) d a b 4#4
  refine decode_of_shape ?_ hw ?_
  · rw [decodeShape_00 hM, h0, h1, h2, h3]
    simp [shape00]
  · intro hz
    have h4 := congrArg BitVec.toNat h3
    have h5 := congrArg BitVec.toNat hz
    rw [field_toNat] at h4 h5
    simp at h4 h5
    omega

theorem sand (d : BitVec 7) (a : BitVec 7) (b : BitVec 7) : Statement (.sand d a b) := by
  intro hw u h
  obtain rfl : encV3 0x00 d a b 5#4 = u := Option.some.inj h
  obtain ⟨hM, h0, h1, h2, h3⟩ := encV3_fields 0x00 (by decide) d a b 5#4
  refine decode_of_shape ?_ hw ?_
  · rw [decodeShape_00 hM, h0, h1, h2, h3]
    simp [shape00]
  · intro hz
    have h4 := congrArg BitVec.toNat h3
    have h5 := congrArg BitVec.toNat hz
    rw [field_toNat] at h4 h5
    simp at h4 h5
    omega

theorem sor (d : BitVec 7) (a : BitVec 7) (b : BitVec 7) : Statement (.sor d a b) := by
  intro hw u h
  obtain rfl : encV3 0x00 d a b 6#4 = u := Option.some.inj h
  obtain ⟨hM, h0, h1, h2, h3⟩ := encV3_fields 0x00 (by decide) d a b 6#4
  refine decode_of_shape ?_ hw ?_
  · rw [decodeShape_00 hM, h0, h1, h2, h3]
    simp [shape00]
  · intro hz
    have h4 := congrArg BitVec.toNat h3
    have h5 := congrArg BitVec.toNat hz
    rw [field_toNat] at h4 h5
    simp at h4 h5
    omega

theorem sxor (d : BitVec 7) (a : BitVec 7) (b : BitVec 7) : Statement (.sxor d a b) := by
  intro hw u h
  obtain rfl : encV3 0x00 d a b 7#4 = u := Option.some.inj h
  obtain ⟨hM, h0, h1, h2, h3⟩ := encV3_fields 0x00 (by decide) d a b 7#4
  refine decode_of_shape ?_ hw ?_
  · rw [decodeShape_00 hM, h0, h1, h2, h3]
    simp [shape00]
  · intro hz
    have h4 := congrArg BitVec.toNat h3
    have h5 := congrArg BitVec.toNat hz
    rw [field_toNat] at h4 h5
    simp at h4 h5
    omega

theorem sshl (d : BitVec 7) (a : BitVec 7) (b : BitVec 7) : Statement (.sshl d a b) := by
  intro hw u h
  obtain rfl : encV3 0x00 d a b 8#4 = u := Option.some.inj h
  obtain ⟨hM, h0, h1, h2, h3⟩ := encV3_fields 0x00 (by decide) d a b 8#4
  refine decode_of_shape ?_ hw ?_
  · rw [decodeShape_00 hM, h0, h1, h2, h3]
    simp [shape00]
  · intro hz
    have h4 := congrArg BitVec.toNat h3
    have h5 := congrArg BitVec.toNat hz
    rw [field_toNat] at h4 h5
    simp at h4 h5
    omega

theorem sshr (d : BitVec 7) (a : BitVec 7) (b : BitVec 7) : Statement (.sshr d a b) := by
  intro hw u h
  obtain rfl : encV3 0x00 d a b 9#4 = u := Option.some.inj h
  obtain ⟨hM, h0, h1, h2, h3⟩ := encV3_fields 0x00 (by decide) d a b 9#4
  refine decode_of_shape ?_ hw ?_
  · rw [decodeShape_00 hM, h0, h1, h2, h3]
    simp [shape00]
  · intro hz
    have h4 := congrArg BitVec.toNat h3
    have h5 := congrArg BitVec.toNat hz
    rw [field_toNat] at h4 h5
    simp at h4 h5
    omega

theorem ssra (d : BitVec 7) (a : BitVec 7) (b : BitVec 7) : Statement (.ssra d a b) := by
  intro hw u h
  obtain rfl : encV3 0x00 d a b 10#4 = u := Option.some.inj h
  obtain ⟨hM, h0, h1, h2, h3⟩ := encV3_fields 0x00 (by decide) d a b 10#4
  refine decode_of_shape ?_ hw ?_
  · rw [decodeShape_00 hM, h0, h1, h2, h3]
    simp [shape00]
  · intro hz
    have h4 := congrArg BitVec.toNat h3
    have h5 := congrArg BitVec.toNat hz
    rw [field_toNat] at h4 h5
    simp at h4 h5
    omega

theorem smin (d : BitVec 7) (a : BitVec 7) (b : BitVec 7) : Statement (.smin d a b) := by
  intro hw u h
  obtain rfl : encV3 0x00 d a b 11#4 = u := Option.some.inj h
  obtain ⟨hM, h0, h1, h2, h3⟩ := encV3_fields 0x00 (by decide) d a b 11#4
  refine decode_of_shape ?_ hw ?_
  · rw [decodeShape_00 hM, h0, h1, h2, h3]
    simp [shape00]
  · intro hz
    have h4 := congrArg BitVec.toNat h3
    have h5 := congrArg BitVec.toNat hz
    rw [field_toNat] at h4 h5
    simp at h4 h5
    omega

theorem smax (d : BitVec 7) (a : BitVec 7) (b : BitVec 7) : Statement (.smax d a b) := by
  intro hw u h
  obtain rfl : encV3 0x00 d a b 12#4 = u := Option.some.inj h
  obtain ⟨hM, h0, h1, h2, h3⟩ := encV3_fields 0x00 (by decide) d a b 12#4
  refine decode_of_shape ?_ hw ?_
  · rw [decodeShape_00 hM, h0, h1, h2, h3]
    simp [shape00]
  · intro hz
    have h4 := congrArg BitVec.toNat h3
    have h5 := congrArg BitVec.toNat hz
    rw [field_toNat] at h4 h5
    simp at h4 h5
    omega

theorem sminu (d : BitVec 7) (a : BitVec 7) (b : BitVec 7) : Statement (.sminu d a b) := by
  intro hw u h
  obtain rfl : encV3 0x00 d a b 13#4 = u := Option.some.inj h
  obtain ⟨hM, h0, h1, h2, h3⟩ := encV3_fields 0x00 (by decide) d a b 13#4
  refine decode_of_shape ?_ hw ?_
  · rw [decodeShape_00 hM, h0, h1, h2, h3]
    simp [shape00]
  · intro hz
    have h4 := congrArg BitVec.toNat h3
    have h5 := congrArg BitVec.toNat hz
    rw [field_toNat] at h4 h5
    simp at h4 h5
    omega

theorem smaxu (d : BitVec 7) (a : BitVec 7) (b : BitVec 7) : Statement (.smaxu d a b) := by
  intro hw u h
  obtain rfl : encV3 0x00 d a b 14#4 = u := Option.some.inj h
  obtain ⟨hM, h0, h1, h2, h3⟩ := encV3_fields 0x00 (by decide) d a b 14#4
  refine decode_of_shape ?_ hw ?_
  · rw [decodeShape_00 hM, h0, h1, h2, h3]
    simp [shape00]
  · intro hz
    have h4 := congrArg BitVec.toNat h3
    have h5 := congrArg BitVec.toNat hz
    rw [field_toNat] at h4 h5
    simp at h4 h5
    omega

theorem sdiv (d : BitVec 7) (a : BitVec 7) (b : BitVec 7) : Statement (.sdiv d a b) := by
  intro hw u h
  obtain rfl : encV3 0x01 d a b 0#4 = u := Option.some.inj h
  obtain ⟨hM, h0, h1, h2, h3⟩ := encV3_fields 0x01 (by decide) d a b 0#4
  refine decode_of_shape ?_ hw (nonzero_of_major hM (by decide))
  · rw [decodeShape_01 hM, h0, h1, h2, h3]
    simp [shape01]

theorem sdivu (d : BitVec 7) (a : BitVec 7) (b : BitVec 7) : Statement (.sdivu d a b) := by
  intro hw u h
  obtain rfl : encV3 0x01 d a b 1#4 = u := Option.some.inj h
  obtain ⟨hM, h0, h1, h2, h3⟩ := encV3_fields 0x01 (by decide) d a b 1#4
  refine decode_of_shape ?_ hw (nonzero_of_major hM (by decide))
  · rw [decodeShape_01 hM, h0, h1, h2, h3]
    simp [shape01]

theorem srem (d : BitVec 7) (a : BitVec 7) (b : BitVec 7) : Statement (.srem d a b) := by
  intro hw u h
  obtain rfl : encV3 0x01 d a b 2#4 = u := Option.some.inj h
  obtain ⟨hM, h0, h1, h2, h3⟩ := encV3_fields 0x01 (by decide) d a b 2#4
  refine decode_of_shape ?_ hw (nonzero_of_major hM (by decide))
  · rw [decodeShape_01 hM, h0, h1, h2, h3]
    simp [shape01]

theorem sremu (d : BitVec 7) (a : BitVec 7) (b : BitVec 7) : Statement (.sremu d a b) := by
  intro hw u h
  obtain rfl : encV3 0x01 d a b 3#4 = u := Option.some.inj h
  obtain ⟨hM, h0, h1, h2, h3⟩ := encV3_fields 0x01 (by decide) d a b 3#4
  refine decode_of_shape ?_ hw (nonzero_of_major hM (by decide))
  · rw [decodeShape_01 hM, h0, h1, h2, h3]
    simp [shape01]

theorem spopc (d : BitVec 7) (a : BitVec 7) : Statement (.spopc d a) := by
  intro hw u h
  obtain rfl : encV3 0x01 d a 0#7 4#4 = u := Option.some.inj h
  obtain ⟨hM, h0, h1, h2, h3⟩ := encV3_fields 0x01 (by decide) d a 0#7 4#4
  refine decode_of_shape ?_ hw (nonzero_of_major hM (by decide))
  · rw [decodeShape_01 hM, h0, h1, h2, h3]
    simp [shape01]

theorem sclz (d : BitVec 7) (a : BitVec 7) : Statement (.sclz d a) := by
  intro hw u h
  obtain rfl : encV3 0x01 d a 0#7 5#4 = u := Option.some.inj h
  obtain ⟨hM, h0, h1, h2, h3⟩ := encV3_fields 0x01 (by decide) d a 0#7 5#4
  refine decode_of_shape ?_ hw (nonzero_of_major hM (by decide))
  · rw [decodeShape_01 hM, h0, h1, h2, h3]
    simp [shape01]

theorem sshli (d : BitVec 7) (a : BitVec 7) (n : BitVec 7) : Statement (.sshli d a n) := by
  intro hw u h
  obtain rfl : encV3 0x01 d a n 6#4 = u := Option.some.inj h
  obtain ⟨hM, h0, h1, h2, h3⟩ := encV3_fields 0x01 (by decide) d a n 6#4
  refine decode_of_shape ?_ hw (nonzero_of_major hM (by decide))
  · rw [decodeShape_01 hM, h0, h1, h2, h3]
    simp [shape01]

theorem sshri (d : BitVec 7) (a : BitVec 7) (n : BitVec 7) : Statement (.sshri d a n) := by
  intro hw u h
  obtain rfl : encV3 0x01 d a n 7#4 = u := Option.some.inj h
  obtain ⟨hM, h0, h1, h2, h3⟩ := encV3_fields 0x01 (by decide) d a n 7#4
  refine decode_of_shape ?_ hw (nonzero_of_major hM (by decide))
  · rw [decodeShape_01 hM, h0, h1, h2, h3]
    simp [shape01]

theorem ssrai (d : BitVec 7) (a : BitVec 7) (n : BitVec 7) : Statement (.ssrai d a n) := by
  intro hw u h
  obtain rfl : encV3 0x01 d a n 8#4 = u := Option.some.inj h
  obtain ⟨hM, h0, h1, h2, h3⟩ := encV3_fields 0x01 (by decide) d a n 8#4
  refine decode_of_shape ?_ hw (nonzero_of_major hM (by decide))
  · rw [decodeShape_01 hM, h0, h1, h2, h3]
    simp [shape01]

theorem ssetEq (d : BitVec 7) (a : BitVec 7) (b : BitVec 7) : Statement (.ssetEq d a b) := by
  intro hw u h
  obtain rfl : encV3 0x01 d a b 9#4 = u := Option.some.inj h
  obtain ⟨hM, h0, h1, h2, h3⟩ := encV3_fields 0x01 (by decide) d a b 9#4
  refine decode_of_shape ?_ hw (nonzero_of_major hM (by decide))
  · rw [decodeShape_01 hM, h0, h1, h2, h3]
    simp [shape01]

theorem ssetNe (d : BitVec 7) (a : BitVec 7) (b : BitVec 7) : Statement (.ssetNe d a b) := by
  intro hw u h
  obtain rfl : encV3 0x01 d a b 10#4 = u := Option.some.inj h
  obtain ⟨hM, h0, h1, h2, h3⟩ := encV3_fields 0x01 (by decide) d a b 10#4
  refine decode_of_shape ?_ hw (nonzero_of_major hM (by decide))
  · rw [decodeShape_01 hM, h0, h1, h2, h3]
    simp [shape01]

theorem ssetLt (d : BitVec 7) (a : BitVec 7) (b : BitVec 7) : Statement (.ssetLt d a b) := by
  intro hw u h
  obtain rfl : encV3 0x01 d a b 11#4 = u := Option.some.inj h
  obtain ⟨hM, h0, h1, h2, h3⟩ := encV3_fields 0x01 (by decide) d a b 11#4
  refine decode_of_shape ?_ hw (nonzero_of_major hM (by decide))
  · rw [decodeShape_01 hM, h0, h1, h2, h3]
    simp [shape01]

theorem ssetGe (d : BitVec 7) (a : BitVec 7) (b : BitVec 7) : Statement (.ssetGe d a b) := by
  intro hw u h
  obtain rfl : encV3 0x01 d a b 12#4 = u := Option.some.inj h
  obtain ⟨hM, h0, h1, h2, h3⟩ := encV3_fields 0x01 (by decide) d a b 12#4
  refine decode_of_shape ?_ hw (nonzero_of_major hM (by decide))
  · rw [decodeShape_01 hM, h0, h1, h2, h3]
    simp [shape01]

theorem ssetLtu (d : BitVec 7) (a : BitVec 7) (b : BitVec 7) : Statement (.ssetLtu d a b) := by
  intro hw u h
  obtain rfl : encV3 0x01 d a b 13#4 = u := Option.some.inj h
  obtain ⟨hM, h0, h1, h2, h3⟩ := encV3_fields 0x01 (by decide) d a b 13#4
  refine decode_of_shape ?_ hw (nonzero_of_major hM (by decide))
  · rw [decodeShape_01 hM, h0, h1, h2, h3]
    simp [shape01]

theorem ssetGeu (d : BitVec 7) (a : BitVec 7) (b : BitVec 7) : Statement (.ssetGeu d a b) := by
  intro hw u h
  obtain rfl : encV3 0x01 d a b 14#4 = u := Option.some.inj h
  obtain ⟨hM, h0, h1, h2, h3⟩ := encV3_fields 0x01 (by decide) d a b 14#4
  refine decode_of_shape ?_ hw (nonzero_of_major hM (by decide))
  · rw [decodeShape_01 hM, h0, h1, h2, h3]
    simp [shape01]

theorem saddi (d : BitVec 7) (a : BitVec 7) (i : BitVec 11) : Statement (.saddi d a i) := by
  intro hw u h
  obtain rfl : encV2I 0x02 d a i = u := Option.some.inj h
  obtain ⟨hM, h0, h1, h2⟩ := encV2I_fields 0x02 (by decide) d a i
  refine decode_of_shape ?_ hw (nonzero_of_major hM (by decide))
  · rw [decodeShape_02 hM, h0, h1, h2]
    simp [shape02]

theorem sandi (d : BitVec 7) (a : BitVec 7) (i : BitVec 11) : Statement (.sandi d a i) := by
  intro hw u h
  obtain rfl : encV2I 0x03 d a i = u := Option.some.inj h
  obtain ⟨hM, h0, h1, h2⟩ := encV2I_fields 0x03 (by decide) d a i
  refine decode_of_shape ?_ hw (nonzero_of_major hM (by decide))
  · rw [decodeShape_03 hM, h0, h1, h2]
    simp [shape03]

theorem sori (d : BitVec 7) (a : BitVec 7) (i : BitVec 11) : Statement (.sori d a i) := by
  intro hw u h
  obtain rfl : encV2I 0x04 d a i = u := Option.some.inj h
  obtain ⟨hM, h0, h1, h2⟩ := encV2I_fields 0x04 (by decide) d a i
  refine decode_of_shape ?_ hw (nonzero_of_major hM (by decide))
  · rw [decodeShape_04 hM, h0, h1, h2]
    simp [shape04]

theorem sxori (d : BitVec 7) (a : BitVec 7) (i : BitVec 11) : Statement (.sxori d a i) := by
  intro hw u h
  obtain rfl : encV2I 0x05 d a i = u := Option.some.inj h
  obtain ⟨hM, h0, h1, h2⟩ := encV2I_fields 0x05 (by decide) d a i
  refine decode_of_shape ?_ hw (nonzero_of_major hM (by decide))
  · rw [decodeShape_05 hM, h0, h1, h2]
    simp [shape05]

theorem sli (d : BitVec 7) (i : BitVec 18) : Statement (.sli d i) := by
  intro hw u h
  obtain rfl : encSI 0x06 d i = u := Option.some.inj h
  obtain ⟨hM, h0, h1⟩ := encSI_fields 0x06 (by decide) d i
  refine decode_of_shape ?_ hw (nonzero_of_major hM (by decide))
  · rw [decodeShape_06 hM, h0, h1]
    simp [shape06]

theorem slih (d : BitVec 7) (i : BitVec 18) : Statement (.slih d i) := by
  intro hw u h
  obtain rfl : encSI 0x07 d i = u := Option.some.inj h
  obtain ⟨hM, h0, h1⟩ := encSI_fields 0x07 (by decide) d i
  refine decode_of_shape ?_ hw (nonzero_of_major hM (by decide))
  · rw [decodeShape_07 hM, h0, h1]
    simp [shape07]

theorem iwidenUS (d : BitVec 7) : Statement (.iwidenUS d) := by
  intro hw u h
  obtain rfl : encV3 0x08 d 0#7 0#7 0#4 = u := Option.some.inj h
  obtain ⟨hM, h0, h1, h2, h3⟩ := encV3_fields 0x08 (by decide) d 0#7 0#7 0#4
  refine decode_of_shape ?_ hw (nonzero_of_major hM (by decide))
  · rw [decodeShape_08 hM, h0, h1, h2, h3]
    simp [shape08]

theorem iwidenLS (d : BitVec 7) : Statement (.iwidenLS d) := by
  intro hw u h
  obtain rfl : encV3 0x08 d 0#7 0#7 1#4 = u := Option.some.inj h
  obtain ⟨hM, h0, h1, h2, h3⟩ := encV3_fields 0x08 (by decide) d 0#7 0#7 1#4
  refine decode_of_shape ?_ hw (nonzero_of_major hM (by decide))
  · rw [decodeShape_08 hM, h0, h1, h2, h3]
    simp [shape08]

theorem iwidenBS (d : BitVec 7) : Statement (.iwidenBS d) := by
  intro hw u h
  obtain rfl : encV3 0x08 d 0#7 0#7 2#4 = u := Option.some.inj h
  obtain ⟨hM, h0, h1, h2, h3⟩ := encV3_fields 0x08 (by decide) d 0#7 0#7 2#4
  refine decode_of_shape ?_ hw (nonzero_of_major hM (by decide))
  · rw [decodeShape_08 hM, h0, h1, h2, h3]
    simp [shape08]

theorem iwidenUV (d : BitVec 7) : Statement (.iwidenUV d) := by
  intro hw u h
  obtain rfl : encV3 0x08 d 0#7 0#7 4#4 = u := Option.some.inj h
  obtain ⟨hM, h0, h1, h2, h3⟩ := encV3_fields 0x08 (by decide) d 0#7 0#7 4#4
  refine decode_of_shape ?_ hw (nonzero_of_major hM (by decide))
  · rw [decodeShape_08 hM, h0, h1, h2, h3]
    simp [shape08]

theorem iwidenLV (d : BitVec 7) : Statement (.iwidenLV d) := by
  intro hw u h
  obtain rfl : encV3 0x08 d 0#7 0#7 5#4 = u := Option.some.inj h
  obtain ⟨hM, h0, h1, h2, h3⟩ := encV3_fields 0x08 (by decide) d 0#7 0#7 5#4
  refine decode_of_shape ?_ hw (nonzero_of_major hM (by decide))
  · rw [decodeShape_08 hM, h0, h1, h2, h3]
    simp [shape08]

theorem iwidenBV (d : BitVec 7) : Statement (.iwidenBV d) := by
  intro hw u h
  obtain rfl : encV3 0x08 d 0#7 0#7 6#4 = u := Option.some.inj h
  obtain ⟨hM, h0, h1, h2, h3⟩ := encV3_fields 0x08 (by decide) d 0#7 0#7 6#4
  refine decode_of_shape ?_ hw (nonzero_of_major hM (by decide))
  · rw [decodeShape_08 hM, h0, h1, h2, h3]
    simp [shape08]

theorem iclampS (d : BitVec 7) (a : BitVec 7) (b : BitVec 7) : Statement (.iclampS d a b) := by
  intro hw u h
  obtain rfl : encV3 0x08 d a b 8#4 = u := Option.some.inj h
  obtain ⟨hM, h0, h1, h2, h3⟩ := encV3_fields 0x08 (by decide) d a b 8#4
  refine decode_of_shape ?_ hw (nonzero_of_major hM (by decide))
  · rw [decodeShape_08 hM, h0, h1, h2, h3]
    simp [shape08]

theorem iclampV (d : BitVec 7) (a : BitVec 7) (b : BitVec 7) : Statement (.iclampV d a b) := by
  intro hw u h
  obtain rfl : encV3 0x08 d a b 9#4 = u := Option.some.inj h
  obtain ⟨hM, h0, h1, h2, h3⟩ := encV3_fields 0x08 (by decide) d a b 9#4
  refine decode_of_shape ?_ hw (nonzero_of_major hM (by decide))
  · rw [decodeShape_08 hM, h0, h1, h2, h3]
    simp [shape08]

theorem ishqS (d : BitVec 7) (a : BitVec 7) : Statement (.ishqS d a) := by
  intro hw u h
  obtain rfl : encV3 0x08 d a 0#7 10#4 = u := Option.some.inj h
  obtain ⟨hM, h0, h1, h2, h3⟩ := encV3_fields 0x08 (by decide) d a 0#7 10#4
  refine decode_of_shape ?_ hw (nonzero_of_major hM (by decide))
  · rw [decodeShape_08 hM, h0, h1, h2, h3]
    simp [shape08]

theorem ishqV (d : BitVec 7) (a : BitVec 7) : Statement (.ishqV d a) := by
  intro hw u h
  obtain rfl : encV3 0x08 d a 0#7 11#4 = u := Option.some.inj h
  obtain ⟨hM, h0, h1, h2, h3⟩ := encV3_fields 0x08 (by decide) d a 0#7 11#4
  refine decode_of_shape ?_ hw (nonzero_of_major hM (by decide))
  · rw [decodeShape_08 hM, h0, h1, h2, h3]
    simp [shape08]

theorem bcc (a : BitVec 6) (b : BitVec 6) (c : BitVec 3) (o : BitVec 10) : Statement (.bcc a b c o) := by
  intro hw u h
  obtain rfl : encBC 0x0C a b c o = u := Option.some.inj h
  obtain ⟨hM, h0, h1, h2, h3⟩ := encBC_fields 0x0C (by decide) a b c o
  refine decode_of_shape ?_ hw (nonzero_of_major hM (by decide))
  · rw [decodeShape_0C hM, h0, h1, h2, h3]
    simp [shape0C]

theorem bcci (a : BitVec 6) (i : BitVec 6) (c : BitVec 3) (o : BitVec 10) : Statement (.bcci a i c o) := by
  intro hw u h
  obtain rfl : encBCI 0x0D a i c o = u := Option.some.inj h
  obtain ⟨hM, h0, h1, h2, h3⟩ := encBCI_fields 0x0D (by decide) a i c o
  refine decode_of_shape ?_ hw (nonzero_of_major hM (by decide))
  · rw [decodeShape_0D hM, h0, h1, h2, h3]
    simp [shape0D]

theorem jmp (o : BitVec 25) : Statement (.jmp o) := by
  intro hw u h
  obtain rfl : encJ 0x0E o = u := Option.some.inj h
  obtain ⟨hM, h0⟩ := encJ_fields 0x0E (by decide) o
  refine decode_of_shape ?_ hw (nonzero_of_major hM (by decide))
  · rw [decodeShape_0E hM, h0]
    simp [shape0E]

theorem call (o : BitVec 25) : Statement (.call o) := by
  intro hw u h
  obtain rfl : encJ 0x0F o = u := Option.some.inj h
  obtain ⟨hM, h0⟩ := encJ_fields 0x0F (by decide) o
  refine decode_of_shape ?_ hw (nonzero_of_major hM (by decide))
  · rw [decodeShape_0F hM, h0]
    simp [shape0F]

theorem brp (p : BitVec 3) (t : BitVec 11) (j : BitVec 11) : Statement (.brp p t j) := by
  intro hw u h
  obtain rfl : encBP 0x10 p t j = u := Option.some.inj h
  obtain ⟨hM, h0, h1, h2⟩ := encBP_fields 0x10 (by decide) p t j
  refine decode_of_shape ?_ hw (nonzero_of_major hM (by decide))
  · rw [decodeShape_10 hM, h0, h1, h2]
    simp [shape10]

theorem bany (p : BitVec 3) (o : BitVec 11) : Statement (.bany p o) := by
  intro hw u h
  obtain rfl : encBP 0x11 p o 0#11 = u := Option.some.inj h
  obtain ⟨hM, h0, h1, h2⟩ := encBP_fields 0x11 (by decide) p o 0#11
  refine decode_of_shape ?_ hw (nonzero_of_major hM (by decide))
  · rw [decodeShape_11 hM, h0, h1, h2]
    simp [shape11]

theorem ball (p : BitVec 3) (o : BitVec 11) : Statement (.ball p o) := by
  intro hw u h
  obtain rfl : encBP 0x11 p o 1#11 = u := Option.some.inj h
  obtain ⟨hM, h0, h1, h2⟩ := encBP_fields 0x11 (by decide) p o 1#11
  refine decode_of_shape ?_ hw (nonzero_of_major hM (by decide))
  · rw [decodeShape_11 hM, h0, h1, h2]
    simp [shape11]

theorem rep (c : BitVec 6) (x : BitVec 3) (y : BitVec 3) (z : BitVec 3) : Statement (.rep c x y z) := by
  intro hw u h
  obtain rfl : encX 0x12 (BitVec.ofNat 7 (c.toNat)) 0#7 (BitVec.ofNat 11 (x.toNat * 64 + y.toNat * 8 + z.toNat)) = u := Option.some.inj h
  obtain ⟨hM, h0, h1, h2⟩ := encX_fields 0x12 (by decide) (BitVec.ofNat 7 (c.toNat)) 0#7 (BitVec.ofNat 11 (x.toNat * 64 + y.toNat * 8 + z.toNat))
  refine decode_of_shape ?_ hw (nonzero_of_major hM (by decide))
  · rw [decodeShape_12 hM, h0, h1, h2]
    have := c.isLt; have := x.isLt; have := y.isLt; have := z.isLt
    simp [shape12, -BitVec.ofNat_toNat, (show field (BitVec.ofNat 7 (c.toNat)) 6 1 = 0#1 from field_eq _ _ _ (by simp <;> omega)), (show field (BitVec.ofNat 11 (x.toNat * 64 + y.toNat * 8 + z.toNat)) 9 2 = 0#2 from field_eq _ _ _ (by simp <;> omega)), (show field (BitVec.ofNat 7 (c.toNat)) 0 6 = c from field_eq _ _ _ (by simp <;> omega)), (show field (BitVec.ofNat 11 (x.toNat * 64 + y.toNat * 8 + z.toNat)) 6 3 = x from field_eq _ _ _ (by simp <;> omega)), (show field (BitVec.ofNat 11 (x.toNat * 64 + y.toNat * 8 + z.toNat)) 3 3 = y from field_eq _ _ _ (by simp <;> omega)), (show field (BitVec.ofNat 11 (x.toNat * 64 + y.toNat * 8 + z.toNat)) 0 3 = z from field_eq _ _ _ (by simp <;> omega))]

theorem jmpi (a : BitVec 7) : Statement (.jmpi a) := by
  intro hw u h
  obtain rfl : encX 0x13 0#7 a 0#11 = u := Option.some.inj h
  obtain ⟨hM, h0, h1, h2⟩ := encX_fields 0x13 (by decide) 0#7 a 0#11
  refine decode_of_shape ?_ hw (nonzero_of_major hM (by decide))
  · rw [decodeShape_13 hM, h0, h1, h2]
    simp [shape13]

theorem calli (a : BitVec 7) : Statement (.calli a) := by
  intro hw u h
  obtain rfl : encX 0x13 0#7 a 1#11 = u := Option.some.inj h
  obtain ⟨hM, h0, h1, h2⟩ := encX_fields 0x13 (by decide) 0#7 a 1#11
  refine decode_of_shape ?_ hw (nonzero_of_major hM (by decide))
  · rw [decodeShape_13 hM, h0, h1, h2]
    simp [shape13]

theorem spawn (d : BitVec 7) (a : BitVec 7) : Statement (.spawn d a) := by
  intro hw u h
  obtain rfl : encX 0x13 d a 7#11 = u := Option.some.inj h
  obtain ⟨hM, h0, h1, h2⟩ := encX_fields 0x13 (by decide) d a 7#11
  refine decode_of_shape ?_ hw (nonzero_of_major hM (by decide))
  · rw [decodeShape_13 hM, h0, h1, h2]
    simp [shape13]

theorem spawnW (d : BitVec 7) (a : BitVec 7) : Statement (.spawnW d a) := by
  intro hw u h
  obtain rfl : encX 0x13 d a 8#11 = u := Option.some.inj h
  obtain ⟨hM, h0, h1, h2⟩ := encX_fields 0x13 (by decide) d a 8#11
  refine decode_of_shape ?_ hw (nonzero_of_major hM (by decide))
  · rw [decodeShape_13 hM, h0, h1, h2]
    simp [shape13]

theorem launch (d : BitVec 7) (a : BitVec 7) : Statement (.launch d a) := by
  intro hw u h
  obtain rfl : encX 0x13 d a 9#11 = u := Option.some.inj h
  obtain ⟨hM, h0, h1, h2⟩ := encX_fields 0x13 (by decide) d a 9#11
  refine decode_of_shape ?_ hw (nonzero_of_major hM (by decide))
  · rw [decodeShape_13 hM, h0, h1, h2]
    simp [shape13]

theorem vadd (d : BitVec 7) (a : BitVec 7) (b : BitVec 7) : Statement (.vadd d a b) := by
  intro hw u h
  obtain rfl : encV3 0x14 d a b 0#4 = u := Option.some.inj h
  obtain ⟨hM, h0, h1, h2, h3⟩ := encV3_fields 0x14 (by decide) d a b 0#4
  refine decode_of_shape ?_ hw (nonzero_of_major hM (by decide))
  · rw [decodeShape_14 hM, h0, h1, h2, h3]
    simp [shape14]

theorem vsub (d : BitVec 7) (a : BitVec 7) (b : BitVec 7) : Statement (.vsub d a b) := by
  intro hw u h
  obtain rfl : encV3 0x14 d a b 1#4 = u := Option.some.inj h
  obtain ⟨hM, h0, h1, h2, h3⟩ := encV3_fields 0x14 (by decide) d a b 1#4
  refine decode_of_shape ?_ hw (nonzero_of_major hM (by decide))
  · rw [decodeShape_14 hM, h0, h1, h2, h3]
    simp [shape14]

theorem vmul (d : BitVec 7) (a : BitVec 7) (b : BitVec 7) : Statement (.vmul d a b) := by
  intro hw u h
  obtain rfl : encV3 0x14 d a b 2#4 = u := Option.some.inj h
  obtain ⟨hM, h0, h1, h2, h3⟩ := encV3_fields 0x14 (by decide) d a b 2#4
  refine decode_of_shape ?_ hw (nonzero_of_major hM (by decide))
  · rw [decodeShape_14 hM, h0, h1, h2, h3]
    simp [shape14]

theorem vmulh (d : BitVec 7) (a : BitVec 7) (b : BitVec 7) : Statement (.vmulh d a b) := by
  intro hw u h
  obtain rfl : encV3 0x14 d a b 3#4 = u := Option.some.inj h
  obtain ⟨hM, h0, h1, h2, h3⟩ := encV3_fields 0x14 (by decide) d a b 3#4
  refine decode_of_shape ?_ hw (nonzero_of_major hM (by decide))
  · rw [decodeShape_14 hM, h0, h1, h2, h3]
    simp [shape14]

theorem vand (d : BitVec 7) (a : BitVec 7) (b : BitVec 7) : Statement (.vand d a b) := by
  intro hw u h
  obtain rfl : encV3 0x14 d a b 4#4 = u := Option.some.inj h
  obtain ⟨hM, h0, h1, h2, h3⟩ := encV3_fields 0x14 (by decide) d a b 4#4
  refine decode_of_shape ?_ hw (nonzero_of_major hM (by decide))
  · rw [decodeShape_14 hM, h0, h1, h2, h3]
    simp [shape14]

theorem vor (d : BitVec 7) (a : BitVec 7) (b : BitVec 7) : Statement (.vor d a b) := by
  intro hw u h
  obtain rfl : encV3 0x14 d a b 5#4 = u := Option.some.inj h
  obtain ⟨hM, h0, h1, h2, h3⟩ := encV3_fields 0x14 (by decide) d a b 5#4
  refine decode_of_shape ?_ hw (nonzero_of_major hM (by decide))
  · rw [decodeShape_14 hM, h0, h1, h2, h3]
    simp [shape14]

theorem vxor (d : BitVec 7) (a : BitVec 7) (b : BitVec 7) : Statement (.vxor d a b) := by
  intro hw u h
  obtain rfl : encV3 0x14 d a b 6#4 = u := Option.some.inj h
  obtain ⟨hM, h0, h1, h2, h3⟩ := encV3_fields 0x14 (by decide) d a b 6#4
  refine decode_of_shape ?_ hw (nonzero_of_major hM (by decide))
  · rw [decodeShape_14 hM, h0, h1, h2, h3]
    simp [shape14]

theorem vandn (d : BitVec 7) (a : BitVec 7) (b : BitVec 7) : Statement (.vandn d a b) := by
  intro hw u h
  obtain rfl : encV3 0x14 d a b 7#4 = u := Option.some.inj h
  obtain ⟨hM, h0, h1, h2, h3⟩ := encV3_fields 0x14 (by decide) d a b 7#4
  refine decode_of_shape ?_ hw (nonzero_of_major hM (by decide))
  · rw [decodeShape_14 hM, h0, h1, h2, h3]
    simp [shape14]

theorem vshl (d : BitVec 7) (a : BitVec 7) (b : BitVec 7) : Statement (.vshl d a b) := by
  intro hw u h
  obtain rfl : encV3 0x14 d a b 8#4 = u := Option.some.inj h
  obtain ⟨hM, h0, h1, h2, h3⟩ := encV3_fields 0x14 (by decide) d a b 8#4
  refine decode_of_shape ?_ hw (nonzero_of_major hM (by decide))
  · rw [decodeShape_14 hM, h0, h1, h2, h3]
    simp [shape14]

theorem vshr (d : BitVec 7) (a : BitVec 7) (b : BitVec 7) : Statement (.vshr d a b) := by
  intro hw u h
  obtain rfl : encV3 0x14 d a b 9#4 = u := Option.some.inj h
  obtain ⟨hM, h0, h1, h2, h3⟩ := encV3_fields 0x14 (by decide) d a b 9#4
  refine decode_of_shape ?_ hw (nonzero_of_major hM (by decide))
  · rw [decodeShape_14 hM, h0, h1, h2, h3]
    simp [shape14]

theorem vsra (d : BitVec 7) (a : BitVec 7) (b : BitVec 7) : Statement (.vsra d a b) := by
  intro hw u h
  obtain rfl : encV3 0x14 d a b 10#4 = u := Option.some.inj h
  obtain ⟨hM, h0, h1, h2, h3⟩ := encV3_fields 0x14 (by decide) d a b 10#4
  refine decode_of_shape ?_ hw (nonzero_of_major hM (by decide))
  · rw [decodeShape_14 hM, h0, h1, h2, h3]
    simp [shape14]

theorem vmin (d : BitVec 7) (a : BitVec 7) (b : BitVec 7) : Statement (.vmin d a b) := by
  intro hw u h
  obtain rfl : encV3 0x14 d a b 11#4 = u := Option.some.inj h
  obtain ⟨hM, h0, h1, h2, h3⟩ := encV3_fields 0x14 (by decide) d a b 11#4
  refine decode_of_shape ?_ hw (nonzero_of_major hM (by decide))
  · rw [decodeShape_14 hM, h0, h1, h2, h3]
    simp [shape14]

theorem vmax (d : BitVec 7) (a : BitVec 7) (b : BitVec 7) : Statement (.vmax d a b) := by
  intro hw u h
  obtain rfl : encV3 0x14 d a b 12#4 = u := Option.some.inj h
  obtain ⟨hM, h0, h1, h2, h3⟩ := encV3_fields 0x14 (by decide) d a b 12#4
  refine decode_of_shape ?_ hw (nonzero_of_major hM (by decide))
  · rw [decodeShape_14 hM, h0, h1, h2, h3]
    simp [shape14]

theorem vmad (d : BitVec 7) (a : BitVec 7) (b : BitVec 7) : Statement (.vmad d a b) := by
  intro hw u h
  obtain rfl : encV3 0x15 d a b 0#4 = u := Option.some.inj h
  obtain ⟨hM, h0, h1, h2, h3⟩ := encV3_fields 0x15 (by decide) d a b 0#4
  refine decode_of_shape ?_ hw (nonzero_of_major hM (by decide))
  · rw [decodeShape_15 hM, h0, h1, h2, h3]
    simp [shape15]

theorem vabs (d : BitVec 7) (a : BitVec 7) : Statement (.vabs d a) := by
  intro hw u h
  obtain rfl : encV3 0x15 d a 0#7 1#4 = u := Option.some.inj h
  obtain ⟨hM, h0, h1, h2, h3⟩ := encV3_fields 0x15 (by decide) d a 0#7 1#4
  refine decode_of_shape ?_ hw (nonzero_of_major hM (by decide))
  · rw [decodeShape_15 hM, h0, h1, h2, h3]
    simp [shape15]

theorem vneg (d : BitVec 7) (a : BitVec 7) : Statement (.vneg d a) := by
  intro hw u h
  obtain rfl : encV3 0x15 d a 0#7 2#4 = u := Option.some.inj h
  obtain ⟨hM, h0, h1, h2, h3⟩ := encV3_fields 0x15 (by decide) d a 0#7 2#4
  refine decode_of_shape ?_ hw (nonzero_of_major hM (by decide))
  · rw [decodeShape_15 hM, h0, h1, h2, h3]
    simp [shape15]

theorem vpopc (d : BitVec 7) (a : BitVec 7) : Statement (.vpopc d a) := by
  intro hw u h
  obtain rfl : encV3 0x15 d a 0#7 3#4 = u := Option.some.inj h
  obtain ⟨hM, h0, h1, h2, h3⟩ := encV3_fields 0x15 (by decide) d a 0#7 3#4
  refine decode_of_shape ?_ hw (nonzero_of_major hM (by decide))
  · rw [decodeShape_15 hM, h0, h1, h2, h3]
    simp [shape15]

theorem vclz (d : BitVec 7) (a : BitVec 7) : Statement (.vclz d a) := by
  intro hw u h
  obtain rfl : encV3 0x15 d a 0#7 4#4 = u := Option.some.inj h
  obtain ⟨hM, h0, h1, h2, h3⟩ := encV3_fields 0x15 (by decide) d a 0#7 4#4
  refine decode_of_shape ?_ hw (nonzero_of_major hM (by decide))
  · rw [decodeShape_15 hM, h0, h1, h2, h3]
    simp [shape15]

theorem vbrev (d : BitVec 7) (a : BitVec 7) : Statement (.vbrev d a) := by
  intro hw u h
  obtain rfl : encV3 0x15 d a 0#7 5#4 = u := Option.some.inj h
  obtain ⟨hM, h0, h1, h2, h3⟩ := encV3_fields 0x15 (by decide) d a 0#7 5#4
  refine decode_of_shape ?_ hw (nonzero_of_major hM (by decide))
  · rw [decodeShape_15 hM, h0, h1, h2, h3]
    simp [shape15]

theorem vmov (d : BitVec 7) (a : BitVec 7) : Statement (.vmov d a) := by
  intro hw u h
  obtain rfl : encV3 0x15 d a 0#7 6#4 = u := Option.some.inj h
  obtain ⟨hM, h0, h1, h2, h3⟩ := encV3_fields 0x15 (by decide) d a 0#7 6#4
  refine decode_of_shape ?_ hw (nonzero_of_major hM (by decide))
  · rw [decodeShape_15 hM, h0, h1, h2, h3]
    simp [shape15]

theorem vlane (d : BitVec 7) : Statement (.vlane d) := by
  intro hw u h
  obtain rfl : encV3 0x15 d 0#7 0#7 7#4 = u := Option.some.inj h
  obtain ⟨hM, h0, h1, h2, h3⟩ := encV3_fields 0x15 (by decide) d 0#7 0#7 7#4
  refine decode_of_shape ?_ hw (nonzero_of_major hM (by decide))
  · rw [decodeShape_15 hM, h0, h1, h2, h3]
    simp [shape15]

theorem vbcast (d : BitVec 7) (a : BitVec 7) : Statement (.vbcast d a) := by
  intro hw u h
  obtain rfl : encV3 0x15 d a 0#7 8#4 = u := Option.some.inj h
  obtain ⟨hM, h0, h1, h2, h3⟩ := encV3_fields 0x15 (by decide) d a 0#7 8#4
  refine decode_of_shape ?_ hw (nonzero_of_major hM (by decide))
  · rw [decodeShape_15 hM, h0, h1, h2, h3]
    simp [shape15]

theorem vextr (d : BitVec 7) (a : BitVec 7) (b : BitVec 7) : Statement (.vextr d a b) := by
  intro hw u h
  obtain rfl : encV3 0x15 d a b 9#4 = u := Option.some.inj h
  obtain ⟨hM, h0, h1, h2, h3⟩ := encV3_fields 0x15 (by decide) d a b 9#4
  refine decode_of_shape ?_ hw (nonzero_of_major hM (by decide))
  · rw [decodeShape_15 hM, h0, h1, h2, h3]
    simp [shape15]

theorem vcvt (d : BitVec 7) (a : BitVec 7) (t : BitVec 4) : Statement (.vcvt d a t) := by
  intro hw u h
  obtain rfl : encV3 0x15 d a (BitVec.ofNat 7 (t.toNat)) 10#4 = u := Option.some.inj h
  obtain ⟨hM, h0, h1, h2, h3⟩ := encV3_fields 0x15 (by decide) d a (BitVec.ofNat 7 (t.toNat)) 10#4
  refine decode_of_shape ?_ hw (nonzero_of_major hM (by decide))
  · rw [decodeShape_15 hM, h0, h1, h2, h3]
    have := t.isLt
    simp [shape15, -BitVec.ofNat_toNat, (show field (BitVec.ofNat 7 (t.toNat)) 4 3 = 0#3 from field_eq _ _ _ (by simp <;> omega)), (show field (BitVec.ofNat 7 (t.toNat)) 0 4 = t from field_eq _ _ _ (by simp <;> omega))]

theorem vsel (d : BitVec 7) (a : BitVec 7) (b : BitVec 7) (p : BitVec 3) : Statement (.vsel d a b p) := by
  intro hw u h
  obtain rfl : encV3 0x16 d a b (BitVec.ofNat 4 (p.toNat)) = u := Option.some.inj h
  obtain ⟨hM, h0, h1, h2, h3⟩ := encV3_fields 0x16 (by decide) d a b (BitVec.ofNat 4 (p.toNat))
  refine decode_of_shape ?_ hw (nonzero_of_major hM (by decide))
  · rw [decodeShape_16 hM, h0, h1, h2, h3]
    have := p.isLt
    simp [shape16, -BitVec.ofNat_toNat, (show field (BitVec.ofNat 4 (p.toNat)) 3 1 = 0#1 from field_eq _ _ _ (by simp <;> omega)), (show field (BitVec.ofNat 4 (p.toNat)) 0 3 = p from field_eq _ _ _ (by simp <;> omega))]

theorem vcmp (d : BitVec 7) (a : BitVec 7) (b : BitVec 7) (c : BitVec 4) : Statement (.vcmp d a b c) := by
  intro hw u h
  obtain rfl : encV3 0x17 d a b c = u := Option.some.inj h
  obtain ⟨hM, h0, h1, h2, h3⟩ := encV3_fields 0x17 (by decide) d a b c
  refine decode_of_shape ?_ hw (nonzero_of_major hM (by decide))
  · rw [decodeShape_17 hM, h0, h1, h2, h3]
    simp [shape17]

theorem vmovi (d : BitVec 7) (i : BitVec 18) : Statement (.vmovi d i) := by
  intro hw u h
  obtain rfl : encSI 0x18 d i = u := Option.some.inj h
  obtain ⟨hM, h0, h1⟩ := encSI_fields 0x18 (by decide) d i
  refine decode_of_shape ?_ hw (nonzero_of_major hM (by decide))
  · rw [decodeShape_18 hM, h0, h1]
    simp [shape18]

theorem vaddi (d : BitVec 7) (a : BitVec 7) (i : BitVec 11) : Statement (.vaddi d a i) := by
  intro hw u h
  obtain rfl : encV2I 0x19 d a i = u := Option.some.inj h
  obtain ⟨hM, h0, h1, h2⟩ := encV2I_fields 0x19 (by decide) d a i
  refine decode_of_shape ?_ hw (nonzero_of_major hM (by decide))
  · rw [decodeShape_19 hM, h0, h1, h2]
    simp [shape19]

theorem vandi (d : BitVec 7) (a : BitVec 7) (i : BitVec 11) : Statement (.vandi d a i) := by
  intro hw u h
  obtain rfl : encV2I 0x1A d a i = u := Option.some.inj h
  obtain ⟨hM, h0, h1, h2⟩ := encV2I_fields 0x1A (by decide) d a i
  refine decode_of_shape ?_ hw (nonzero_of_major hM (by decide))
  · rw [decodeShape_1A hM, h0, h1, h2]
    simp [shape1A]

theorem vshli (d : BitVec 7) (a : BitVec 7) (n : BitVec 5) : Statement (.vshli d a n) := by
  intro hw u h
  obtain rfl : encV2I 0x1B d a (BitVec.ofNat 11 (n.toNat)) = u := Option.some.inj h
  obtain ⟨hM, h0, h1, h2⟩ := encV2I_fields 0x1B (by decide) d a (BitVec.ofNat 11 (n.toNat))
  refine decode_of_shape ?_ hw (nonzero_of_major hM (by decide))
  · rw [decodeShape_1B hM, h0, h1, h2]
    have := n.isLt
    simp [shape1B, -BitVec.ofNat_toNat, (show field (BitVec.ofNat 11 (n.toNat)) 5 6 = 0#6 from field_eq _ _ _ (by simp <;> omega)), (show field (BitVec.ofNat 11 (n.toNat)) 0 5 = n from field_eq _ _ _ (by simp <;> omega))]

theorem vshri (d : BitVec 7) (a : BitVec 7) (n : BitVec 5) : Statement (.vshri d a n) := by
  intro hw u h
  obtain rfl : encV2I 0x1B d a (BitVec.ofNat 11 (512 + n.toNat)) = u := Option.some.inj h
  obtain ⟨hM, h0, h1, h2⟩ := encV2I_fields 0x1B (by decide) d a (BitVec.ofNat 11 (512 + n.toNat))
  refine decode_of_shape ?_ hw (nonzero_of_major hM (by decide))
  · rw [decodeShape_1B hM, h0, h1, h2]
    have := n.isLt
    simp [shape1B, -BitVec.ofNat_toNat, (show field (BitVec.ofNat 11 (512 + n.toNat)) 5 6 = 16#6 from field_eq _ _ _ (by simp <;> omega)), (show field (BitVec.ofNat 11 (512 + n.toNat)) 0 5 = n from field_eq _ _ _ (by simp <;> omega))]

theorem vsrai (d : BitVec 7) (a : BitVec 7) (n : BitVec 5) : Statement (.vsrai d a n) := by
  intro hw u h
  obtain rfl : encV2I 0x1B d a (BitVec.ofNat 11 (1024 + n.toNat)) = u := Option.some.inj h
  obtain ⟨hM, h0, h1, h2⟩ := encV2I_fields 0x1B (by decide) d a (BitVec.ofNat 11 (1024 + n.toNat))
  refine decode_of_shape ?_ hw (nonzero_of_major hM (by decide))
  · rw [decodeShape_1B hM, h0, h1, h2]
    have := n.isLt
    simp [shape1B, -BitVec.ofNat_toNat, (show field (BitVec.ofNat 11 (1024 + n.toNat)) 5 6 = 32#6 from field_eq _ _ _ (by simp <;> omega)), (show field (BitVec.ofNat 11 (1024 + n.toNat)) 0 5 = n from field_eq _ _ _ (by simp <;> omega))]

theorem vfadd (d : BitVec 7) (a : BitVec 7) (b : BitVec 7) : Statement (.vfadd d a b) := by
  intro hw u h
  obtain rfl : encV3 0x20 d a b 0#4 = u := Option.some.inj h
  obtain ⟨hM, h0, h1, h2, h3⟩ := encV3_fields 0x20 (by decide) d a b 0#4
  refine decode_of_shape ?_ hw (nonzero_of_major hM (by decide))
  · rw [decodeShape_20 hM, h0, h1, h2, h3]
    simp [shape20]

theorem vfsub (d : BitVec 7) (a : BitVec 7) (b : BitVec 7) : Statement (.vfsub d a b) := by
  intro hw u h
  obtain rfl : encV3 0x20 d a b 1#4 = u := Option.some.inj h
  obtain ⟨hM, h0, h1, h2, h3⟩ := encV3_fields 0x20 (by decide) d a b 1#4
  refine decode_of_shape ?_ hw (nonzero_of_major hM (by decide))
  · rw [decodeShape_20 hM, h0, h1, h2, h3]
    simp [shape20]

theorem vfmul (d : BitVec 7) (a : BitVec 7) (b : BitVec 7) : Statement (.vfmul d a b) := by
  intro hw u h
  obtain rfl : encV3 0x20 d a b 2#4 = u := Option.some.inj h
  obtain ⟨hM, h0, h1, h2, h3⟩ := encV3_fields 0x20 (by decide) d a b 2#4
  refine decode_of_shape ?_ hw (nonzero_of_major hM (by decide))
  · rw [decodeShape_20 hM, h0, h1, h2, h3]
    simp [shape20]

theorem vfma (d : BitVec 7) (a : BitVec 7) (b : BitVec 7) : Statement (.vfma d a b) := by
  intro hw u h
  obtain rfl : encV3 0x20 d a b 3#4 = u := Option.some.inj h
  obtain ⟨hM, h0, h1, h2, h3⟩ := encV3_fields 0x20 (by decide) d a b 3#4
  refine decode_of_shape ?_ hw (nonzero_of_major hM (by decide))
  · rw [decodeShape_20 hM, h0, h1, h2, h3]
    simp [shape20]

theorem vfms (d : BitVec 7) (a : BitVec 7) (b : BitVec 7) : Statement (.vfms d a b) := by
  intro hw u h
  obtain rfl : encV3 0x20 d a b 4#4 = u := Option.some.inj h
  obtain ⟨hM, h0, h1, h2, h3⟩ := encV3_fields 0x20 (by decide) d a b 4#4
  refine decode_of_shape ?_ hw (nonzero_of_major hM (by decide))
  · rw [decodeShape_20 hM, h0, h1, h2, h3]
    simp [shape20]

theorem vfnma (d : BitVec 7) (a : BitVec 7) (b : BitVec 7) : Statement (.vfnma d a b) := by
  intro hw u h
  obtain rfl : encV3 0x20 d a b 5#4 = u := Option.some.inj h
  obtain ⟨hM, h0, h1, h2, h3⟩ := encV3_fields 0x20 (by decide) d a b 5#4
  refine decode_of_shape ?_ hw (nonzero_of_major hM (by decide))
  · rw [decodeShape_20 hM, h0, h1, h2, h3]
    simp [shape20]

theorem vfnms (d : BitVec 7) (a : BitVec 7) (b : BitVec 7) : Statement (.vfnms d a b) := by
  intro hw u h
  obtain rfl : encV3 0x20 d a b 6#4 = u := Option.some.inj h
  obtain ⟨hM, h0, h1, h2, h3⟩ := encV3_fields 0x20 (by decide) d a b 6#4
  refine decode_of_shape ?_ hw (nonzero_of_major hM (by decide))
  · rw [decodeShape_20 hM, h0, h1, h2, h3]
    simp [shape20]

theorem vfmin (d : BitVec 7) (a : BitVec 7) (b : BitVec 7) : Statement (.vfmin d a b) := by
  intro hw u h
  obtain rfl : encV3 0x20 d a b 7#4 = u := Option.some.inj h
  obtain ⟨hM, h0, h1, h2, h3⟩ := encV3_fields 0x20 (by decide) d a b 7#4
  refine decode_of_shape ?_ hw (nonzero_of_major hM (by decide))
  · rw [decodeShape_20 hM, h0, h1, h2, h3]
    simp [shape20]

theorem vfmax (d : BitVec 7) (a : BitVec 7) (b : BitVec 7) : Statement (.vfmax d a b) := by
  intro hw u h
  obtain rfl : encV3 0x20 d a b 8#4 = u := Option.some.inj h
  obtain ⟨hM, h0, h1, h2, h3⟩ := encV3_fields 0x20 (by decide) d a b 8#4
  refine decode_of_shape ?_ hw (nonzero_of_major hM (by decide))
  · rw [decodeShape_20 hM, h0, h1, h2, h3]
    simp [shape20]

theorem vfdiv (d : BitVec 7) (a : BitVec 7) (b : BitVec 7) : Statement (.vfdiv d a b) := by
  intro hw u h
  obtain rfl : encV3 0x20 d a b 9#4 = u := Option.some.inj h
  obtain ⟨hM, h0, h1, h2, h3⟩ := encV3_fields 0x20 (by decide) d a b 9#4
  refine decode_of_shape ?_ hw (nonzero_of_major hM (by decide))
  · rw [decodeShape_20 hM, h0, h1, h2, h3]
    simp [shape20]

theorem vfabs (d : BitVec 7) (a : BitVec 7) : Statement (.vfabs d a) := by
  intro hw u h
  obtain rfl : encV3 0x21 d a 0#7 0#4 = u := Option.some.inj h
  obtain ⟨hM, h0, h1, h2, h3⟩ := encV3_fields 0x21 (by decide) d a 0#7 0#4
  refine decode_of_shape ?_ hw (nonzero_of_major hM (by decide))
  · rw [decodeShape_21 hM, h0, h1, h2, h3]
    simp [shape21]

theorem vfneg (d : BitVec 7) (a : BitVec 7) : Statement (.vfneg d a) := by
  intro hw u h
  obtain rfl : encV3 0x21 d a 0#7 1#4 = u := Option.some.inj h
  obtain ⟨hM, h0, h1, h2, h3⟩ := encV3_fields 0x21 (by decide) d a 0#7 1#4
  refine decode_of_shape ?_ hw (nonzero_of_major hM (by decide))
  · rw [decodeShape_21 hM, h0, h1, h2, h3]
    simp [shape21]

theorem vfrcp (d : BitVec 7) (a : BitVec 7) : Statement (.vfrcp d a) := by
  intro hw u h
  obtain rfl : encV3 0x21 d a 0#7 2#4 = u := Option.some.inj h
  obtain ⟨hM, h0, h1, h2, h3⟩ := encV3_fields 0x21 (by decide) d a 0#7 2#4
  refine decode_of_shape ?_ hw (nonzero_of_major hM (by decide))
  · rw [decodeShape_21 hM, h0, h1, h2, h3]
    simp [shape21]

theorem vfrsq (d : BitVec 7) (a : BitVec 7) : Statement (.vfrsq d a) := by
  intro hw u h
  obtain rfl : encV3 0x21 d a 0#7 3#4 = u := Option.some.inj h
  obtain ⟨hM, h0, h1, h2, h3⟩ := encV3_fields 0x21 (by decide) d a 0#7 3#4
  refine decode_of_shape ?_ hw (nonzero_of_major hM (by decide))
  · rw [decodeShape_21 hM, h0, h1, h2, h3]
    simp [shape21]

theorem vfsqrt (d : BitVec 7) (a : BitVec 7) : Statement (.vfsqrt d a) := by
  intro hw u h
  obtain rfl : encV3 0x21 d a 0#7 4#4 = u := Option.some.inj h
  obtain ⟨hM, h0, h1, h2, h3⟩ := encV3_fields 0x21 (by decide) d a 0#7 4#4
  refine decode_of_shape ?_ hw (nonzero_of_major hM (by decide))
  · rw [decodeShape_21 hM, h0, h1, h2, h3]
    simp [shape21]

theorem vfexp2 (d : BitVec 7) (a : BitVec 7) : Statement (.vfexp2 d a) := by
  intro hw u h
  obtain rfl : encV3 0x21 d a 0#7 5#4 = u := Option.some.inj h
  obtain ⟨hM, h0, h1, h2, h3⟩ := encV3_fields 0x21 (by decide) d a 0#7 5#4
  refine decode_of_shape ?_ hw (nonzero_of_major hM (by decide))
  · rw [decodeShape_21 hM, h0, h1, h2, h3]
    simp [shape21]

theorem vflog2 (d : BitVec 7) (a : BitVec 7) : Statement (.vflog2 d a) := by
  intro hw u h
  obtain rfl : encV3 0x21 d a 0#7 6#4 = u := Option.some.inj h
  obtain ⟨hM, h0, h1, h2, h3⟩ := encV3_fields 0x21 (by decide) d a 0#7 6#4
  refine decode_of_shape ?_ hw (nonzero_of_major hM (by decide))
  · rw [decodeShape_21 hM, h0, h1, h2, h3]
    simp [shape21]

theorem vfsin (d : BitVec 7) (a : BitVec 7) : Statement (.vfsin d a) := by
  intro hw u h
  obtain rfl : encV3 0x21 d a 0#7 7#4 = u := Option.some.inj h
  obtain ⟨hM, h0, h1, h2, h3⟩ := encV3_fields 0x21 (by decide) d a 0#7 7#4
  refine decode_of_shape ?_ hw (nonzero_of_major hM (by decide))
  · rw [decodeShape_21 hM, h0, h1, h2, h3]
    simp [shape21]

theorem vfcos (d : BitVec 7) (a : BitVec 7) : Statement (.vfcos d a) := by
  intro hw u h
  obtain rfl : encV3 0x21 d a 0#7 8#4 = u := Option.some.inj h
  obtain ⟨hM, h0, h1, h2, h3⟩ := encV3_fields 0x21 (by decide) d a 0#7 8#4
  refine decode_of_shape ?_ hw (nonzero_of_major hM (by decide))
  · rw [decodeShape_21 hM, h0, h1, h2, h3]
    simp [shape21]

theorem vfrnd (d : BitVec 7) (a : BitVec 7) : Statement (.vfrnd d a) := by
  intro hw u h
  obtain rfl : encV3 0x21 d a 0#7 9#4 = u := Option.some.inj h
  obtain ⟨hM, h0, h1, h2, h3⟩ := encV3_fields 0x21 (by decide) d a 0#7 9#4
  refine decode_of_shape ?_ hw (nonzero_of_major hM (by decide))
  · rw [decodeShape_21 hM, h0, h1, h2, h3]
    simp [shape21]

theorem vfclass (d : BitVec 7) (a : BitVec 7) : Statement (.vfclass d a) := by
  intro hw u h
  obtain rfl : encV3 0x21 d a 0#7 10#4 = u := Option.some.inj h
  obtain ⟨hM, h0, h1, h2, h3⟩ := encV3_fields 0x21 (by decide) d a 0#7 10#4
  refine decode_of_shape ?_ hw (nonzero_of_major hM (by decide))
  · rw [decodeShape_21 hM, h0, h1, h2, h3]
    simp [shape21]

theorem vfcmp (d : BitVec 7) (a : BitVec 7) (b : BitVec 7) (c : BitVec 4) : Statement (.vfcmp d a b c) := by
  intro hw u h
  obtain rfl : encV3 0x22 d a b c = u := Option.some.inj h
  obtain ⟨hM, h0, h1, h2, h3⟩ := encV3_fields 0x22 (by decide) d a b c
  refine decode_of_shape ?_ hw (nonzero_of_major hM (by decide))
  · rw [decodeShape_22 hM, h0, h1, h2, h3]
    simp [shape22]

theorem pand (d : BitVec 7) (a : BitVec 7) (b : BitVec 7) : Statement (.pand d a b) := by
  intro hw u h
  obtain rfl : encV3 0x28 d a b 0#4 = u := Option.some.inj h
  obtain ⟨hM, h0, h1, h2, h3⟩ := encV3_fields 0x28 (by decide) d a b 0#4
  refine decode_of_shape ?_ hw (nonzero_of_major hM (by decide))
  · rw [decodeShape_28 hM, h0, h1, h2, h3]
    simp [shape28]

theorem por (d : BitVec 7) (a : BitVec 7) (b : BitVec 7) : Statement (.por d a b) := by
  intro hw u h
  obtain rfl : encV3 0x28 d a b 1#4 = u := Option.some.inj h
  obtain ⟨hM, h0, h1, h2, h3⟩ := encV3_fields 0x28 (by decide) d a b 1#4
  refine decode_of_shape ?_ hw (nonzero_of_major hM (by decide))
  · rw [decodeShape_28 hM, h0, h1, h2, h3]
    simp [shape28]

theorem pxor (d : BitVec 7) (a : BitVec 7) (b : BitVec 7) : Statement (.pxor d a b) := by
  intro hw u h
  obtain rfl : encV3 0x28 d a b 2#4 = u := Option.some.inj h
  obtain ⟨hM, h0, h1, h2, h3⟩ := encV3_fields 0x28 (by decide) d a b 2#4
  refine decode_of_shape ?_ hw (nonzero_of_major hM (by decide))
  · rw [decodeShape_28 hM, h0, h1, h2, h3]
    simp [shape28]

theorem pnot (d : BitVec 7) (a : BitVec 7) : Statement (.pnot d a) := by
  intro hw u h
  obtain rfl : encV3 0x28 d a 0#7 3#4 = u := Option.some.inj h
  obtain ⟨hM, h0, h1, h2, h3⟩ := encV3_fields 0x28 (by decide) d a 0#7 3#4
  refine decode_of_shape ?_ hw (nonzero_of_major hM (by decide))
  · rw [decodeShape_28 hM, h0, h1, h2, h3]
    simp [shape28]

theorem pandn (d : BitVec 7) (a : BitVec 7) (b : BitVec 7) : Statement (.pandn d a b) := by
  intro hw u h
  obtain rfl : encV3 0x28 d a b 4#4 = u := Option.some.inj h
  obtain ⟨hM, h0, h1, h2, h3⟩ := encV3_fields 0x28 (by decide) d a b 4#4
  refine decode_of_shape ?_ hw (nonzero_of_major hM (by decide))
  · rw [decodeShape_28 hM, h0, h1, h2, h3]
    simp [shape28]

theorem pset (d : BitVec 7) (a : BitVec 7) : Statement (.pset d a) := by
  intro hw u h
  obtain rfl : encV3 0x28 d a 0#7 5#4 = u := Option.some.inj h
  obtain ⟨hM, h0, h1, h2, h3⟩ := encV3_fields 0x28 (by decide) d a 0#7 5#4
  refine decode_of_shape ?_ hw (nonzero_of_major hM (by decide))
  · rw [decodeShape_28 hM, h0, h1, h2, h3]
    simp [shape28]

theorem pget (d : BitVec 7) (a : BitVec 7) : Statement (.pget d a) := by
  intro hw u h
  obtain rfl : encV3 0x28 d a 0#7 6#4 = u := Option.some.inj h
  obtain ⟨hM, h0, h1, h2, h3⟩ := encV3_fields 0x28 (by decide) d a 0#7 6#4
  refine decode_of_shape ?_ hw (nonzero_of_major hM (by decide))
  · rw [decodeShape_28 hM, h0, h1, h2, h3]
    simp [shape28]

theorem ppopc (d : BitVec 7) (a : BitVec 7) : Statement (.ppopc d a) := by
  intro hw u h
  obtain rfl : encV3 0x28 d a 0#7 7#4 = u := Option.some.inj h
  obtain ⟨hM, h0, h1, h2, h3⟩ := encV3_fields 0x28 (by decide) d a 0#7 7#4
  refine decode_of_shape ?_ hw (nonzero_of_major hM (by decide))
  · rw [decodeShape_28 hM, h0, h1, h2, h3]
    simp [shape28]

theorem pfirst (d : BitVec 7) (a : BitVec 7) : Statement (.pfirst d a) := by
  intro hw u h
  obtain rfl : encV3 0x28 d a 0#7 8#4 = u := Option.some.inj h
  obtain ⟨hM, h0, h1, h2, h3⟩ := encV3_fields 0x28 (by decide) d a 0#7 8#4
  refine decode_of_shape ?_ hw (nonzero_of_major hM (by decide))
  · rw [decodeShape_28 hM, h0, h1, h2, h3]
    simp [shape28]

theorem vshfl (d : BitVec 7) (a : BitVec 7) (b : BitVec 7) : Statement (.vshfl d a b) := by
  intro hw u h
  obtain rfl : encV3 0x29 d a b 0#4 = u := Option.some.inj h
  obtain ⟨hM, h0, h1, h2, h3⟩ := encV3_fields 0x29 (by decide) d a b 0#4
  refine decode_of_shape ?_ hw (nonzero_of_major hM (by decide))
  · rw [decodeShape_29 hM, h0, h1, h2, h3]
    simp [shape29]

theorem vshflx (d : BitVec 7) (a : BitVec 7) (b : BitVec 7) : Statement (.vshflx d a b) := by
  intro hw u h
  obtain rfl : encV3 0x29 d a b 1#4 = u := Option.some.inj h
  obtain ⟨hM, h0, h1, h2, h3⟩ := encV3_fields 0x29 (by decide) d a b 1#4
  refine decode_of_shape ?_ hw (nonzero_of_major hM (by decide))
  · rw [decodeShape_29 hM, h0, h1, h2, h3]
    simp [shape29]

theorem vrot (d : BitVec 7) (a : BitVec 7) (b : BitVec 7) : Statement (.vrot d a b) := by
  intro hw u h
  obtain rfl : encV3 0x29 d a b 2#4 = u := Option.some.inj h
  obtain ⟨hM, h0, h1, h2, h3⟩ := encV3_fields 0x29 (by decide) d a b 2#4
  refine decode_of_shape ?_ hw (nonzero_of_major hM (by decide))
  · rw [decodeShape_29 hM, h0, h1, h2, h3]
    simp [shape29]

theorem vredadd (d : BitVec 7) (a : BitVec 7) : Statement (.vredadd d a) := by
  intro hw u h
  obtain rfl : encV3 0x29 d a 0#7 3#4 = u := Option.some.inj h
  obtain ⟨hM, h0, h1, h2, h3⟩ := encV3_fields 0x29 (by decide) d a 0#7 3#4
  refine decode_of_shape ?_ hw (nonzero_of_major hM (by decide))
  · rw [decodeShape_29 hM, h0, h1, h2, h3]
    simp [shape29]

theorem vredmin (d : BitVec 7) (a : BitVec 7) : Statement (.vredmin d a) := by
  intro hw u h
  obtain rfl : encV3 0x29 d a 0#7 4#4 = u := Option.some.inj h
  obtain ⟨hM, h0, h1, h2, h3⟩ := encV3_fields 0x29 (by decide) d a 0#7 4#4
  refine decode_of_shape ?_ hw (nonzero_of_major hM (by decide))
  · rw [decodeShape_29 hM, h0, h1, h2, h3]
    simp [shape29]

theorem vredmax (d : BitVec 7) (a : BitVec 7) : Statement (.vredmax d a) := by
  intro hw u h
  obtain rfl : encV3 0x29 d a 0#7 5#4 = u := Option.some.inj h
  obtain ⟨hM, h0, h1, h2, h3⟩ := encV3_fields 0x29 (by decide) d a 0#7 5#4
  refine decode_of_shape ?_ hw (nonzero_of_major hM (by decide))
  · rw [decodeShape_29 hM, h0, h1, h2, h3]
    simp [shape29]

theorem vscan (d : BitVec 7) (a : BitVec 7) : Statement (.vscan d a) := by
  intro hw u h
  obtain rfl : encV3 0x29 d a 0#7 6#4 = u := Option.some.inj h
  obtain ⟨hM, h0, h1, h2, h3⟩ := encV3_fields 0x29 (by decide) d a 0#7 6#4
  refine decode_of_shape ?_ hw (nonzero_of_major hM (by decide))
  · rw [decodeShape_29 hM, h0, h1, h2, h3]
    simp [shape29]

theorem lda (d : BitVec 7) (a : BitVec 4) (x : BitVec 7) (m : BitVec 7) : Statement (.lda d a x m) := by
  intro hw u h
  obtain rfl : encM 0x2C d a x m = u := Option.some.inj h
  obtain ⟨hM, h0, h1, h2, h3⟩ := encM_fields 0x2C (by decide) d a x m
  refine decode_of_shape ?_ hw (nonzero_of_major hM (by decide))
  · rw [decodeShape_2C hM, h0, h1, h2, h3]
    simp [shape2C]

theorem sta (d : BitVec 7) (a : BitVec 4) (x : BitVec 7) (m : BitVec 7) : Statement (.sta d a x m) := by
  intro hw u h
  obtain rfl : encM 0x2D d a x m = u := Option.some.inj h
  obtain ⟨hM, h0, h1, h2, h3⟩ := encM_fields 0x2D (by decide) d a x m
  refine decode_of_shape ?_ hw (nonzero_of_major hM (by decide))
  · rw [decodeShape_2D hM, h0, h1, h2, h3]
    simp [shape2D]

theorem ldb (d : BitVec 7) (a : BitVec 4) (x : BitVec 7) (m : BitVec 7) : Statement (.ldb d a x m) := by
  intro hw u h
  obtain rfl : encM 0x2E d a x m = u := Option.some.inj h
  obtain ⟨hM, h0, h1, h2, h3⟩ := encM_fields 0x2E (by decide) d a x m
  refine decode_of_shape ?_ hw (nonzero_of_major hM (by decide))
  · rw [decodeShape_2E hM, h0, h1, h2, h3]
    simp [shape2E]

theorem stb (d : BitVec 7) (a : BitVec 4) (x : BitVec 7) (m : BitVec 7) : Statement (.stb d a x m) := by
  intro hw u h
  obtain rfl : encM 0x2F d a x m = u := Option.some.inj h
  obtain ⟨hM, h0, h1, h2, h3⟩ := encM_fields 0x2F (by decide) d a x m
  refine decode_of_shape ?_ hw (nonzero_of_major hM (by decide))
  · rw [decodeShape_2F hM, h0, h1, h2, h3]
    simp [shape2F]

theorem slda (d : BitVec 7) (a : BitVec 4) (x : BitVec 7) (m : BitVec 7) : Statement (.slda d a x m) := by
  intro hw u h
  obtain rfl : encM 0x30 d a x m = u := Option.some.inj h
  obtain ⟨hM, h0, h1, h2, h3⟩ := encM_fields 0x30 (by decide) d a x m
  refine decode_of_shape ?_ hw (nonzero_of_major hM (by decide))
  · rw [decodeShape_30 hM, h0, h1, h2, h3]
    simp [shape30]

theorem ssta (d : BitVec 7) (a : BitVec 4) (x : BitVec 7) (m : BitVec 7) : Statement (.ssta d a x m) := by
  intro hw u h
  obtain rfl : encM 0x31 d a x m = u := Option.some.inj h
  obtain ⟨hM, h0, h1, h2, h3⟩ := encM_fields 0x31 (by decide) d a x m
  refine decode_of_shape ?_ hw (nonzero_of_major hM (by decide))
  · rw [decodeShape_31 hM, h0, h1, h2, h3]
    simp [shape31]

theorem lds (d : BitVec 7) (x : BitVec 7) (m : BitVec 7) : Statement (.lds d x m) := by
  intro hw u h
  obtain rfl : encM 0x32 d 0#4 x m = u := Option.some.inj h
  obtain ⟨hM, h0, h1, h2, h3⟩ := encM_fields 0x32 (by decide) d 0#4 x m
  refine decode_of_shape ?_ hw (nonzero_of_major hM (by decide))
  · rw [decodeShape_32 hM, h0, h1, h2, h3]
    simp [shape32]

theorem sts (d : BitVec 7) (x : BitVec 7) (m : BitVec 7) : Statement (.sts d x m) := by
  intro hw u h
  obtain rfl : encM 0x32 d 1#4 x m = u := Option.some.inj h
  obtain ⟨hM, h0, h1, h2, h3⟩ := encM_fields 0x32 (by decide) d 1#4 x m
  refine decode_of_shape ?_ hw (nonzero_of_major hM (by decide))
  · rw [decodeShape_32 hM, h0, h1, h2, h3]
    simp [shape32]

theorem slds (d : BitVec 7) (x : BitVec 7) (m : BitVec 7) : Statement (.slds d x m) := by
  intro hw u h
  obtain rfl : encM 0x32 d 2#4 x m = u := Option.some.inj h
  obtain ⟨hM, h0, h1, h2, h3⟩ := encM_fields 0x32 (by decide) d 2#4 x m
  refine decode_of_shape ?_ hw (nonzero_of_major hM (by decide))
  · rw [decodeShape_32 hM, h0, h1, h2, h3]
    simp [shape32]

theorem ssts (d : BitVec 7) (x : BitVec 7) (m : BitVec 7) : Statement (.ssts d x m) := by
  intro hw u h
  obtain rfl : encM 0x32 d 3#4 x m = u := Option.some.inj h
  obtain ⟨hM, h0, h1, h2, h3⟩ := encM_fields 0x32 (by decide) d 3#4 x m
  refine decode_of_shape ?_ hw (nonzero_of_major hM (by decide))
  · rw [decodeShape_32 hM, h0, h1, h2, h3]
    simp [shape32]

theorem vspill (d : BitVec 7) (a : BitVec 7) : Statement (.vspill d a) := by
  intro hw u h
  obtain rfl : encX 0x33 d a 0#11 = u := Option.some.inj h
  obtain ⟨hM, h0, h1, h2⟩ := encX_fields 0x33 (by decide) d a 0#11
  refine decode_of_shape ?_ hw (nonzero_of_major hM (by decide))
  · rw [decodeShape_33 hM, h0, h1, h2]
    simp [shape33]

theorem vfill (d : BitVec 7) (a : BitVec 7) : Statement (.vfill d a) := by
  intro hw u h
  obtain rfl : encX 0x33 d a 1#11 = u := Option.some.inj h
  obtain ⟨hM, h0, h1, h2⟩ := encX_fields 0x33 (by decide) d a 1#11
  refine decode_of_shape ?_ hw (nonzero_of_major hM (by decide))
  · rw [decodeShape_33 hM, h0, h1, h2]
    simp [shape33]

theorem sspill (d : BitVec 7) (a : BitVec 7) : Statement (.sspill d a) := by
  intro hw u h
  obtain rfl : encX 0x33 d a 2#11 = u := Option.some.inj h
  obtain ⟨hM, h0, h1, h2⟩ := encX_fields 0x33 (by decide) d a 2#11
  refine decode_of_shape ?_ hw (nonzero_of_major hM (by decide))
  · rw [decodeShape_33 hM, h0, h1, h2]
    simp [shape33]

theorem sfill (d : BitVec 7) (a : BitVec 7) : Statement (.sfill d a) := by
  intro hw u h
  obtain rfl : encX 0x33 d a 3#11 = u := Option.some.inj h
  obtain ⟨hM, h0, h1, h2⟩ := encX_fields 0x33 (by decide) d a 3#11
  refine decode_of_shape ?_ hw (nonzero_of_major hM (by decide))
  · rw [decodeShape_33 hM, h0, h1, h2]
    simp [shape33]

theorem abind (d : BitVec 4) (a : BitVec 7) : Statement (.abind d a) := by
  intro hw u h
  obtain rfl : encX 0x33 (BitVec.ofNat 7 (d.toNat)) a 16#11 = u := Option.some.inj h
  obtain ⟨hM, h0, h1, h2⟩ := encX_fields 0x33 (by decide) (BitVec.ofNat 7 (d.toNat)) a 16#11
  refine decode_of_shape ?_ hw (nonzero_of_major hM (by decide))
  · rw [decodeShape_33 hM, h0, h1, h2]
    have := d.isLt
    simp [shape33, -BitVec.ofNat_toNat, (show field (BitVec.ofNat 7 (d.toNat)) 4 3 = 0#3 from field_eq _ _ _ (by simp <;> omega)), (show field (BitVec.ofNat 7 (d.toNat)) 0 4 = d from field_eq _ _ _ (by simp <;> omega))]

theorem abinds (d : BitVec 4) (a : BitVec 7) : Statement (.abinds d a) := by
  intro hw u h
  obtain rfl : encX 0x33 (BitVec.ofNat 7 (d.toNat)) a 17#11 = u := Option.some.inj h
  obtain ⟨hM, h0, h1, h2⟩ := encX_fields 0x33 (by decide) (BitVec.ofNat 7 (d.toNat)) a 17#11
  refine decode_of_shape ?_ hw (nonzero_of_major hM (by decide))
  · rw [decodeShape_33 hM, h0, h1, h2]
    have := d.isLt
    simp [shape33, -BitVec.ofNat_toNat, (show field (BitVec.ofNat 7 (d.toNat)) 4 3 = 0#3 from field_eq _ _ _ (by simp <;> omega)), (show field (BitVec.ofNat 7 (d.toNat)) 0 4 = d from field_eq _ _ _ (by simp <;> omega))]

theorem aqry (d : BitVec 7) (k : BitVec 4) (f : BitVec 3) : Statement (.aqry d k f) := by
  intro hw u h
  obtain rfl : encX 0x33 d (BitVec.ofNat 7 (k.toNat * 8 + f.toNat)) 18#11 = u := Option.some.inj h
  obtain ⟨hM, h0, h1, h2⟩ := encX_fields 0x33 (by decide) d (BitVec.ofNat 7 (k.toNat * 8 + f.toNat)) 18#11
  refine decode_of_shape ?_ hw (nonzero_of_major hM (by decide))
  · rw [decodeShape_33 hM, h0, h1, h2]
    have := k.isLt; have := f.isLt
    simp [shape33, -BitVec.ofNat_toNat, (show field (BitVec.ofNat 7 (k.toNat * 8 + f.toNat)) 3 4 = k from field_eq _ _ _ (by simp <;> omega)), (show field (BitVec.ofNat 7 (k.toNat * 8 + f.toNat)) 0 3 = f from field_eq _ _ _ (by simp <;> omega))]

theorem aaddVg (d : BitVec 7) (a : BitVec 4) (x : BitVec 7) (r : BitVec 2) : Statement (.aaddVg d a x r) := by
  intro hw u h
  obtain rfl : encM 0x34 d a x (BitVec.ofNat 7 (r.toNat * 2)) = u := Option.some.inj h
  obtain ⟨hM, h0, h1, h2, h3⟩ := encM_fields 0x34 (by decide) d a x (BitVec.ofNat 7 (r.toNat * 2))
  refine decode_of_shape ?_ hw (nonzero_of_major hM (by decide))
  · rw [decodeShape_34 hM, h0, h1, h2, h3]
    have := a.isLt; have := r.isLt
    simp [shape34, -BitVec.ofNat_toNat, (show field (BitVec.ofNat 7 (r.toNat * 2)) 3 4 = 0#4 from field_eq _ _ _ (by simp <;> omega)), (show field (BitVec.ofNat 7 (r.toNat * 2)) 0 1 = 0#1 from field_eq _ _ _ (by simp <;> omega)), (show field (BitVec.ofNat 7 (r.toNat * 2)) 1 2 = r from field_eq _ _ _ (by simp <;> omega))]

theorem aaddfVg (d : BitVec 7) (a : BitVec 4) (x : BitVec 7) (r : BitVec 2) : Statement (.aaddfVg d a x r) := by
  intro hw u h
  obtain rfl : encM 0x34 d a x (BitVec.ofNat 7 (8 + r.toNat * 2)) = u := Option.some.inj h
  obtain ⟨hM, h0, h1, h2, h3⟩ := encM_fields 0x34 (by decide) d a x (BitVec.ofNat 7 (8 + r.toNat * 2))
  refine decode_of_shape ?_ hw (nonzero_of_major hM (by decide))
  · rw [decodeShape_34 hM, h0, h1, h2, h3]
    have := a.isLt; have := r.isLt
    simp [shape34, -BitVec.ofNat_toNat, (show field (BitVec.ofNat 7 (8 + r.toNat * 2)) 3 4 = 1#4 from field_eq _ _ _ (by simp <;> omega)), (show field (BitVec.ofNat 7 (8 + r.toNat * 2)) 0 1 = 0#1 from field_eq _ _ _ (by simp <;> omega)), (show field (BitVec.ofNat 7 (8 + r.toNat * 2)) 1 2 = r from field_eq _ _ _ (by simp <;> omega))]

theorem aminVg (d : BitVec 7) (a : BitVec 4) (x : BitVec 7) (r : BitVec 2) : Statement (.aminVg d a x r) := by
  intro hw u h
  obtain rfl : encM 0x34 d a x (BitVec.ofNat 7 (16 + r.toNat * 2)) = u := Option.some.inj h
  obtain ⟨hM, h0, h1, h2, h3⟩ := encM_fields 0x34 (by decide) d a x (BitVec.ofNat 7 (16 + r.toNat * 2))
  refine decode_of_shape ?_ hw (nonzero_of_major hM (by decide))
  · rw [decodeShape_34 hM, h0, h1, h2, h3]
    have := a.isLt; have := r.isLt
    simp [shape34, -BitVec.ofNat_toNat, (show field (BitVec.ofNat 7 (16 + r.toNat * 2)) 3 4 = 2#4 from field_eq _ _ _ (by simp <;> omega)), (show field (BitVec.ofNat 7 (16 + r.toNat * 2)) 0 1 = 0#1 from field_eq _ _ _ (by simp <;> omega)), (show field (BitVec.ofNat 7 (16 + r.toNat * 2)) 1 2 = r from field_eq _ _ _ (by simp <;> omega))]

theorem amaxVg (d : BitVec 7) (a : BitVec 4) (x : BitVec 7) (r : BitVec 2) : Statement (.amaxVg d a x r) := by
  intro hw u h
  obtain rfl : encM 0x34 d a x (BitVec.ofNat 7 (24 + r.toNat * 2)) = u := Option.some.inj h
  obtain ⟨hM, h0, h1, h2, h3⟩ := encM_fields 0x34 (by decide) d a x (BitVec.ofNat 7 (24 + r.toNat * 2))
  refine decode_of_shape ?_ hw (nonzero_of_major hM (by decide))
  · rw [decodeShape_34 hM, h0, h1, h2, h3]
    have := a.isLt; have := r.isLt
    simp [shape34, -BitVec.ofNat_toNat, (show field (BitVec.ofNat 7 (24 + r.toNat * 2)) 3 4 = 3#4 from field_eq _ _ _ (by simp <;> omega)), (show field (BitVec.ofNat 7 (24 + r.toNat * 2)) 0 1 = 0#1 from field_eq _ _ _ (by simp <;> omega)), (show field (BitVec.ofNat 7 (24 + r.toNat * 2)) 1 2 = r from field_eq _ _ _ (by simp <;> omega))]

theorem aminuVg (d : BitVec 7) (a : BitVec 4) (x : BitVec 7) (r : BitVec 2) : Statement (.aminuVg d a x r) := by
  intro hw u h
  obtain rfl : encM 0x34 d a x (BitVec.ofNat 7 (32 + r.toNat * 2)) = u := Option.some.inj h
  obtain ⟨hM, h0, h1, h2, h3⟩ := encM_fields 0x34 (by decide) d a x (BitVec.ofNat 7 (32 + r.toNat * 2))
  refine decode_of_shape ?_ hw (nonzero_of_major hM (by decide))
  · rw [decodeShape_34 hM, h0, h1, h2, h3]
    have := a.isLt; have := r.isLt
    simp [shape34, -BitVec.ofNat_toNat, (show field (BitVec.ofNat 7 (32 + r.toNat * 2)) 3 4 = 4#4 from field_eq _ _ _ (by simp <;> omega)), (show field (BitVec.ofNat 7 (32 + r.toNat * 2)) 0 1 = 0#1 from field_eq _ _ _ (by simp <;> omega)), (show field (BitVec.ofNat 7 (32 + r.toNat * 2)) 1 2 = r from field_eq _ _ _ (by simp <;> omega))]

theorem amaxuVg (d : BitVec 7) (a : BitVec 4) (x : BitVec 7) (r : BitVec 2) : Statement (.amaxuVg d a x r) := by
  intro hw u h
  obtain rfl : encM 0x34 d a x (BitVec.ofNat 7 (40 + r.toNat * 2)) = u := Option.some.inj h
  obtain ⟨hM, h0, h1, h2, h3⟩ := encM_fields 0x34 (by decide) d a x (BitVec.ofNat 7 (40 + r.toNat * 2))
  refine decode_of_shape ?_ hw (nonzero_of_major hM (by decide))
  · rw [decodeShape_34 hM, h0, h1, h2, h3]
    have := a.isLt; have := r.isLt
    simp [shape34, -BitVec.ofNat_toNat, (show field (BitVec.ofNat 7 (40 + r.toNat * 2)) 3 4 = 5#4 from field_eq _ _ _ (by simp <;> omega)), (show field (BitVec.ofNat 7 (40 + r.toNat * 2)) 0 1 = 0#1 from field_eq _ _ _ (by simp <;> omega)), (show field (BitVec.ofNat 7 (40 + r.toNat * 2)) 1 2 = r from field_eq _ _ _ (by simp <;> omega))]

theorem aandVg (d : BitVec 7) (a : BitVec 4) (x : BitVec 7) (r : BitVec 2) : Statement (.aandVg d a x r) := by
  intro hw u h
  obtain rfl : encM 0x34 d a x (BitVec.ofNat 7 (48 + r.toNat * 2)) = u := Option.some.inj h
  obtain ⟨hM, h0, h1, h2, h3⟩ := encM_fields 0x34 (by decide) d a x (BitVec.ofNat 7 (48 + r.toNat * 2))
  refine decode_of_shape ?_ hw (nonzero_of_major hM (by decide))
  · rw [decodeShape_34 hM, h0, h1, h2, h3]
    have := a.isLt; have := r.isLt
    simp [shape34, -BitVec.ofNat_toNat, (show field (BitVec.ofNat 7 (48 + r.toNat * 2)) 3 4 = 6#4 from field_eq _ _ _ (by simp <;> omega)), (show field (BitVec.ofNat 7 (48 + r.toNat * 2)) 0 1 = 0#1 from field_eq _ _ _ (by simp <;> omega)), (show field (BitVec.ofNat 7 (48 + r.toNat * 2)) 1 2 = r from field_eq _ _ _ (by simp <;> omega))]

theorem aorVg (d : BitVec 7) (a : BitVec 4) (x : BitVec 7) (r : BitVec 2) : Statement (.aorVg d a x r) := by
  intro hw u h
  obtain rfl : encM 0x34 d a x (BitVec.ofNat 7 (56 + r.toNat * 2)) = u := Option.some.inj h
  obtain ⟨hM, h0, h1, h2, h3⟩ := encM_fields 0x34 (by decide) d a x (BitVec.ofNat 7 (56 + r.toNat * 2))
  refine decode_of_shape ?_ hw (nonzero_of_major hM (by decide))
  · rw [decodeShape_34 hM, h0, h1, h2, h3]
    have := a.isLt; have := r.isLt
    simp [shape34, -BitVec.ofNat_toNat, (show field (BitVec.ofNat 7 (56 + r.toNat * 2)) 3 4 = 7#4 from field_eq _ _ _ (by simp <;> omega)), (show field (BitVec.ofNat 7 (56 + r.toNat * 2)) 0 1 = 0#1 from field_eq _ _ _ (by simp <;> omega)), (show field (BitVec.ofNat 7 (56 + r.toNat * 2)) 1 2 = r from field_eq _ _ _ (by simp <;> omega))]

theorem axorVg (d : BitVec 7) (a : BitVec 4) (x : BitVec 7) (r : BitVec 2) : Statement (.axorVg d a x r) := by
  intro hw u h
  obtain rfl : encM 0x34 d a x (BitVec.ofNat 7 (64 + r.toNat * 2)) = u := Option.some.inj h
  obtain ⟨hM, h0, h1, h2, h3⟩ := encM_fields 0x34 (by decide) d a x (BitVec.ofNat 7 (64 + r.toNat * 2))
  refine decode_of_shape ?_ hw (nonzero_of_major hM (by decide))
  · rw [decodeShape_34 hM, h0, h1, h2, h3]
    have := a.isLt; have := r.isLt
    simp [shape34, -BitVec.ofNat_toNat, (show field (BitVec.ofNat 7 (64 + r.toNat * 2)) 3 4 = 8#4 from field_eq _ _ _ (by simp <;> omega)), (show field (BitVec.ofNat 7 (64 + r.toNat * 2)) 0 1 = 0#1 from field_eq _ _ _ (by simp <;> omega)), (show field (BitVec.ofNat 7 (64 + r.toNat * 2)) 1 2 = r from field_eq _ _ _ (by simp <;> omega))]

theorem axchVg (d : BitVec 7) (a : BitVec 4) (x : BitVec 7) (r : BitVec 2) : Statement (.axchVg d a x r) := by
  intro hw u h
  obtain rfl : encM 0x34 d a x (BitVec.ofNat 7 (72 + r.toNat * 2)) = u := Option.some.inj h
  obtain ⟨hM, h0, h1, h2, h3⟩ := encM_fields 0x34 (by decide) d a x (BitVec.ofNat 7 (72 + r.toNat * 2))
  refine decode_of_shape ?_ hw (nonzero_of_major hM (by decide))
  · rw [decodeShape_34 hM, h0, h1, h2, h3]
    have := a.isLt; have := r.isLt
    simp [shape34, -BitVec.ofNat_toNat, (show field (BitVec.ofNat 7 (72 + r.toNat * 2)) 3 4 = 9#4 from field_eq _ _ _ (by simp <;> omega)), (show field (BitVec.ofNat 7 (72 + r.toNat * 2)) 0 1 = 0#1 from field_eq _ _ _ (by simp <;> omega)), (show field (BitVec.ofNat 7 (72 + r.toNat * 2)) 1 2 = r from field_eq _ _ _ (by simp <;> omega))]

theorem acasVg (d : BitVec 7) (a : BitVec 4) (x : BitVec 7) (r : BitVec 2) : Statement (.acasVg d a x r) := by
  intro hw u h
  obtain rfl : encM 0x34 d a x (BitVec.ofNat 7 (80 + r.toNat * 2)) = u := Option.some.inj h
  obtain ⟨hM, h0, h1, h2, h3⟩ := encM_fields 0x34 (by decide) d a x (BitVec.ofNat 7 (80 + r.toNat * 2))
  refine decode_of_shape ?_ hw (nonzero_of_major hM (by decide))
  · rw [decodeShape_34 hM, h0, h1, h2, h3]
    have := a.isLt; have := r.isLt
    simp [shape34, -BitVec.ofNat_toNat, (show field (BitVec.ofNat 7 (80 + r.toNat * 2)) 3 4 = 10#4 from field_eq _ _ _ (by simp <;> omega)), (show field (BitVec.ofNat 7 (80 + r.toNat * 2)) 0 1 = 0#1 from field_eq _ _ _ (by simp <;> omega)), (show field (BitVec.ofNat 7 (80 + r.toNat * 2)) 1 2 = r from field_eq _ _ _ (by simp <;> omega))]

theorem aappVg (d : BitVec 7) (a : BitVec 4) (x : BitVec 7) (r : BitVec 2) : Statement (.aappVg d a x r) := by
  intro hw u h
  obtain rfl : encM 0x34 d a x (BitVec.ofNat 7 (88 + r.toNat * 2)) = u := Option.some.inj h
  obtain ⟨hM, h0, h1, h2, h3⟩ := encM_fields 0x34 (by decide) d a x (BitVec.ofNat 7 (88 + r.toNat * 2))
  refine decode_of_shape ?_ hw (nonzero_of_major hM (by decide))
  · rw [decodeShape_34 hM, h0, h1, h2, h3]
    have := a.isLt; have := r.isLt
    simp [shape34, -BitVec.ofNat_toNat, (show field (BitVec.ofNat 7 (88 + r.toNat * 2)) 3 4 = 11#4 from field_eq _ _ _ (by simp <;> omega)), (show field (BitVec.ofNat 7 (88 + r.toNat * 2)) 0 1 = 0#1 from field_eq _ _ _ (by simp <;> omega)), (show field (BitVec.ofNat 7 (88 + r.toNat * 2)) 1 2 = r from field_eq _ _ _ (by simp <;> omega))]

theorem aaddSg (d : BitVec 7) (a : BitVec 4) (x : BitVec 7) (r : BitVec 2) : Statement (.aaddSg d a x r) := by
  intro hw u h
  obtain rfl : encM 0x35 d a x (BitVec.ofNat 7 (r.toNat * 2)) = u := Option.some.inj h
  obtain ⟨hM, h0, h1, h2, h3⟩ := encM_fields 0x35 (by decide) d a x (BitVec.ofNat 7 (r.toNat * 2))
  refine decode_of_shape ?_ hw (nonzero_of_major hM (by decide))
  · rw [decodeShape_35 hM, h0, h1, h2, h3]
    have := a.isLt; have := r.isLt
    simp [shape35, -BitVec.ofNat_toNat, (show field (BitVec.ofNat 7 (r.toNat * 2)) 3 4 = 0#4 from field_eq _ _ _ (by simp <;> omega)), (show field (BitVec.ofNat 7 (r.toNat * 2)) 0 1 = 0#1 from field_eq _ _ _ (by simp <;> omega)), (show field (BitVec.ofNat 7 (r.toNat * 2)) 1 2 = r from field_eq _ _ _ (by simp <;> omega))]

theorem aaddfSg (d : BitVec 7) (a : BitVec 4) (x : BitVec 7) (r : BitVec 2) : Statement (.aaddfSg d a x r) := by
  intro hw u h
  obtain rfl : encM 0x35 d a x (BitVec.ofNat 7 (8 + r.toNat * 2)) = u := Option.some.inj h
  obtain ⟨hM, h0, h1, h2, h3⟩ := encM_fields 0x35 (by decide) d a x (BitVec.ofNat 7 (8 + r.toNat * 2))
  refine decode_of_shape ?_ hw (nonzero_of_major hM (by decide))
  · rw [decodeShape_35 hM, h0, h1, h2, h3]
    have := a.isLt; have := r.isLt
    simp [shape35, -BitVec.ofNat_toNat, (show field (BitVec.ofNat 7 (8 + r.toNat * 2)) 3 4 = 1#4 from field_eq _ _ _ (by simp <;> omega)), (show field (BitVec.ofNat 7 (8 + r.toNat * 2)) 0 1 = 0#1 from field_eq _ _ _ (by simp <;> omega)), (show field (BitVec.ofNat 7 (8 + r.toNat * 2)) 1 2 = r from field_eq _ _ _ (by simp <;> omega))]

theorem aminSg (d : BitVec 7) (a : BitVec 4) (x : BitVec 7) (r : BitVec 2) : Statement (.aminSg d a x r) := by
  intro hw u h
  obtain rfl : encM 0x35 d a x (BitVec.ofNat 7 (16 + r.toNat * 2)) = u := Option.some.inj h
  obtain ⟨hM, h0, h1, h2, h3⟩ := encM_fields 0x35 (by decide) d a x (BitVec.ofNat 7 (16 + r.toNat * 2))
  refine decode_of_shape ?_ hw (nonzero_of_major hM (by decide))
  · rw [decodeShape_35 hM, h0, h1, h2, h3]
    have := a.isLt; have := r.isLt
    simp [shape35, -BitVec.ofNat_toNat, (show field (BitVec.ofNat 7 (16 + r.toNat * 2)) 3 4 = 2#4 from field_eq _ _ _ (by simp <;> omega)), (show field (BitVec.ofNat 7 (16 + r.toNat * 2)) 0 1 = 0#1 from field_eq _ _ _ (by simp <;> omega)), (show field (BitVec.ofNat 7 (16 + r.toNat * 2)) 1 2 = r from field_eq _ _ _ (by simp <;> omega))]

theorem amaxSg (d : BitVec 7) (a : BitVec 4) (x : BitVec 7) (r : BitVec 2) : Statement (.amaxSg d a x r) := by
  intro hw u h
  obtain rfl : encM 0x35 d a x (BitVec.ofNat 7 (24 + r.toNat * 2)) = u := Option.some.inj h
  obtain ⟨hM, h0, h1, h2, h3⟩ := encM_fields 0x35 (by decide) d a x (BitVec.ofNat 7 (24 + r.toNat * 2))
  refine decode_of_shape ?_ hw (nonzero_of_major hM (by decide))
  · rw [decodeShape_35 hM, h0, h1, h2, h3]
    have := a.isLt; have := r.isLt
    simp [shape35, -BitVec.ofNat_toNat, (show field (BitVec.ofNat 7 (24 + r.toNat * 2)) 3 4 = 3#4 from field_eq _ _ _ (by simp <;> omega)), (show field (BitVec.ofNat 7 (24 + r.toNat * 2)) 0 1 = 0#1 from field_eq _ _ _ (by simp <;> omega)), (show field (BitVec.ofNat 7 (24 + r.toNat * 2)) 1 2 = r from field_eq _ _ _ (by simp <;> omega))]

theorem aminuSg (d : BitVec 7) (a : BitVec 4) (x : BitVec 7) (r : BitVec 2) : Statement (.aminuSg d a x r) := by
  intro hw u h
  obtain rfl : encM 0x35 d a x (BitVec.ofNat 7 (32 + r.toNat * 2)) = u := Option.some.inj h
  obtain ⟨hM, h0, h1, h2, h3⟩ := encM_fields 0x35 (by decide) d a x (BitVec.ofNat 7 (32 + r.toNat * 2))
  refine decode_of_shape ?_ hw (nonzero_of_major hM (by decide))
  · rw [decodeShape_35 hM, h0, h1, h2, h3]
    have := a.isLt; have := r.isLt
    simp [shape35, -BitVec.ofNat_toNat, (show field (BitVec.ofNat 7 (32 + r.toNat * 2)) 3 4 = 4#4 from field_eq _ _ _ (by simp <;> omega)), (show field (BitVec.ofNat 7 (32 + r.toNat * 2)) 0 1 = 0#1 from field_eq _ _ _ (by simp <;> omega)), (show field (BitVec.ofNat 7 (32 + r.toNat * 2)) 1 2 = r from field_eq _ _ _ (by simp <;> omega))]

theorem amaxuSg (d : BitVec 7) (a : BitVec 4) (x : BitVec 7) (r : BitVec 2) : Statement (.amaxuSg d a x r) := by
  intro hw u h
  obtain rfl : encM 0x35 d a x (BitVec.ofNat 7 (40 + r.toNat * 2)) = u := Option.some.inj h
  obtain ⟨hM, h0, h1, h2, h3⟩ := encM_fields 0x35 (by decide) d a x (BitVec.ofNat 7 (40 + r.toNat * 2))
  refine decode_of_shape ?_ hw (nonzero_of_major hM (by decide))
  · rw [decodeShape_35 hM, h0, h1, h2, h3]
    have := a.isLt; have := r.isLt
    simp [shape35, -BitVec.ofNat_toNat, (show field (BitVec.ofNat 7 (40 + r.toNat * 2)) 3 4 = 5#4 from field_eq _ _ _ (by simp <;> omega)), (show field (BitVec.ofNat 7 (40 + r.toNat * 2)) 0 1 = 0#1 from field_eq _ _ _ (by simp <;> omega)), (show field (BitVec.ofNat 7 (40 + r.toNat * 2)) 1 2 = r from field_eq _ _ _ (by simp <;> omega))]

theorem aandSg (d : BitVec 7) (a : BitVec 4) (x : BitVec 7) (r : BitVec 2) : Statement (.aandSg d a x r) := by
  intro hw u h
  obtain rfl : encM 0x35 d a x (BitVec.ofNat 7 (48 + r.toNat * 2)) = u := Option.some.inj h
  obtain ⟨hM, h0, h1, h2, h3⟩ := encM_fields 0x35 (by decide) d a x (BitVec.ofNat 7 (48 + r.toNat * 2))
  refine decode_of_shape ?_ hw (nonzero_of_major hM (by decide))
  · rw [decodeShape_35 hM, h0, h1, h2, h3]
    have := a.isLt; have := r.isLt
    simp [shape35, -BitVec.ofNat_toNat, (show field (BitVec.ofNat 7 (48 + r.toNat * 2)) 3 4 = 6#4 from field_eq _ _ _ (by simp <;> omega)), (show field (BitVec.ofNat 7 (48 + r.toNat * 2)) 0 1 = 0#1 from field_eq _ _ _ (by simp <;> omega)), (show field (BitVec.ofNat 7 (48 + r.toNat * 2)) 1 2 = r from field_eq _ _ _ (by simp <;> omega))]

theorem aorSg (d : BitVec 7) (a : BitVec 4) (x : BitVec 7) (r : BitVec 2) : Statement (.aorSg d a x r) := by
  intro hw u h
  obtain rfl : encM 0x35 d a x (BitVec.ofNat 7 (56 + r.toNat * 2)) = u := Option.some.inj h
  obtain ⟨hM, h0, h1, h2, h3⟩ := encM_fields 0x35 (by decide) d a x (BitVec.ofNat 7 (56 + r.toNat * 2))
  refine decode_of_shape ?_ hw (nonzero_of_major hM (by decide))
  · rw [decodeShape_35 hM, h0, h1, h2, h3]
    have := a.isLt; have := r.isLt
    simp [shape35, -BitVec.ofNat_toNat, (show field (BitVec.ofNat 7 (56 + r.toNat * 2)) 3 4 = 7#4 from field_eq _ _ _ (by simp <;> omega)), (show field (BitVec.ofNat 7 (56 + r.toNat * 2)) 0 1 = 0#1 from field_eq _ _ _ (by simp <;> omega)), (show field (BitVec.ofNat 7 (56 + r.toNat * 2)) 1 2 = r from field_eq _ _ _ (by simp <;> omega))]

theorem axorSg (d : BitVec 7) (a : BitVec 4) (x : BitVec 7) (r : BitVec 2) : Statement (.axorSg d a x r) := by
  intro hw u h
  obtain rfl : encM 0x35 d a x (BitVec.ofNat 7 (64 + r.toNat * 2)) = u := Option.some.inj h
  obtain ⟨hM, h0, h1, h2, h3⟩ := encM_fields 0x35 (by decide) d a x (BitVec.ofNat 7 (64 + r.toNat * 2))
  refine decode_of_shape ?_ hw (nonzero_of_major hM (by decide))
  · rw [decodeShape_35 hM, h0, h1, h2, h3]
    have := a.isLt; have := r.isLt
    simp [shape35, -BitVec.ofNat_toNat, (show field (BitVec.ofNat 7 (64 + r.toNat * 2)) 3 4 = 8#4 from field_eq _ _ _ (by simp <;> omega)), (show field (BitVec.ofNat 7 (64 + r.toNat * 2)) 0 1 = 0#1 from field_eq _ _ _ (by simp <;> omega)), (show field (BitVec.ofNat 7 (64 + r.toNat * 2)) 1 2 = r from field_eq _ _ _ (by simp <;> omega))]

theorem axchSg (d : BitVec 7) (a : BitVec 4) (x : BitVec 7) (r : BitVec 2) : Statement (.axchSg d a x r) := by
  intro hw u h
  obtain rfl : encM 0x35 d a x (BitVec.ofNat 7 (72 + r.toNat * 2)) = u := Option.some.inj h
  obtain ⟨hM, h0, h1, h2, h3⟩ := encM_fields 0x35 (by decide) d a x (BitVec.ofNat 7 (72 + r.toNat * 2))
  refine decode_of_shape ?_ hw (nonzero_of_major hM (by decide))
  · rw [decodeShape_35 hM, h0, h1, h2, h3]
    have := a.isLt; have := r.isLt
    simp [shape35, -BitVec.ofNat_toNat, (show field (BitVec.ofNat 7 (72 + r.toNat * 2)) 3 4 = 9#4 from field_eq _ _ _ (by simp <;> omega)), (show field (BitVec.ofNat 7 (72 + r.toNat * 2)) 0 1 = 0#1 from field_eq _ _ _ (by simp <;> omega)), (show field (BitVec.ofNat 7 (72 + r.toNat * 2)) 1 2 = r from field_eq _ _ _ (by simp <;> omega))]

theorem acasSg (d : BitVec 7) (a : BitVec 4) (x : BitVec 7) (r : BitVec 2) : Statement (.acasSg d a x r) := by
  intro hw u h
  obtain rfl : encM 0x35 d a x (BitVec.ofNat 7 (80 + r.toNat * 2)) = u := Option.some.inj h
  obtain ⟨hM, h0, h1, h2, h3⟩ := encM_fields 0x35 (by decide) d a x (BitVec.ofNat 7 (80 + r.toNat * 2))
  refine decode_of_shape ?_ hw (nonzero_of_major hM (by decide))
  · rw [decodeShape_35 hM, h0, h1, h2, h3]
    have := a.isLt; have := r.isLt
    simp [shape35, -BitVec.ofNat_toNat, (show field (BitVec.ofNat 7 (80 + r.toNat * 2)) 3 4 = 10#4 from field_eq _ _ _ (by simp <;> omega)), (show field (BitVec.ofNat 7 (80 + r.toNat * 2)) 0 1 = 0#1 from field_eq _ _ _ (by simp <;> omega)), (show field (BitVec.ofNat 7 (80 + r.toNat * 2)) 1 2 = r from field_eq _ _ _ (by simp <;> omega))]

theorem aaddVs (d : BitVec 7) (x : BitVec 7) (r : BitVec 2) : Statement (.aaddVs d x r) := by
  intro hw u h
  obtain rfl : encM 0x36 d 0#4 x (BitVec.ofNat 7 (r.toNat * 2)) = u := Option.some.inj h
  obtain ⟨hM, h0, h1, h2, h3⟩ := encM_fields 0x36 (by decide) d 0#4 x (BitVec.ofNat 7 (r.toNat * 2))
  refine decode_of_shape ?_ hw (nonzero_of_major hM (by decide))
  · rw [decodeShape_36 hM, h0, h1, h2, h3]
    have := r.isLt
    simp [shape36, -BitVec.ofNat_toNat, (show field (BitVec.ofNat 7 (r.toNat * 2)) 3 4 = 0#4 from field_eq _ _ _ (by simp <;> omega)), (show field (BitVec.ofNat 7 (r.toNat * 2)) 0 1 = 0#1 from field_eq _ _ _ (by simp <;> omega)), (show field (BitVec.ofNat 7 (r.toNat * 2)) 1 2 = r from field_eq _ _ _ (by simp <;> omega))]

theorem aaddfVs (d : BitVec 7) (x : BitVec 7) (r : BitVec 2) : Statement (.aaddfVs d x r) := by
  intro hw u h
  obtain rfl : encM 0x36 d 0#4 x (BitVec.ofNat 7 (8 + r.toNat * 2)) = u := Option.some.inj h
  obtain ⟨hM, h0, h1, h2, h3⟩ := encM_fields 0x36 (by decide) d 0#4 x (BitVec.ofNat 7 (8 + r.toNat * 2))
  refine decode_of_shape ?_ hw (nonzero_of_major hM (by decide))
  · rw [decodeShape_36 hM, h0, h1, h2, h3]
    have := r.isLt
    simp [shape36, -BitVec.ofNat_toNat, (show field (BitVec.ofNat 7 (8 + r.toNat * 2)) 3 4 = 1#4 from field_eq _ _ _ (by simp <;> omega)), (show field (BitVec.ofNat 7 (8 + r.toNat * 2)) 0 1 = 0#1 from field_eq _ _ _ (by simp <;> omega)), (show field (BitVec.ofNat 7 (8 + r.toNat * 2)) 1 2 = r from field_eq _ _ _ (by simp <;> omega))]

theorem aminVs (d : BitVec 7) (x : BitVec 7) (r : BitVec 2) : Statement (.aminVs d x r) := by
  intro hw u h
  obtain rfl : encM 0x36 d 0#4 x (BitVec.ofNat 7 (16 + r.toNat * 2)) = u := Option.some.inj h
  obtain ⟨hM, h0, h1, h2, h3⟩ := encM_fields 0x36 (by decide) d 0#4 x (BitVec.ofNat 7 (16 + r.toNat * 2))
  refine decode_of_shape ?_ hw (nonzero_of_major hM (by decide))
  · rw [decodeShape_36 hM, h0, h1, h2, h3]
    have := r.isLt
    simp [shape36, -BitVec.ofNat_toNat, (show field (BitVec.ofNat 7 (16 + r.toNat * 2)) 3 4 = 2#4 from field_eq _ _ _ (by simp <;> omega)), (show field (BitVec.ofNat 7 (16 + r.toNat * 2)) 0 1 = 0#1 from field_eq _ _ _ (by simp <;> omega)), (show field (BitVec.ofNat 7 (16 + r.toNat * 2)) 1 2 = r from field_eq _ _ _ (by simp <;> omega))]

theorem amaxVs (d : BitVec 7) (x : BitVec 7) (r : BitVec 2) : Statement (.amaxVs d x r) := by
  intro hw u h
  obtain rfl : encM 0x36 d 0#4 x (BitVec.ofNat 7 (24 + r.toNat * 2)) = u := Option.some.inj h
  obtain ⟨hM, h0, h1, h2, h3⟩ := encM_fields 0x36 (by decide) d 0#4 x (BitVec.ofNat 7 (24 + r.toNat * 2))
  refine decode_of_shape ?_ hw (nonzero_of_major hM (by decide))
  · rw [decodeShape_36 hM, h0, h1, h2, h3]
    have := r.isLt
    simp [shape36, -BitVec.ofNat_toNat, (show field (BitVec.ofNat 7 (24 + r.toNat * 2)) 3 4 = 3#4 from field_eq _ _ _ (by simp <;> omega)), (show field (BitVec.ofNat 7 (24 + r.toNat * 2)) 0 1 = 0#1 from field_eq _ _ _ (by simp <;> omega)), (show field (BitVec.ofNat 7 (24 + r.toNat * 2)) 1 2 = r from field_eq _ _ _ (by simp <;> omega))]

theorem aminuVs (d : BitVec 7) (x : BitVec 7) (r : BitVec 2) : Statement (.aminuVs d x r) := by
  intro hw u h
  obtain rfl : encM 0x36 d 0#4 x (BitVec.ofNat 7 (32 + r.toNat * 2)) = u := Option.some.inj h
  obtain ⟨hM, h0, h1, h2, h3⟩ := encM_fields 0x36 (by decide) d 0#4 x (BitVec.ofNat 7 (32 + r.toNat * 2))
  refine decode_of_shape ?_ hw (nonzero_of_major hM (by decide))
  · rw [decodeShape_36 hM, h0, h1, h2, h3]
    have := r.isLt
    simp [shape36, -BitVec.ofNat_toNat, (show field (BitVec.ofNat 7 (32 + r.toNat * 2)) 3 4 = 4#4 from field_eq _ _ _ (by simp <;> omega)), (show field (BitVec.ofNat 7 (32 + r.toNat * 2)) 0 1 = 0#1 from field_eq _ _ _ (by simp <;> omega)), (show field (BitVec.ofNat 7 (32 + r.toNat * 2)) 1 2 = r from field_eq _ _ _ (by simp <;> omega))]

theorem amaxuVs (d : BitVec 7) (x : BitVec 7) (r : BitVec 2) : Statement (.amaxuVs d x r) := by
  intro hw u h
  obtain rfl : encM 0x36 d 0#4 x (BitVec.ofNat 7 (40 + r.toNat * 2)) = u := Option.some.inj h
  obtain ⟨hM, h0, h1, h2, h3⟩ := encM_fields 0x36 (by decide) d 0#4 x (BitVec.ofNat 7 (40 + r.toNat * 2))
  refine decode_of_shape ?_ hw (nonzero_of_major hM (by decide))
  · rw [decodeShape_36 hM, h0, h1, h2, h3]
    have := r.isLt
    simp [shape36, -BitVec.ofNat_toNat, (show field (BitVec.ofNat 7 (40 + r.toNat * 2)) 3 4 = 5#4 from field_eq _ _ _ (by simp <;> omega)), (show field (BitVec.ofNat 7 (40 + r.toNat * 2)) 0 1 = 0#1 from field_eq _ _ _ (by simp <;> omega)), (show field (BitVec.ofNat 7 (40 + r.toNat * 2)) 1 2 = r from field_eq _ _ _ (by simp <;> omega))]

theorem aandVs (d : BitVec 7) (x : BitVec 7) (r : BitVec 2) : Statement (.aandVs d x r) := by
  intro hw u h
  obtain rfl : encM 0x36 d 0#4 x (BitVec.ofNat 7 (48 + r.toNat * 2)) = u := Option.some.inj h
  obtain ⟨hM, h0, h1, h2, h3⟩ := encM_fields 0x36 (by decide) d 0#4 x (BitVec.ofNat 7 (48 + r.toNat * 2))
  refine decode_of_shape ?_ hw (nonzero_of_major hM (by decide))
  · rw [decodeShape_36 hM, h0, h1, h2, h3]
    have := r.isLt
    simp [shape36, -BitVec.ofNat_toNat, (show field (BitVec.ofNat 7 (48 + r.toNat * 2)) 3 4 = 6#4 from field_eq _ _ _ (by simp <;> omega)), (show field (BitVec.ofNat 7 (48 + r.toNat * 2)) 0 1 = 0#1 from field_eq _ _ _ (by simp <;> omega)), (show field (BitVec.ofNat 7 (48 + r.toNat * 2)) 1 2 = r from field_eq _ _ _ (by simp <;> omega))]

theorem aorVs (d : BitVec 7) (x : BitVec 7) (r : BitVec 2) : Statement (.aorVs d x r) := by
  intro hw u h
  obtain rfl : encM 0x36 d 0#4 x (BitVec.ofNat 7 (56 + r.toNat * 2)) = u := Option.some.inj h
  obtain ⟨hM, h0, h1, h2, h3⟩ := encM_fields 0x36 (by decide) d 0#4 x (BitVec.ofNat 7 (56 + r.toNat * 2))
  refine decode_of_shape ?_ hw (nonzero_of_major hM (by decide))
  · rw [decodeShape_36 hM, h0, h1, h2, h3]
    have := r.isLt
    simp [shape36, -BitVec.ofNat_toNat, (show field (BitVec.ofNat 7 (56 + r.toNat * 2)) 3 4 = 7#4 from field_eq _ _ _ (by simp <;> omega)), (show field (BitVec.ofNat 7 (56 + r.toNat * 2)) 0 1 = 0#1 from field_eq _ _ _ (by simp <;> omega)), (show field (BitVec.ofNat 7 (56 + r.toNat * 2)) 1 2 = r from field_eq _ _ _ (by simp <;> omega))]

theorem axorVs (d : BitVec 7) (x : BitVec 7) (r : BitVec 2) : Statement (.axorVs d x r) := by
  intro hw u h
  obtain rfl : encM 0x36 d 0#4 x (BitVec.ofNat 7 (64 + r.toNat * 2)) = u := Option.some.inj h
  obtain ⟨hM, h0, h1, h2, h3⟩ := encM_fields 0x36 (by decide) d 0#4 x (BitVec.ofNat 7 (64 + r.toNat * 2))
  refine decode_of_shape ?_ hw (nonzero_of_major hM (by decide))
  · rw [decodeShape_36 hM, h0, h1, h2, h3]
    have := r.isLt
    simp [shape36, -BitVec.ofNat_toNat, (show field (BitVec.ofNat 7 (64 + r.toNat * 2)) 3 4 = 8#4 from field_eq _ _ _ (by simp <;> omega)), (show field (BitVec.ofNat 7 (64 + r.toNat * 2)) 0 1 = 0#1 from field_eq _ _ _ (by simp <;> omega)), (show field (BitVec.ofNat 7 (64 + r.toNat * 2)) 1 2 = r from field_eq _ _ _ (by simp <;> omega))]

theorem axchVs (d : BitVec 7) (x : BitVec 7) (r : BitVec 2) : Statement (.axchVs d x r) := by
  intro hw u h
  obtain rfl : encM 0x36 d 0#4 x (BitVec.ofNat 7 (72 + r.toNat * 2)) = u := Option.some.inj h
  obtain ⟨hM, h0, h1, h2, h3⟩ := encM_fields 0x36 (by decide) d 0#4 x (BitVec.ofNat 7 (72 + r.toNat * 2))
  refine decode_of_shape ?_ hw (nonzero_of_major hM (by decide))
  · rw [decodeShape_36 hM, h0, h1, h2, h3]
    have := r.isLt
    simp [shape36, -BitVec.ofNat_toNat, (show field (BitVec.ofNat 7 (72 + r.toNat * 2)) 3 4 = 9#4 from field_eq _ _ _ (by simp <;> omega)), (show field (BitVec.ofNat 7 (72 + r.toNat * 2)) 0 1 = 0#1 from field_eq _ _ _ (by simp <;> omega)), (show field (BitVec.ofNat 7 (72 + r.toNat * 2)) 1 2 = r from field_eq _ _ _ (by simp <;> omega))]

theorem acasVs (d : BitVec 7) (x : BitVec 7) (r : BitVec 2) : Statement (.acasVs d x r) := by
  intro hw u h
  obtain rfl : encM 0x36 d 0#4 x (BitVec.ofNat 7 (80 + r.toNat * 2)) = u := Option.some.inj h
  obtain ⟨hM, h0, h1, h2, h3⟩ := encM_fields 0x36 (by decide) d 0#4 x (BitVec.ofNat 7 (80 + r.toNat * 2))
  refine decode_of_shape ?_ hw (nonzero_of_major hM (by decide))
  · rw [decodeShape_36 hM, h0, h1, h2, h3]
    have := r.isLt
    simp [shape36, -BitVec.ofNat_toNat, (show field (BitVec.ofNat 7 (80 + r.toNat * 2)) 3 4 = 10#4 from field_eq _ _ _ (by simp <;> omega)), (show field (BitVec.ofNat 7 (80 + r.toNat * 2)) 0 1 = 0#1 from field_eq _ _ _ (by simp <;> omega)), (show field (BitVec.ofNat 7 (80 + r.toNat * 2)) 1 2 = r from field_eq _ _ _ (by simp <;> omega))]

theorem aappVs (d : BitVec 7) (x : BitVec 7) (r : BitVec 2) : Statement (.aappVs d x r) := by
  intro hw u h
  obtain rfl : encM 0x36 d 0#4 x (BitVec.ofNat 7 (88 + r.toNat * 2)) = u := Option.some.inj h
  obtain ⟨hM, h0, h1, h2, h3⟩ := encM_fields 0x36 (by decide) d 0#4 x (BitVec.ofNat 7 (88 + r.toNat * 2))
  refine decode_of_shape ?_ hw (nonzero_of_major hM (by decide))
  · rw [decodeShape_36 hM, h0, h1, h2, h3]
    have := r.isLt
    simp [shape36, -BitVec.ofNat_toNat, (show field (BitVec.ofNat 7 (88 + r.toNat * 2)) 3 4 = 11#4 from field_eq _ _ _ (by simp <;> omega)), (show field (BitVec.ofNat 7 (88 + r.toNat * 2)) 0 1 = 0#1 from field_eq _ _ _ (by simp <;> omega)), (show field (BitVec.ofNat 7 (88 + r.toNat * 2)) 1 2 = r from field_eq _ _ _ (by simp <;> omega))]

theorem aaddSs (d : BitVec 7) (x : BitVec 7) (r : BitVec 2) : Statement (.aaddSs d x r) := by
  intro hw u h
  obtain rfl : encM 0x36 d 8#4 x (BitVec.ofNat 7 (r.toNat * 2)) = u := Option.some.inj h
  obtain ⟨hM, h0, h1, h2, h3⟩ := encM_fields 0x36 (by decide) d 8#4 x (BitVec.ofNat 7 (r.toNat * 2))
  refine decode_of_shape ?_ hw (nonzero_of_major hM (by decide))
  · rw [decodeShape_36 hM, h0, h1, h2, h3]
    have := r.isLt
    simp [shape36, -BitVec.ofNat_toNat, (show field (BitVec.ofNat 7 (r.toNat * 2)) 3 4 = 0#4 from field_eq _ _ _ (by simp <;> omega)), (show field (BitVec.ofNat 7 (r.toNat * 2)) 0 1 = 0#1 from field_eq _ _ _ (by simp <;> omega)), (show field (BitVec.ofNat 7 (r.toNat * 2)) 1 2 = r from field_eq _ _ _ (by simp <;> omega))]

theorem aaddfSs (d : BitVec 7) (x : BitVec 7) (r : BitVec 2) : Statement (.aaddfSs d x r) := by
  intro hw u h
  obtain rfl : encM 0x36 d 8#4 x (BitVec.ofNat 7 (8 + r.toNat * 2)) = u := Option.some.inj h
  obtain ⟨hM, h0, h1, h2, h3⟩ := encM_fields 0x36 (by decide) d 8#4 x (BitVec.ofNat 7 (8 + r.toNat * 2))
  refine decode_of_shape ?_ hw (nonzero_of_major hM (by decide))
  · rw [decodeShape_36 hM, h0, h1, h2, h3]
    have := r.isLt
    simp [shape36, -BitVec.ofNat_toNat, (show field (BitVec.ofNat 7 (8 + r.toNat * 2)) 3 4 = 1#4 from field_eq _ _ _ (by simp <;> omega)), (show field (BitVec.ofNat 7 (8 + r.toNat * 2)) 0 1 = 0#1 from field_eq _ _ _ (by simp <;> omega)), (show field (BitVec.ofNat 7 (8 + r.toNat * 2)) 1 2 = r from field_eq _ _ _ (by simp <;> omega))]

theorem aminSs (d : BitVec 7) (x : BitVec 7) (r : BitVec 2) : Statement (.aminSs d x r) := by
  intro hw u h
  obtain rfl : encM 0x36 d 8#4 x (BitVec.ofNat 7 (16 + r.toNat * 2)) = u := Option.some.inj h
  obtain ⟨hM, h0, h1, h2, h3⟩ := encM_fields 0x36 (by decide) d 8#4 x (BitVec.ofNat 7 (16 + r.toNat * 2))
  refine decode_of_shape ?_ hw (nonzero_of_major hM (by decide))
  · rw [decodeShape_36 hM, h0, h1, h2, h3]
    have := r.isLt
    simp [shape36, -BitVec.ofNat_toNat, (show field (BitVec.ofNat 7 (16 + r.toNat * 2)) 3 4 = 2#4 from field_eq _ _ _ (by simp <;> omega)), (show field (BitVec.ofNat 7 (16 + r.toNat * 2)) 0 1 = 0#1 from field_eq _ _ _ (by simp <;> omega)), (show field (BitVec.ofNat 7 (16 + r.toNat * 2)) 1 2 = r from field_eq _ _ _ (by simp <;> omega))]

theorem amaxSs (d : BitVec 7) (x : BitVec 7) (r : BitVec 2) : Statement (.amaxSs d x r) := by
  intro hw u h
  obtain rfl : encM 0x36 d 8#4 x (BitVec.ofNat 7 (24 + r.toNat * 2)) = u := Option.some.inj h
  obtain ⟨hM, h0, h1, h2, h3⟩ := encM_fields 0x36 (by decide) d 8#4 x (BitVec.ofNat 7 (24 + r.toNat * 2))
  refine decode_of_shape ?_ hw (nonzero_of_major hM (by decide))
  · rw [decodeShape_36 hM, h0, h1, h2, h3]
    have := r.isLt
    simp [shape36, -BitVec.ofNat_toNat, (show field (BitVec.ofNat 7 (24 + r.toNat * 2)) 3 4 = 3#4 from field_eq _ _ _ (by simp <;> omega)), (show field (BitVec.ofNat 7 (24 + r.toNat * 2)) 0 1 = 0#1 from field_eq _ _ _ (by simp <;> omega)), (show field (BitVec.ofNat 7 (24 + r.toNat * 2)) 1 2 = r from field_eq _ _ _ (by simp <;> omega))]

theorem aminuSs (d : BitVec 7) (x : BitVec 7) (r : BitVec 2) : Statement (.aminuSs d x r) := by
  intro hw u h
  obtain rfl : encM 0x36 d 8#4 x (BitVec.ofNat 7 (32 + r.toNat * 2)) = u := Option.some.inj h
  obtain ⟨hM, h0, h1, h2, h3⟩ := encM_fields 0x36 (by decide) d 8#4 x (BitVec.ofNat 7 (32 + r.toNat * 2))
  refine decode_of_shape ?_ hw (nonzero_of_major hM (by decide))
  · rw [decodeShape_36 hM, h0, h1, h2, h3]
    have := r.isLt
    simp [shape36, -BitVec.ofNat_toNat, (show field (BitVec.ofNat 7 (32 + r.toNat * 2)) 3 4 = 4#4 from field_eq _ _ _ (by simp <;> omega)), (show field (BitVec.ofNat 7 (32 + r.toNat * 2)) 0 1 = 0#1 from field_eq _ _ _ (by simp <;> omega)), (show field (BitVec.ofNat 7 (32 + r.toNat * 2)) 1 2 = r from field_eq _ _ _ (by simp <;> omega))]

theorem amaxuSs (d : BitVec 7) (x : BitVec 7) (r : BitVec 2) : Statement (.amaxuSs d x r) := by
  intro hw u h
  obtain rfl : encM 0x36 d 8#4 x (BitVec.ofNat 7 (40 + r.toNat * 2)) = u := Option.some.inj h
  obtain ⟨hM, h0, h1, h2, h3⟩ := encM_fields 0x36 (by decide) d 8#4 x (BitVec.ofNat 7 (40 + r.toNat * 2))
  refine decode_of_shape ?_ hw (nonzero_of_major hM (by decide))
  · rw [decodeShape_36 hM, h0, h1, h2, h3]
    have := r.isLt
    simp [shape36, -BitVec.ofNat_toNat, (show field (BitVec.ofNat 7 (40 + r.toNat * 2)) 3 4 = 5#4 from field_eq _ _ _ (by simp <;> omega)), (show field (BitVec.ofNat 7 (40 + r.toNat * 2)) 0 1 = 0#1 from field_eq _ _ _ (by simp <;> omega)), (show field (BitVec.ofNat 7 (40 + r.toNat * 2)) 1 2 = r from field_eq _ _ _ (by simp <;> omega))]

theorem aandSs (d : BitVec 7) (x : BitVec 7) (r : BitVec 2) : Statement (.aandSs d x r) := by
  intro hw u h
  obtain rfl : encM 0x36 d 8#4 x (BitVec.ofNat 7 (48 + r.toNat * 2)) = u := Option.some.inj h
  obtain ⟨hM, h0, h1, h2, h3⟩ := encM_fields 0x36 (by decide) d 8#4 x (BitVec.ofNat 7 (48 + r.toNat * 2))
  refine decode_of_shape ?_ hw (nonzero_of_major hM (by decide))
  · rw [decodeShape_36 hM, h0, h1, h2, h3]
    have := r.isLt
    simp [shape36, -BitVec.ofNat_toNat, (show field (BitVec.ofNat 7 (48 + r.toNat * 2)) 3 4 = 6#4 from field_eq _ _ _ (by simp <;> omega)), (show field (BitVec.ofNat 7 (48 + r.toNat * 2)) 0 1 = 0#1 from field_eq _ _ _ (by simp <;> omega)), (show field (BitVec.ofNat 7 (48 + r.toNat * 2)) 1 2 = r from field_eq _ _ _ (by simp <;> omega))]

theorem aorSs (d : BitVec 7) (x : BitVec 7) (r : BitVec 2) : Statement (.aorSs d x r) := by
  intro hw u h
  obtain rfl : encM 0x36 d 8#4 x (BitVec.ofNat 7 (56 + r.toNat * 2)) = u := Option.some.inj h
  obtain ⟨hM, h0, h1, h2, h3⟩ := encM_fields 0x36 (by decide) d 8#4 x (BitVec.ofNat 7 (56 + r.toNat * 2))
  refine decode_of_shape ?_ hw (nonzero_of_major hM (by decide))
  · rw [decodeShape_36 hM, h0, h1, h2, h3]
    have := r.isLt
    simp [shape36, -BitVec.ofNat_toNat, (show field (BitVec.ofNat 7 (56 + r.toNat * 2)) 3 4 = 7#4 from field_eq _ _ _ (by simp <;> omega)), (show field (BitVec.ofNat 7 (56 + r.toNat * 2)) 0 1 = 0#1 from field_eq _ _ _ (by simp <;> omega)), (show field (BitVec.ofNat 7 (56 + r.toNat * 2)) 1 2 = r from field_eq _ _ _ (by simp <;> omega))]

theorem axorSs (d : BitVec 7) (x : BitVec 7) (r : BitVec 2) : Statement (.axorSs d x r) := by
  intro hw u h
  obtain rfl : encM 0x36 d 8#4 x (BitVec.ofNat 7 (64 + r.toNat * 2)) = u := Option.some.inj h
  obtain ⟨hM, h0, h1, h2, h3⟩ := encM_fields 0x36 (by decide) d 8#4 x (BitVec.ofNat 7 (64 + r.toNat * 2))
  refine decode_of_shape ?_ hw (nonzero_of_major hM (by decide))
  · rw [decodeShape_36 hM, h0, h1, h2, h3]
    have := r.isLt
    simp [shape36, -BitVec.ofNat_toNat, (show field (BitVec.ofNat 7 (64 + r.toNat * 2)) 3 4 = 8#4 from field_eq _ _ _ (by simp <;> omega)), (show field (BitVec.ofNat 7 (64 + r.toNat * 2)) 0 1 = 0#1 from field_eq _ _ _ (by simp <;> omega)), (show field (BitVec.ofNat 7 (64 + r.toNat * 2)) 1 2 = r from field_eq _ _ _ (by simp <;> omega))]

theorem axchSs (d : BitVec 7) (x : BitVec 7) (r : BitVec 2) : Statement (.axchSs d x r) := by
  intro hw u h
  obtain rfl : encM 0x36 d 8#4 x (BitVec.ofNat 7 (72 + r.toNat * 2)) = u := Option.some.inj h
  obtain ⟨hM, h0, h1, h2, h3⟩ := encM_fields 0x36 (by decide) d 8#4 x (BitVec.ofNat 7 (72 + r.toNat * 2))
  refine decode_of_shape ?_ hw (nonzero_of_major hM (by decide))
  · rw [decodeShape_36 hM, h0, h1, h2, h3]
    have := r.isLt
    simp [shape36, -BitVec.ofNat_toNat, (show field (BitVec.ofNat 7 (72 + r.toNat * 2)) 3 4 = 9#4 from field_eq _ _ _ (by simp <;> omega)), (show field (BitVec.ofNat 7 (72 + r.toNat * 2)) 0 1 = 0#1 from field_eq _ _ _ (by simp <;> omega)), (show field (BitVec.ofNat 7 (72 + r.toNat * 2)) 1 2 = r from field_eq _ _ _ (by simp <;> omega))]

theorem acasSs (d : BitVec 7) (x : BitVec 7) (r : BitVec 2) : Statement (.acasSs d x r) := by
  intro hw u h
  obtain rfl : encM 0x36 d 8#4 x (BitVec.ofNat 7 (80 + r.toNat * 2)) = u := Option.some.inj h
  obtain ⟨hM, h0, h1, h2, h3⟩ := encM_fields 0x36 (by decide) d 8#4 x (BitVec.ofNat 7 (80 + r.toNat * 2))
  refine decode_of_shape ?_ hw (nonzero_of_major hM (by decide))
  · rw [decodeShape_36 hM, h0, h1, h2, h3]
    have := r.isLt
    simp [shape36, -BitVec.ofNat_toNat, (show field (BitVec.ofNat 7 (80 + r.toNat * 2)) 3 4 = 10#4 from field_eq _ _ _ (by simp <;> omega)), (show field (BitVec.ofNat 7 (80 + r.toNat * 2)) 0 1 = 0#1 from field_eq _ _ _ (by simp <;> omega)), (show field (BitVec.ofNat 7 (80 + r.toNat * 2)) 1 2 = r from field_eq _ _ _ (by simp <;> omega))]

theorem dwb (d : BitVec 7) (a : BitVec 7) : Statement (.dwb d a) := by
  intro hw u h
  obtain rfl : encX 0x37 d a 3#11 = u := Option.some.inj h
  obtain ⟨hM, h0, h1, h2⟩ := encX_fields 0x37 (by decide) d a 3#11
  refine decode_of_shape ?_ hw (nonzero_of_major hM (by decide))
  · rw [decodeShape_37 hM, h0, h1, h2]
    simp [shape37]

theorem iinv (d : BitVec 7) (a : BitVec 7) : Statement (.iinv d a) := by
  intro hw u h
  obtain rfl : encX 0x37 d a 4#11 = u := Option.some.inj h
  obtain ⟨hM, h0, h1, h2⟩ := encX_fields 0x37 (by decide) d a 4#11
  refine decode_of_shape ?_ hw (nonzero_of_major hM (by decide))
  · rw [decodeShape_37 hM, h0, h1, h2]
    simp [shape37]

theorem acopyIn (d : BitVec 4) (a : BitVec 7) : Statement (.acopyIn d a) := by
  intro hw u h
  obtain rfl : encX 0x38 (BitVec.ofNat 7 (d.toNat)) a 0#11 = u := Option.some.inj h
  obtain ⟨hM, h0, h1, h2⟩ := encX_fields 0x38 (by decide) (BitVec.ofNat 7 (d.toNat)) a 0#11
  refine decode_of_shape ?_ hw (nonzero_of_major hM (by decide))
  · rw [decodeShape_38 hM, h0, h1, h2]
    have := d.isLt
    simp [shape38, -BitVec.ofNat_toNat, (show field (BitVec.ofNat 7 (d.toNat)) 4 3 = 0#3 from field_eq _ _ _ (by simp <;> omega)), (show field (BitVec.ofNat 7 (d.toNat)) 0 4 = d from field_eq _ _ _ (by simp <;> omega))]

theorem acopyOut (d : BitVec 4) (a : BitVec 7) : Statement (.acopyOut d a) := by
  intro hw u h
  obtain rfl : encX 0x38 (BitVec.ofNat 7 (d.toNat)) a 1#11 = u := Option.some.inj h
  obtain ⟨hM, h0, h1, h2⟩ := encX_fields 0x38 (by decide) (BitVec.ofNat 7 (d.toNat)) a 1#11
  refine decode_of_shape ?_ hw (nonzero_of_major hM (by decide))
  · rw [decodeShape_38 hM, h0, h1, h2]
    have := d.isLt
    simp [shape38, -BitVec.ofNat_toNat, (show field (BitVec.ofNat 7 (d.toNat)) 4 3 = 0#3 from field_eq _ _ _ (by simp <;> omega)), (show field (BitVec.ofNat 7 (d.toNat)) 0 4 = d from field_eq _ _ _ (by simp <;> omega))]

theorem agather (d : BitVec 4) (a : BitVec 7) : Statement (.agather d a) := by
  intro hw u h
  obtain rfl : encX 0x38 (BitVec.ofNat 7 (d.toNat)) a 2#11 = u := Option.some.inj h
  obtain ⟨hM, h0, h1, h2⟩ := encX_fields 0x38 (by decide) (BitVec.ofNat 7 (d.toNat)) a 2#11
  refine decode_of_shape ?_ hw (nonzero_of_major hM (by decide))
  · rw [decodeShape_38 hM, h0, h1, h2]
    have := d.isLt
    simp [shape38, -BitVec.ofNat_toNat, (show field (BitVec.ofNat 7 (d.toNat)) 4 3 = 0#3 from field_eq _ _ _ (by simp <;> omega)), (show field (BitVec.ofNat 7 (d.toNat)) 0 4 = d from field_eq _ _ _ (by simp <;> omega))]

theorem ascadd (d : BitVec 4) (a : BitVec 7) : Statement (.ascadd d a) := by
  intro hw u h
  obtain rfl : encX 0x38 (BitVec.ofNat 7 (d.toNat)) a 3#11 = u := Option.some.inj h
  obtain ⟨hM, h0, h1, h2⟩ := encX_fields 0x38 (by decide) (BitVec.ofNat 7 (d.toNat)) a 3#11
  refine decode_of_shape ?_ hw (nonzero_of_major hM (by decide))
  · rw [decodeShape_38 hM, h0, h1, h2]
    have := d.isLt
    simp [shape38, -BitVec.ofNat_toNat, (show field (BitVec.ofNat 7 (d.toNat)) 4 3 = 0#3 from field_eq _ _ _ (by simp <;> omega)), (show field (BitVec.ofNat 7 (d.toNat)) 0 4 = d from field_eq _ _ _ (by simp <;> omega))]

theorem qstream (q : BitVec 2) (a : BitVec 7) : Statement (.qstream q a) := by
  intro hw u h
  obtain rfl : encX 0x38 (BitVec.ofNat 7 (q.toNat)) a 4#11 = u := Option.some.inj h
  obtain ⟨hM, h0, h1, h2⟩ := encX_fields 0x38 (by decide) (BitVec.ofNat 7 (q.toNat)) a 4#11
  refine decode_of_shape ?_ hw (nonzero_of_major hM (by decide))
  · rw [decodeShape_38 hM, h0, h1, h2]
    have := q.isLt
    simp [shape38, -BitVec.ofNat_toNat, (show field (BitVec.ofNat 7 (q.toNat)) 2 5 = 0#5 from field_eq _ _ _ (by simp <;> omega)), (show field (BitVec.ofNat 7 (q.toNat)) 0 2 = q from field_eq _ _ _ (by simp <;> omega))]

theorem qpop (d : BitVec 7) (q : BitVec 2) : Statement (.qpop d q) := by
  intro hw u h
  obtain rfl : encX 0x39 d (BitVec.ofNat 7 (q.toNat)) 0#11 = u := Option.some.inj h
  obtain ⟨hM, h0, h1, h2⟩ := encX_fields 0x39 (by decide) d (BitVec.ofNat 7 (q.toNat)) 0#11
  refine decode_of_shape ?_ hw (nonzero_of_major hM (by decide))
  · rw [decodeShape_39 hM, h0, h1, h2]
    have := q.isLt
    simp [shape39, -BitVec.ofNat_toNat, (show field (BitVec.ofNat 7 (q.toNat)) 2 5 = 0#5 from field_eq _ _ _ (by simp <;> omega)), (show field (BitVec.ofNat 7 (q.toNat)) 0 2 = q from field_eq _ _ _ (by simp <;> omega))]

theorem qstat (d : BitVec 7) (q : BitVec 2) : Statement (.qstat d q) := by
  intro hw u h
  obtain rfl : encX 0x39 d (BitVec.ofNat 7 (q.toNat)) 1#11 = u := Option.some.inj h
  obtain ⟨hM, h0, h1, h2⟩ := encX_fields 0x39 (by decide) d (BitVec.ofNat 7 (q.toNat)) 1#11
  refine decode_of_shape ?_ hw (nonzero_of_major hM (by decide))
  · rw [decodeShape_39 hM, h0, h1, h2]
    have := q.isLt
    simp [shape39, -BitVec.ofNat_toNat, (show field (BitVec.ofNat 7 (q.toNat)) 2 5 = 0#5 from field_eq _ _ _ (by simp <;> omega)), (show field (BitVec.ofNat 7 (q.toNat)) 0 2 = q from field_eq _ _ _ (by simp <;> omega))]

theorem cseal (d : BitVec 7) : Statement (.cseal d) := by
  intro hw u h
  obtain rfl : encX 0x39 d 0#7 2#11 = u := Option.some.inj h
  obtain ⟨hM, h0, h1, h2⟩ := encX_fields 0x39 (by decide) d 0#7 2#11
  refine decode_of_shape ?_ hw (nonzero_of_major hM (by decide))
  · rw [decodeShape_39 hM, h0, h1, h2]
    simp [shape39]

theorem cwait (a : BitVec 7) : Statement (.cwait a) := by
  intro hw u h
  obtain rfl : encX 0x39 0#7 a 3#11 = u := Option.some.inj h
  obtain ⟨hM, h0, h1, h2⟩ := encX_fields 0x39 (by decide) 0#7 a 3#11
  refine decode_of_shape ?_ hw (nonzero_of_major hM (by decide))
  · rw [decodeShape_39 hM, h0, h1, h2]
    simp [shape39]

theorem armw (d : BitVec 7) (a : BitVec 7) : Statement (.armw d a) := by
  intro hw u h
  obtain rfl : encX 0x39 d a 4#11 = u := Option.some.inj h
  obtain ⟨hM, h0, h1, h2⟩ := encX_fields 0x39 (by decide) d a 4#11
  refine decode_of_shape ?_ hw (nonzero_of_major hM (by decide))
  · rw [decodeShape_39 hM, h0, h1, h2]
    simp [shape39]

theorem waitg (d : BitVec 7) (a : BitVec 7) : Statement (.waitg d a) := by
  intro hw u h
  obtain rfl : encX 0x39 d a 5#11 = u := Option.some.inj h
  obtain ⟨hM, h0, h1, h2⟩ := encX_fields 0x39 (by decide) d a 5#11
  refine decode_of_shape ?_ hw (nonzero_of_major hM (by decide))
  · rw [decodeShape_39 hM, h0, h1, h2]
    simp [shape39]

theorem waitw (d : BitVec 7) (a : BitVec 7) : Statement (.waitw d a) := by
  intro hw u h
  obtain rfl : encX 0x39 d a 6#11 = u := Option.some.inj h
  obtain ⟨hM, h0, h1, h2⟩ := encX_fields 0x39 (by decide) d a 6#11
  refine decode_of_shape ?_ hw (nonzero_of_major hM (by decide))
  · rw [decodeShape_39 hM, h0, h1, h2]
    simp [shape39]

theorem waitwG (d : BitVec 7) (a : BitVec 7) : Statement (.waitwG d a) := by
  intro hw u h
  obtain rfl : encX 0x39 d a 7#11 = u := Option.some.inj h
  obtain ⟨hM, h0, h1, h2⟩ := encX_fields 0x39 (by decide) d a 7#11
  refine decode_of_shape ?_ hw (nonzero_of_major hM (by decide))
  · rw [decodeShape_39 hM, h0, h1, h2]
    simp [shape39]

theorem bar (d : BitVec 7) (i : BitVec 4) : Statement (.bar d i) := by
  intro hw u h
  obtain rfl : encX 0x3A d (BitVec.ofNat 7 (i.toNat)) 0#11 = u := Option.some.inj h
  obtain ⟨hM, h0, h1, h2⟩ := encX_fields 0x3A (by decide) d (BitVec.ofNat 7 (i.toNat)) 0#11
  refine decode_of_shape ?_ hw (nonzero_of_major hM (by decide))
  · rw [decodeShape_3A hM, h0, h1, h2]
    have := i.isLt
    simp [shape3A, -BitVec.ofNat_toNat, (show field (BitVec.ofNat 7 (i.toNat)) 4 3 = 0#3 from field_eq _ _ _ (by simp <;> omega)), (show field (BitVec.ofNat 7 (i.toNat)) 0 4 = i from field_eq _ _ _ (by simp <;> omega))]

theorem bara (i : BitVec 4) : Statement (.bara i) := by
  intro hw u h
  obtain rfl : encX 0x3A 0#7 (BitVec.ofNat 7 (i.toNat)) 1#11 = u := Option.some.inj h
  obtain ⟨hM, h0, h1, h2⟩ := encX_fields 0x3A (by decide) 0#7 (BitVec.ofNat 7 (i.toNat)) 1#11
  refine decode_of_shape ?_ hw (nonzero_of_major hM (by decide))
  · rw [decodeShape_3A hM, h0, h1, h2]
    have := i.isLt
    simp [shape3A, -BitVec.ofNat_toNat, (show field (BitVec.ofNat 7 (i.toNat)) 4 3 = 0#3 from field_eq _ _ _ (by simp <;> omega)), (show field (BitVec.ofNat 7 (i.toNat)) 0 4 = i from field_eq _ _ _ (by simp <;> omega))]

theorem gbar (d : BitVec 7) (i : BitVec 4) : Statement (.gbar d i) := by
  intro hw u h
  obtain rfl : encX 0x3A d (BitVec.ofNat 7 (i.toNat)) 2#11 = u := Option.some.inj h
  obtain ⟨hM, h0, h1, h2⟩ := encX_fields 0x3A (by decide) d (BitVec.ofNat 7 (i.toNat)) 2#11
  refine decode_of_shape ?_ hw (nonzero_of_major hM (by decide))
  · rw [decodeShape_3A hM, h0, h1, h2]
    have := i.isLt
    simp [shape3A, -BitVec.ofNat_toNat, (show field (BitVec.ofNat 7 (i.toNat)) 4 3 = 0#3 from field_eq _ _ _ (by simp <;> omega)), (show field (BitVec.ofNat 7 (i.toNat)) 0 4 = i from field_eq _ _ _ (by simp <;> omega))]

theorem mop (t : BitVec 2) (a : BitVec 1) (b : BitVec 1) : Statement (.mop t a b) := by
  intro hw u h
  obtain rfl : encV3 0x3C (BitVec.ofNat 7 (t.toNat)) (BitVec.ofNat 7 (a.toNat)) (BitVec.ofNat 7 (b.toNat)) 0#4 = u := Option.some.inj h
  obtain ⟨hM, h0, h1, h2, h3⟩ := encV3_fields 0x3C (by decide) (BitVec.ofNat 7 (t.toNat)) (BitVec.ofNat 7 (a.toNat)) (BitVec.ofNat 7 (b.toNat)) 0#4
  refine decode_of_shape ?_ hw (nonzero_of_major hM (by decide))
  · rw [decodeShape_3C hM, h0, h1, h2, h3]
    have := t.isLt; have := a.isLt; have := b.isLt
    simp [shape3C, -BitVec.ofNat_toNat, (show field (BitVec.ofNat 7 (t.toNat)) 2 5 = 0#5 from field_eq _ _ _ (by simp <;> omega)), (show field (BitVec.ofNat 7 (a.toNat)) 1 6 = 0#6 from field_eq _ _ _ (by simp <;> omega)), (show field (BitVec.ofNat 7 (b.toNat)) 1 6 = 0#6 from field_eq _ _ _ (by simp <;> omega)), (show field (BitVec.ofNat 7 (t.toNat)) 0 2 = t from field_eq _ _ _ (by simp <;> omega)), (show field (BitVec.ofNat 7 (a.toNat)) 0 1 = a from field_eq _ _ _ (by simp <;> omega)), (show field (BitVec.ofNat 7 (b.toNat)) 0 1 = b from field_eq _ _ _ (by simp <;> omega))]

theorem mopn (t : BitVec 2) (a : BitVec 1) (b : BitVec 1) : Statement (.mopn t a b) := by
  intro hw u h
  obtain rfl : encV3 0x3C (BitVec.ofNat 7 (t.toNat)) (BitVec.ofNat 7 (a.toNat)) (BitVec.ofNat 7 (b.toNat)) 1#4 = u := Option.some.inj h
  obtain ⟨hM, h0, h1, h2, h3⟩ := encV3_fields 0x3C (by decide) (BitVec.ofNat 7 (t.toNat)) (BitVec.ofNat 7 (a.toNat)) (BitVec.ofNat 7 (b.toNat)) 1#4
  refine decode_of_shape ?_ hw (nonzero_of_major hM (by decide))
  · rw [decodeShape_3C hM, h0, h1, h2, h3]
    have := t.isLt; have := a.isLt; have := b.isLt
    simp [shape3C, -BitVec.ofNat_toNat, (show field (BitVec.ofNat 7 (t.toNat)) 2 5 = 0#5 from field_eq _ _ _ (by simp <;> omega)), (show field (BitVec.ofNat 7 (a.toNat)) 1 6 = 0#6 from field_eq _ _ _ (by simp <;> omega)), (show field (BitVec.ofNat 7 (b.toNat)) 1 6 = 0#6 from field_eq _ _ _ (by simp <;> omega)), (show field (BitVec.ofNat 7 (t.toNat)) 0 2 = t from field_eq _ _ _ (by simp <;> omega)), (show field (BitVec.ofNat 7 (a.toNat)) 0 1 = a from field_eq _ _ _ (by simp <;> omega)), (show field (BitVec.ofNat 7 (b.toNat)) 0 1 = b from field_eq _ _ _ (by simp <;> omega))]

theorem tzero (t : BitVec 2) : Statement (.tzero t) := by
  intro hw u h
  obtain rfl : encV3 0x3C (BitVec.ofNat 7 (t.toNat)) 0#7 0#7 2#4 = u := Option.some.inj h
  obtain ⟨hM, h0, h1, h2, h3⟩ := encV3_fields 0x3C (by decide) (BitVec.ofNat 7 (t.toNat)) 0#7 0#7 2#4
  refine decode_of_shape ?_ hw (nonzero_of_major hM (by decide))
  · rw [decodeShape_3C hM, h0, h1, h2, h3]
    have := t.isLt
    simp [shape3C, -BitVec.ofNat_toNat, (show field (BitVec.ofNat 7 (t.toNat)) 2 5 = 0#5 from field_eq _ _ _ (by simp <;> omega)), (show field (BitVec.ofNat 7 (t.toNat)) 0 2 = t from field_eq _ _ _ (by simp <;> omega))]

theorem mchk (t : BitVec 2) : Statement (.mchk t) := by
  intro hw u h
  obtain rfl : encV3 0x3C (BitVec.ofNat 7 (t.toNat)) 0#7 0#7 3#4 = u := Option.some.inj h
  obtain ⟨hM, h0, h1, h2, h3⟩ := encV3_fields 0x3C (by decide) (BitVec.ofNat 7 (t.toNat)) 0#7 0#7 3#4
  refine decode_of_shape ?_ hw (nonzero_of_major hM (by decide))
  · rw [decodeShape_3C hM, h0, h1, h2, h3]
    have := t.isLt
    simp [shape3C, -BitVec.ofNat_toNat, (show field (BitVec.ofNat 7 (t.toNat)) 2 5 = 0#5 from field_eq _ _ _ (by simp <;> omega)), (show field (BitVec.ofNat 7 (t.toNat)) 0 2 = t from field_eq _ _ _ (by simp <;> omega))]

theorem fmov (f : BitVec 2) (a : BitVec 7) : Statement (.fmov f a) := by
  intro hw u h
  obtain rfl : encV3 0x3C (BitVec.ofNat 7 (f.toNat)) a 0#7 4#4 = u := Option.some.inj h
  obtain ⟨hM, h0, h1, h2, h3⟩ := encV3_fields 0x3C (by decide) (BitVec.ofNat 7 (f.toNat)) a 0#7 4#4
  refine decode_of_shape ?_ hw (nonzero_of_major hM (by decide))
  · rw [decodeShape_3C hM, h0, h1, h2, h3]
    have := f.isLt
    simp [shape3C, -BitVec.ofNat_toNat, (show field (BitVec.ofNat 7 (f.toNat)) 2 5 = 0#5 from field_eq _ _ _ (by simp <;> omega)), (show field (BitVec.ofNat 7 (f.toNat)) 0 2 = f from field_eq _ _ _ (by simp <;> omega))]

theorem mxon (m : BitVec 4) : Statement (.mxon m) := by
  intro hw u h
  obtain rfl : encV3 0x3C (BitVec.ofNat 7 (m.toNat)) 0#7 0#7 5#4 = u := Option.some.inj h
  obtain ⟨hM, h0, h1, h2, h3⟩ := encV3_fields 0x3C (by decide) (BitVec.ofNat 7 (m.toNat)) 0#7 0#7 5#4
  refine decode_of_shape ?_ hw (nonzero_of_major hM (by decide))
  · rw [decodeShape_3C hM, h0, h1, h2, h3]
    have := m.isLt
    simp [shape3C, -BitVec.ofNat_toNat, (show field (BitVec.ofNat 7 (m.toNat)) 4 3 = 0#3 from field_eq _ _ _ (by simp <;> omega)), (show field (BitVec.ofNat 7 (m.toNat)) 0 4 = m from field_eq _ _ _ (by simp <;> omega))]

theorem tcvt (d : BitVec 7) (t : BitVec 2) : Statement (.tcvt d t) := by
  intro hw u h
  obtain rfl : encV3 0x3C d (BitVec.ofNat 7 (t.toNat)) 0#7 7#4 = u := Option.some.inj h
  obtain ⟨hM, h0, h1, h2, h3⟩ := encV3_fields 0x3C (by decide) d (BitVec.ofNat 7 (t.toNat)) 0#7 7#4
  refine decode_of_shape ?_ hw (nonzero_of_major hM (by decide))
  · rw [decodeShape_3C hM, h0, h1, h2, h3]
    have := t.isLt
    simp [shape3C, -BitVec.ofNat_toNat, (show field (BitVec.ofNat 7 (t.toNat)) 2 5 = 0#5 from field_eq _ _ _ (by simp <;> omega)), (show field (BitVec.ofNat 7 (t.toNat)) 0 2 = t from field_eq _ _ _ (by simp <;> omega))]

theorem tsld (v : BitVec 7) (t : BitVec 2) (r : BitVec 1) (x : BitVec 6) (n : BitVec 5) : Statement (.tsld v t r x n) := by
  intro hw u h
  obtain rfl : encTS 0x3D v t r x (BitVec.ofNat 9 (n.toNat)) = u := Option.some.inj h
  obtain ⟨hM, h0, h1, h2, h3, h4⟩ := encTS_fields 0x3D (by decide) v t r x (BitVec.ofNat 9 (n.toNat))
  refine decode_of_shape ?_ hw (nonzero_of_major hM (by decide))
  · rw [decodeShape_3D hM, h0, h1, h2, h3, h4]
    have := t.isLt; have := r.isLt; have := x.isLt; have := n.isLt
    simp [shape3D, -BitVec.ofNat_toNat, (show field (BitVec.ofNat 9 (n.toNat)) 5 4 = 0#4 from field_eq _ _ _ (by simp <;> omega)), (show field (BitVec.ofNat 9 (n.toNat)) 0 5 = n from field_eq _ _ _ (by simp <;> omega))]

theorem tsst (v : BitVec 7) (t : BitVec 2) (r : BitVec 1) (x : BitVec 6) (n : BitVec 5) : Statement (.tsst v t r x n) := by
  intro hw u h
  obtain rfl : encTS 0x3D v t r x (BitVec.ofNat 9 (256 + n.toNat)) = u := Option.some.inj h
  obtain ⟨hM, h0, h1, h2, h3, h4⟩ := encTS_fields 0x3D (by decide) v t r x (BitVec.ofNat 9 (256 + n.toNat))
  refine decode_of_shape ?_ hw (nonzero_of_major hM (by decide))
  · rw [decodeShape_3D hM, h0, h1, h2, h3, h4]
    have := t.isLt; have := r.isLt; have := x.isLt; have := n.isLt
    simp [shape3D, -BitVec.ofNat_toNat, (show field (BitVec.ofNat 9 (256 + n.toNat)) 5 4 = 8#4 from field_eq _ _ _ (by simp <;> omega)), (show field (BitVec.ofNat 9 (256 + n.toNat)) 0 5 = n from field_eq _ _ _ (by simp <;> omega))]

theorem fld (f : BitVec 2) (a : BitVec 4) (x : BitVec 7) (m : BitVec 7) : Statement (.fld f a x m) := by
  intro hw u h
  obtain rfl : encM 0x3E (BitVec.ofNat 7 (f.toNat)) a x m = u := Option.some.inj h
  obtain ⟨hM, h0, h1, h2, h3⟩ := encM_fields 0x3E (by decide) (BitVec.ofNat 7 (f.toNat)) a x m
  refine decode_of_shape ?_ hw (nonzero_of_major hM (by decide))
  · rw [decodeShape_3E hM, h0, h1, h2, h3]
    have := f.isLt; have := a.isLt
    simp [shape3E, -BitVec.ofNat_toNat, (show field (BitVec.ofNat 7 (f.toNat)) 2 5 = 0#5 from field_eq _ _ _ (by simp <;> omega)), (show field (BitVec.ofNat 7 (f.toNat)) 0 2 = f from field_eq _ _ _ (by simp <;> omega))]

theorem flds (f : BitVec 2) (x : BitVec 7) (m : BitVec 7) : Statement (.flds f x m) := by
  intro hw u h
  obtain rfl : encM 0x3E (BitVec.ofNat 7 (16 + f.toNat)) 0#4 x m = u := Option.some.inj h
  obtain ⟨hM, h0, h1, h2, h3⟩ := encM_fields 0x3E (by decide) (BitVec.ofNat 7 (16 + f.toNat)) 0#4 x m
  refine decode_of_shape ?_ hw (nonzero_of_major hM (by decide))
  · rw [decodeShape_3E hM, h0, h1, h2, h3]
    have := f.isLt
    simp [shape3E, -BitVec.ofNat_toNat, (show field (BitVec.ofNat 7 (16 + f.toNat)) 2 5 = 4#5 from field_eq _ _ _ (by simp <;> omega)), (show field (BitVec.ofNat 7 (16 + f.toNat)) 0 2 = f from field_eq _ _ _ (by simp <;> omega))]

theorem tld (t : BitVec 2) (a : BitVec 4) (x : BitVec 7) (m : BitVec 7) : Statement (.tld t a x m) := by
  intro hw u h
  obtain rfl : encM 0x3E (BitVec.ofNat 7 (32 + t.toNat)) a x m = u := Option.some.inj h
  obtain ⟨hM, h0, h1, h2, h3⟩ := encM_fields 0x3E (by decide) (BitVec.ofNat 7 (32 + t.toNat)) a x m
  refine decode_of_shape ?_ hw (nonzero_of_major hM (by decide))
  · rw [decodeShape_3E hM, h0, h1, h2, h3]
    have := t.isLt; have := a.isLt
    simp [shape3E, -BitVec.ofNat_toNat, (show field (BitVec.ofNat 7 (32 + t.toNat)) 2 5 = 8#5 from field_eq _ _ _ (by simp <;> omega)), (show field (BitVec.ofNat 7 (32 + t.toNat)) 0 2 = t from field_eq _ _ _ (by simp <;> omega))]

theorem tst (t : BitVec 2) (a : BitVec 4) (x : BitVec 7) (m : BitVec 7) : Statement (.tst t a x m) := by
  intro hw u h
  obtain rfl : encM 0x3E (BitVec.ofNat 7 (48 + t.toNat)) a x m = u := Option.some.inj h
  obtain ⟨hM, h0, h1, h2, h3⟩ := encM_fields 0x3E (by decide) (BitVec.ofNat 7 (48 + t.toNat)) a x m
  refine decode_of_shape ?_ hw (nonzero_of_major hM (by decide))
  · rw [decodeShape_3E hM, h0, h1, h2, h3]
    have := t.isLt; have := a.isLt
    simp [shape3E, -BitVec.ofNat_toNat, (show field (BitVec.ofNat 7 (48 + t.toNat)) 2 5 = 12#5 from field_eq _ _ _ (by simp <;> omega)), (show field (BitVec.ofNat 7 (48 + t.toNat)) 0 2 = t from field_eq _ _ _ (by simp <;> omega))]

theorem tstA (t : BitVec 2) (a : BitVec 4) (x : BitVec 7) (m : BitVec 7) : Statement (.tstA t a x m) := by
  intro hw u h
  obtain rfl : encM 0x3E (BitVec.ofNat 7 (64 + t.toNat)) a x m = u := Option.some.inj h
  obtain ⟨hM, h0, h1, h2, h3⟩ := encM_fields 0x3E (by decide) (BitVec.ofNat 7 (64 + t.toNat)) a x m
  refine decode_of_shape ?_ hw (nonzero_of_major hM (by decide))
  · rw [decodeShape_3E hM, h0, h1, h2, h3]
    have := t.isLt; have := a.isLt
    simp [shape3E, -BitVec.ofNat_toNat, (show field (BitVec.ofNat 7 (64 + t.toNat)) 2 5 = 16#5 from field_eq _ _ _ (by simp <;> omega)), (show field (BitVec.ofNat 7 (64 + t.toNat)) 0 2 = t from field_eq _ _ _ (by simp <;> omega))]

theorem tldv (t : BitVec 2) (a : BitVec 4) (x : BitVec 7) (y : BitVec 6) : Statement (.tldv t a x y) := by
  intro hw u h
  obtain rfl : encM 0x3E (BitVec.ofNat 7 (80 + t.toNat)) a x (BitVec.ofNat 7 (y.toNat)) = u := Option.some.inj h
  obtain ⟨hM, h0, h1, h2, h3⟩ := encM_fields 0x3E (by decide) (BitVec.ofNat 7 (80 + t.toNat)) a x (BitVec.ofNat 7 (y.toNat))
  refine decode_of_shape ?_ hw (nonzero_of_major hM (by decide))
  · rw [decodeShape_3E hM, h0, h1, h2, h3]
    have := t.isLt; have := a.isLt; have := y.isLt
    simp [shape3E, -BitVec.ofNat_toNat, (show field (BitVec.ofNat 7 (80 + t.toNat)) 2 5 = 20#5 from field_eq _ _ _ (by simp <;> omega)), (show field (BitVec.ofNat 7 (y.toNat)) 6 1 = 0#1 from field_eq _ _ _ (by simp <;> omega)), (show field (BitVec.ofNat 7 (80 + t.toNat)) 0 2 = t from field_eq _ _ _ (by simp <;> omega)), (show field (BitVec.ofNat 7 (y.toNat)) 0 6 = y from field_eq _ _ _ (by simp <;> omega))]

theorem mset (a : BitVec 7) : Statement (.mset a) := by
  intro hw u h
  obtain rfl : encX 0x3F 0#7 a 0#11 = u := Option.some.inj h
  obtain ⟨hM, h0, h1, h2⟩ := encX_fields 0x3F (by decide) 0#7 a 0#11
  refine decode_of_shape ?_ hw (nonzero_of_major hM (by decide))
  · rw [decodeShape_3F hM, h0, h1, h2]
    simp [shape3F]

theorem mseti (v : BitVec 7) (w : BitVec 7) (f : BitVec 4) : Statement (.mseti v w f) := by
  intro hw u h
  obtain rfl : encX 0x3F v w (BitVec.ofNat 11 (64 + f.toNat)) = u := Option.some.inj h
  obtain ⟨hM, h0, h1, h2⟩ := encX_fields 0x3F (by decide) v w (BitVec.ofNat 11 (64 + f.toNat))
  refine decode_of_shape ?_ hw (nonzero_of_major hM (by decide))
  · rw [decodeShape_3F hM, h0, h1, h2]
    have := f.isLt
    simp [shape3F, -BitVec.ofNat_toNat, (show field (BitVec.ofNat 11 (64 + f.toNat)) 4 7 = 4#7 from field_eq _ _ _ (by simp <;> omega)), (show field (BitVec.ofNat 11 (64 + f.toNat)) 0 4 = f from field_eq _ _ _ (by simp <;> omega))]
    intro _ hz
    have h3 := congrArg BitVec.toNat hz
    simp at h3
    omega

theorem mget (d : BitVec 7) : Statement (.mget d) := by
  intro hw u h
  obtain rfl : encX 0x3F d 0#7 128#11 = u := Option.some.inj h
  obtain ⟨hM, h0, h1, h2⟩ := encX_fields 0x3F (by decide) d 0#7 128#11
  refine decode_of_shape ?_ hw (nonzero_of_major hM (by decide))
  · rw [decodeShape_3F hM, h0, h1, h2]
    simp [shape3F, -BitVec.ofNat_toNat, (show field (128#11) 4 7 = 8#7 from rfl)]

theorem srd (d : BitVec 7) (a : BitVec 7) : Statement (.srd d a) := by
  intro hw u h
  obtain rfl : encX 0x3F d a 192#11 = u := Option.some.inj h
  obtain ⟨hM, h0, h1, h2⟩ := encX_fields 0x3F (by decide) d a 192#11
  refine decode_of_shape ?_ hw (nonzero_of_major hM (by decide))
  · rw [decodeShape_3F hM, h0, h1, h2]
    simp [shape3F, -BitVec.ofNat_toNat, (show field (192#11) 4 7 = 12#7 from rfl)]

theorem swr (d : BitVec 7) (a : BitVec 7) : Statement (.swr d a) := by
  intro hw u h
  obtain rfl : encX 0x3F d a 256#11 = u := Option.some.inj h
  obtain ⟨hM, h0, h1, h2⟩ := encX_fields 0x3F (by decide) d a 256#11
  refine decode_of_shape ?_ hw (nonzero_of_major hM (by decide))
  · rw [decodeShape_3F hM, h0, h1, h2]
    simp [shape3F, -BitVec.ofNat_toNat, (show field (256#11) 4 7 = 16#7 from rfl)]

theorem flgr (d : BitVec 7) : Statement (.flgr d) := by
  intro hw u h
  obtain rfl : encX 0x3F d 0#7 320#11 = u := Option.some.inj h
  obtain ⟨hM, h0, h1, h2⟩ := encX_fields 0x3F (by decide) d 0#7 320#11
  refine decode_of_shape ?_ hw (nonzero_of_major hM (by decide))
  · rw [decodeShape_3F hM, h0, h1, h2]
    simp [shape3F, -BitVec.ofNat_toNat, (show field (320#11) 4 7 = 20#7 from rfl)]

theorem flgc (a : BitVec 7) : Statement (.flgc a) := by
  intro hw u h
  obtain rfl : encX 0x3F 0#7 a 384#11 = u := Option.some.inj h
  obtain ⟨hM, h0, h1, h2⟩ := encX_fields 0x3F (by decide) 0#7 a 384#11
  refine decode_of_shape ?_ hw (nonzero_of_major hM (by decide))
  · rw [decodeShape_3F hM, h0, h1, h2]
    simp [shape3F, -BitVec.ofNat_toNat, (show field (384#11) 4 7 = 24#7 from rfl)]

theorem xseed (a : BitVec 7) : Statement (.xseed a) := by
  intro hw u h
  obtain rfl : encX 0x3F 0#7 a 448#11 = u := Option.some.inj h
  obtain ⟨hM, h0, h1, h2⟩ := encX_fields 0x3F (by decide) 0#7 a 448#11
  refine decode_of_shape ?_ hw (nonzero_of_major hM (by decide))
  · rw [decodeShape_3F hM, h0, h1, h2]
    simp [shape3F, -BitVec.ofNat_toNat, (show field (448#11) 4 7 = 28#7 from rfl)]

theorem trap (n : BitVec 6) : Statement (.trap n) := by
  intro hw u h
  obtain rfl : encX 0x3F 0#7 0#7 (BitVec.ofNat 11 (512 + n.toNat)) = u := Option.some.inj h
  obtain ⟨hM, h0, h1, h2⟩ := encX_fields 0x3F (by decide) 0#7 0#7 (BitVec.ofNat 11 (512 + n.toNat))
  refine decode_of_shape ?_ hw (nonzero_of_major hM (by decide))
  · rw [decodeShape_3F hM, h0, h1, h2]
    exact (show ∀ n : BitVec 6, shape3F 0#7 0#7 (BitVec.ofNat 11 (512 + n.toNat)) = some (.trap n) from by decide) n

theorem pmark (n : BitVec 3) : Statement (.pmark n) := by
  intro hw u h
  obtain rfl : encX 0x3F 0#7 0#7 (BitVec.ofNat 11 (704 + n.toNat)) = u := Option.some.inj h
  obtain ⟨hM, h0, h1, h2⟩ := encX_fields 0x3F (by decide) 0#7 0#7 (BitVec.ofNat 11 (704 + n.toNat))
  refine decode_of_shape ?_ hw (nonzero_of_major hM (by decide))
  · rw [decodeShape_3F hM, h0, h1, h2]
    exact (show ∀ n : BitVec 3, shape3F 0#7 0#7 (BitVec.ofNat 11 (704 + n.toNat)) = some (.pmark n) from by decide) n

theorem ret : Statement .ret := by
  intro hw u h
  obtain rfl : encX 0x13 0#7 0#7 2#11 = u := Option.some.inj h
  obtain ⟨hM, h0, h1, h2⟩ := encX_fields 0x13 (by decide) 0#7 0#7 2#11
  refine decode_of_shape ?_ hw (nonzero_of_major hM (by decide))
  · rw [decodeShape_13 hM, h0, h1, h2]
    simp [shape13]

theorem join : Statement .join := by
  intro hw u h
  obtain rfl : encX 0x13 0#7 0#7 3#11 = u := Option.some.inj h
  obtain ⟨hM, h0, h1, h2⟩ := encX_fields 0x13 (by decide) 0#7 0#7 3#11
  refine decode_of_shape ?_ hw (nonzero_of_major hM (by decide))
  · rw [decodeShape_13 hM, h0, h1, h2]
    simp [shape13]

theorem tfence : Statement .tfence := by
  intro hw u h
  obtain rfl : encX 0x13 0#7 0#7 4#11 = u := Option.some.inj h
  obtain ⟨hM, h0, h1, h2⟩ := encX_fields 0x13 (by decide) 0#7 0#7 4#11
  refine decode_of_shape ?_ hw (nonzero_of_major hM (by decide))
  · rw [decodeShape_13 hM, h0, h1, h2]
    simp [shape13]

theorem exit : Statement .exit := by
  intro hw u h
  obtain rfl : encX 0x13 0#7 0#7 5#11 = u := Option.some.inj h
  obtain ⟨hM, h0, h1, h2⟩ := encX_fields 0x13 (by decide) 0#7 0#7 5#11
  refine decode_of_shape ?_ hw (nonzero_of_major hM (by decide))
  · rw [decodeShape_13 hM, h0, h1, h2]
    simp [shape13]

theorem nop : Statement .nop := by
  intro hw u h
  obtain rfl : encX 0x13 0#7 0#7 6#11 = u := Option.some.inj h
  obtain ⟨hM, h0, h1, h2⟩ := encX_fields 0x13 (by decide) 0#7 0#7 6#11
  refine decode_of_shape ?_ hw (nonzero_of_major hM (by decide))
  · rw [decodeShape_13 hM, h0, h1, h2]
    simp [shape13]

theorem facq : Statement .facq := by
  intro hw u h
  obtain rfl : encX 0x37 0#7 0#7 0#11 = u := Option.some.inj h
  obtain ⟨hM, h0, h1, h2⟩ := encX_fields 0x37 (by decide) 0#7 0#7 0#11
  refine decode_of_shape ?_ hw (nonzero_of_major hM (by decide))
  · rw [decodeShape_37 hM, h0, h1, h2]
    simp [shape37]

theorem frel : Statement .frel := by
  intro hw u h
  obtain rfl : encX 0x37 0#7 0#7 1#11 = u := Option.some.inj h
  obtain ⟨hM, h0, h1, h2⟩ := encX_fields 0x37 (by decide) 0#7 0#7 1#11
  refine decode_of_shape ?_ hw (nonzero_of_major hM (by decide))
  · rw [decodeShape_37 hM, h0, h1, h2]
    simp [shape37]

theorem ffull : Statement .ffull := by
  intro hw u h
  obtain rfl : encX 0x37 0#7 0#7 2#11 = u := Option.some.inj h
  obtain ⟨hM, h0, h1, h2⟩ := encX_fields 0x37 (by decide) 0#7 0#7 2#11
  refine decode_of_shape ?_ hw (nonzero_of_major hM (by decide))
  · rw [decodeShape_37 hM, h0, h1, h2]
    simp [shape37]

theorem fetchb : Statement .fetchb := by
  intro hw u h
  obtain rfl : encX 0x37 0#7 0#7 5#11 = u := Option.some.inj h
  obtain ⟨hM, h0, h1, h2⟩ := encX_fields 0x37 (by decide) 0#7 0#7 5#11
  refine decode_of_shape ?_ hw (nonzero_of_major hM (by decide))
  · rw [decodeShape_37 hM, h0, h1, h2]
    simp [shape37]

theorem mxoff : Statement .mxoff := by
  intro hw u h
  obtain rfl : encV3 0x3C 0#7 0#7 0#7 6#4 = u := Option.some.inj h
  obtain ⟨hM, h0, h1, h2, h3⟩ := encV3_fields 0x3C (by decide) 0#7 0#7 0#7 6#4
  refine decode_of_shape ?_ hw (nonzero_of_major hM (by decide))
  · rw [decodeShape_3C hM, h0, h1, h2, h3]
    simp [shape3C]

theorem tretR : Statement .tretR := by
  intro hw u h
  obtain rfl : encX 0x3F 0#7 0#7 576#11 = u := Option.some.inj h
  obtain ⟨hM, h0, h1, h2⟩ := encX_fields 0x3F (by decide) 0#7 0#7 576#11
  refine decode_of_shape ?_ hw (nonzero_of_major hM (by decide))
  · rw [decodeShape_3F hM, h0, h1, h2]
    simp [shape3F, -BitVec.ofNat_toNat, (show field (576#11) 4 7 = 36#7 from rfl), (show field (576#11) 6 5 = 9#5 from rfl)]

theorem tretS : Statement .tretS := by
  intro hw u h
  obtain rfl : encX 0x3F 0#7 0#7 577#11 = u := Option.some.inj h
  obtain ⟨hM, h0, h1, h2⟩ := encX_fields 0x3F (by decide) 0#7 0#7 577#11
  refine decode_of_shape ?_ hw (nonzero_of_major hM (by decide))
  · rw [decodeShape_3F hM, h0, h1, h2]
    simp [shape3F, -BitVec.ofNat_toNat, (show field (577#11) 4 7 = 36#7 from rfl), (show field (577#11) 6 5 = 9#5 from rfl)]

theorem tretX : Statement .tretX := by
  intro hw u h
  obtain rfl : encX 0x3F 0#7 0#7 578#11 = u := Option.some.inj h
  obtain ⟨hM, h0, h1, h2⟩ := encX_fields 0x3F (by decide) 0#7 0#7 578#11
  refine decode_of_shape ?_ hw (nonzero_of_major hM (by decide))
  · rw [decodeShape_3F hM, h0, h1, h2]
    simp [shape3F, -BitVec.ofNat_toNat, (show field (578#11) 4 7 = 36#7 from rfl), (show field (578#11) 6 5 = 9#5 from rfl)]

theorem bkpt : Statement .bkpt := by
  intro hw u h
  obtain rfl : encX 0x3F 0#7 0#7 640#11 = u := Option.some.inj h
  obtain ⟨hM, h0, h1, h2⟩ := encX_fields 0x3F (by decide) 0#7 0#7 640#11
  refine decode_of_shape ?_ hw (nonzero_of_major hM (by decide))
  · rw [decodeShape_3F hM, h0, h1, h2]
    simp [shape3F, -BitVec.ofNat_toNat, (show field (640#11) 4 7 = 40#7 from rfl), (show field (640#11) 6 5 = 10#5 from rfl)]

theorem branchMispredict : Statement .branchMispredict := fun _ _ h => by cases h

theorem trapEntry : Statement .trapEntry := fun _ _ h => by cases h

theorem constantCacheFill : Statement .constantCacheFill := fun _ _ h => by cases h

theorem storeRegistration : Statement .storeRegistration := fun _ _ h => by cases h

theorem lineFill : Statement .lineFill := fun _ _ h => by cases h

theorem uncorrectableError : Statement .uncorrectableError := fun _ _ h => by cases h

theorem correctedError : Statement .correctedError := fun _ _ h => by cases h

theorem copySlotGrant : Statement .copySlotGrant := fun _ _ h => by cases h

theorem copySectorWrite : Statement .copySectorWrite := fun _ _ h => by cases h

theorem arrival : Statement .arrival := fun _ _ h => by cases h

theorem copyComplete : Statement .copyComplete := fun _ _ h => by cases h

theorem csealUnblock : Statement .csealUnblock := fun _ _ h => by cases h

theorem cwaitSatisfied : Statement .cwaitSatisfied := fun _ _ h => by cases h

theorem waitgSatisfied : Statement .waitgSatisfied := fun _ _ h => by cases h

theorem waitwSatisfied : Statement .waitwSatisfied := fun _ _ h => by cases h

theorem waitwGSatisfied : Statement .waitwGSatisfied := fun _ _ h => by cases h

theorem queueFill : Statement .queueFill := fun _ _ h => by cases h

theorem qpopEntryReady : Statement .qpopEntryReady := fun _ _ h => by cases h

theorem spawnWRetry : Statement .spawnWRetry := fun _ _ h => by cases h

theorem tstATry : Statement .tstATry := fun _ _ h => by cases h

theorem tstAVersionStore : Statement .tstAVersionStore := fun _ _ h => by cases h

theorem tldvTry : Statement .tldvTry := fun _ _ h => by cases h

theorem barrierPhaseComplete : Statement .barrierPhaseComplete := fun _ _ h => by cases h

theorem gangBarrierPhaseComplete : Statement .gangBarrierPhaseComplete := fun _ _ h => by cases h

theorem rotatedDuplicate : Statement .rotatedDuplicate := fun _ _ h => by cases h

theorem duplicatePipeHold : Statement .duplicatePipeHold := fun _ _ h => by cases h

theorem spareColumnRemap : Statement .spareColumnRemap := fun _ _ h => by cases h

theorem partitionWithdrawal : Statement .partitionWithdrawal := fun _ _ h => by cases h

theorem gangPlace : Statement .gangPlace := fun _ _ h => by cases h

theorem gangEvict : Statement .gangEvict := fun _ _ h => by cases h

theorem gangRestore : Statement .gangRestore := fun _ _ h => by cases h

theorem launchCompletion : Statement .launchCompletion := fun _ _ h => by cases h

theorem trapDelivery : Statement .trapDelivery := fun _ _ h => by cases h

theorem backoffExpiry : Statement .backoffExpiry := fun _ _ h => by cases h

theorem coalescerDrain : Statement .coalescerDrain := fun _ _ h => by cases h

theorem retry : Statement .retry := fun _ _ h => by cases h

theorem skip : Statement .skip := fun _ _ h => by cases h

theorem exclude : Statement .exclude := fun _ _ h => by cases h

theorem halt : Statement .halt := fun _ _ h => by cases h

theorem warpHalt : Statement .warpHalt := fun _ _ h => by cases h

theorem gangHalt : Statement .gangHalt := fun _ _ h => by cases h

theorem gangHaltReceipt : Statement .gangHaltReceipt := fun _ _ h => by cases h

theorem monarchGangHalt : Statement .monarchGangHalt := fun _ _ h => by cases h

theorem dump : Statement .dump := fun _ _ h => by cases h

theorem dumpAreaReset : Statement .dumpAreaReset := fun _ _ h => by cases h

theorem regionCreate : Statement .regionCreate := fun _ _ h => by cases h

theorem regionReread : Statement .regionReread := fun _ _ h => by cases h

theorem appendDoorbell : Statement .appendDoorbell := fun _ _ h => by cases h

theorem appendRequest : Statement .appendRequest := fun _ _ h => by cases h

theorem launchTake : Statement .launchTake := fun _ _ h => by cases h

theorem leasePin : Statement .leasePin := fun _ _ h => by cases h

theorem quantumExpiry : Statement .quantumExpiry := fun _ _ h => by cases h

theorem priorityAging : Statement .priorityAging := fun _ _ h => by cases h

theorem waiterYield : Statement .waiterYield := fun _ _ h => by cases h

theorem relaunch : Statement .relaunch := fun _ _ h => by cases h

theorem invalidate : Statement .invalidate := fun _ _ h => by cases h

theorem footprintRead : Statement .footprintRead := fun _ _ h => by cases h

theorem pageMove : Statement .pageMove := fun _ _ h => by cases h

theorem dbiWindowEnd : Statement .dbiWindowEnd := fun _ _ h => by cases h

theorem dbiModeSwitch : Statement .dbiModeSwitch := fun _ _ h => by cases h

theorem selfRefreshEntry : Statement .selfRefreshEntry := fun _ _ h => by cases h

theorem selfRefreshExit : Statement .selfRefreshExit := fun _ _ h => by cases h

theorem controllerWrite : Statement .controllerWrite := fun _ _ h => by cases h

theorem mscRequest : Statement .mscRequest := fun _ _ h => by cases h

theorem scrubPatrol : Statement .scrubPatrol := fun _ _ h => by cases h

theorem powerOn : Statement .powerOn := fun _ _ h => by cases h

theorem recoveryImageWrite : Statement .recoveryImageWrite := fun _ _ h => by cases h

theorem rebootRequest : Statement .rebootRequest := fun _ _ h => by cases h

theorem standbyTakeover : Statement .standbyTakeover := fun _ _ h => by cases h

theorem attestationReport : Statement .attestationReport := fun _ _ h => by cases h

theorem keyLoad : Statement .keyLoad := fun _ _ h => by cases h

theorem powerSample : Statement .powerSample := fun _ _ h => by cases h

theorem lunaRecord : Statement .lunaRecord := fun _ _ h => by cases h

theorem lunaSync : Statement .lunaSync := fun _ _ h => by cases h

theorem lunaRearm : Statement .lunaRearm := fun _ _ h => by cases h

theorem freezeMaskSet : Statement .freezeMaskSet := fun _ _ h => by cases h

theorem clusterWatchdog : Statement .clusterWatchdog := fun _ _ h => by cases h

theorem breakpointSet : Statement .breakpointSet := fun _ _ h => by cases h

theorem singleStep : Statement .singleStep := fun _ _ h => by cases h

theorem safePointStop : Statement .safePointStop := fun _ _ h => by cases h

theorem samplePeriodSet : Statement .samplePeriodSet := fun _ _ h => by cases h

theorem samplePeriodEnd : Statement .samplePeriodEnd := fun _ _ h => by cases h

theorem debugRegisterAccess : Statement .debugRegisterAccess := fun _ _ h => by cases h

theorem trapModeSet : Statement .trapModeSet := fun _ _ h => by cases h

theorem causalExperiment : Statement .causalExperiment := fun _ _ h => by cases h

theorem causalPeriodEnd : Statement .causalPeriodEnd := fun _ _ h => by cases h

theorem translateFunction : Statement .translateFunction := fun _ _ h => by cases h

theorem hostMemoryAccess : Statement .hostMemoryAccess := fun _ _ h => by cases h

theorem hostRegisterWrite : Statement .hostRegisterWrite := fun _ _ h => by cases h

theorem hostLinkLost : Statement .hostLinkLost := fun _ _ h => by cases h

theorem hostAttach : Statement .hostAttach := fun _ _ h => by cases h

theorem flitReceive : Statement .flitReceive := fun _ _ h => by cases h

theorem laneSpare : Statement .laneSpare := fun _ _ h => by cases h

theorem linkRetrain : Statement .linkRetrain := fun _ _ h => by cases h

theorem linkDown : Statement .linkDown := fun _ _ h => by cases h

theorem peerLost : Statement .peerLost := fun _ _ h => by cases h

theorem lostRequestCompletion : Statement .lostRequestCompletion := fun _ _ h => by cases h

theorem poolRowRead : Statement .poolRowRead := fun _ _ h => by cases h

theorem poolRowAdd : Statement .poolRowAdd := fun _ _ h => by cases h

theorem tableCreate : Statement .tableCreate := fun _ _ h => by cases h

theorem tableGrant : Statement .tableGrant := fun _ _ h => by cases h

theorem tablePublish : Statement .tablePublish := fun _ _ h => by cases h

theorem rowMove : Statement .rowMove := fun _ _ h => by cases h

theorem rowHandover : Statement .rowHandover := fun _ _ h => by cases h

theorem migrateRegion : Statement .migrateRegion := fun _ _ h => by cases h

theorem powerLoss : Statement .powerLoss := fun _ _ h => by cases h

theorem standbyDieFailure : Statement .standbyDieFailure := fun _ _ h => by cases h

theorem leaseReferralAnswer : Statement .leaseReferralAnswer := fun _ _ h => by cases h

theorem linkRetrainDone : Statement .linkRetrainDone := fun _ _ h => by cases h

end Sys2Proof.Laws.RoundTrip
end

