-- ==== Sys2Proof/Safety.lean ====
section
/-!
DEFINITION. What counts as a safe run, in the terms the statements use: memory in its canonical form, the legal shadow of a
value, what an instruction's retirement does, and what an instruction leaves alone.
-/

namespace Sys2Proof.Machine

/-! ## Invariants -/

/-- Every memory of the machine in its canonical form: the controllers' bytes and each core's SRAM strictly rising with no entry
equal to what an unlisted address reads as, the slices' unwritten bytes strictly rising. -/
def State.canonical (s : State) : Bool :=
  s.homes.mem.wf && sortedFrom 0 s.homes.fresh && s.cores.all fun c => c.sram.wf

/-- Whether every owned word of an L1 line has its bit in the line's ownership record (R294, R297). -/
def State.ownsWell (s : State) (pcn : Nat) (l : L1Line) : Bool :=
  l.words.all fun w => w.idx < 48 && (!w.owned || s.ownerOf (l.line * 192 + 4 * w.idx) == some pcn)

/-- Whether every word an ownership record names is an owned word of the owner's L1 (R294, R297). -/
def State.recordsWell (s : State) (r : OwnRec) : Bool :=
  (range 0 48).all fun i => !r.owned.getLsbD i
    || (match s.l1Word? r.owner (r.line * 192 + 4 * i) with | some w => w.owned | none => false)

/-- R293-R297: the order of slices, ownership records and L1s. Memories are canonical, a core, a slice's line, a record, an L1's line and
a line's word stand once each, unwritten bytes lie in held lines, and the records name exactly the owned words of the L1s. -/
def State.orderly (s : State) : Bool :=
  s.canonical
    && decide (s.cores.map Core.pcn).Nodup
    && decide (s.homes.lines.map SliceLine.line).Nodup
    && decide (s.homes.owners.map OwnRec.line).Nodup
    && s.homes.fresh.all (fun c => (s.sliceLine? (lineOf c.1)).isSome)
    && s.homes.owners.all s.recordsWell
    && s.cores.all fun c => decide (c.l1.map L1Line.line).Nodup
        && c.l1.all fun l => decide (l.words.map L1Word.idx).Nodup && s.ownsWell c.pcn l

/-- R24: a shadow is right about a value: a bounded one lies in the int32 range and encloses the value. -/
def Shadow.encloses (sh : Shadow) (x : Int) : Prop :=
  match sh with
  | .unbounded => True
  | .bounded lo hi => inInt32 lo = true ∧ inInt32 hi = true ∧ lo ≤ x ∧ x ≤ hi

/-- Every scalar register's shadow is right about the register (R24). -/
def State.scalarsSound (s : State) : Prop := ∀ r : BitVec 7, (s.shadowS r).encloses (s.readS r).toInt

/-! ## Retirement -/

/-- R43, R136: the pc after an instruction that transfers no control: past the word; in a `rep` the repeat prefix again, until the
last repetition, which leads past the repeated word. -/
def State.nextPc (s : State) : BitVec 48 :=
  match s.warp.rep with
  | none => s.warp.pc + 4
  | some r => if s.warp.xrep.toNat + 1 < r.n then s.warp.pc else s.warp.pc + 8

/-- R136: XREP after it. -/
def State.nextXrep (s : State) : BitVec 6 :=
  match s.warp.rep with
  | none => s.warp.xrep
  | some r => if s.warp.xrep.toNat + 1 < r.n then s.warp.xrep + 1 else 0

/-- R136: whether a `rep` goes on. -/
def State.nextRep (s : State) : Option Rep :=
  match s.warp.rep with
  | none => none
  | some r => if s.warp.xrep.toNat + 1 < r.n then some r else none

/-- The current warp has retired its instruction and goes on at `pc`. -/
structure RetiredAt (s t : State) (pc : BitVec 48) : Prop where
  pc_eq : t.warp.pc = pc
  xrep_eq : t.warp.xrep = s.nextXrep
  rep_eq : t.warp.rep = s.nextRep
  ready : t.warp.status = .ready
  free : t.warp.wait = none
  lanes : t.warp.exclude = 0

/-- The current warp has retired its instruction and goes on in order. -/
abbrev Retired (s t : State) : Prop := RetiredAt s t s.nextPc

/-- A warp with the fields of its turn blanked: the pc, the repeat prefix, what it waits for and how it is resumed. Two warps that
agree here agree in every register, mask, stack entry, flag, special register and pending store. -/
def Warp.settled (w : Warp) : Warp :=
  { w with pc := 0, xrep := 0, rep := none, status := .ready, wait := none, exclude := 0, rerun := false, resumed := false,
           resumedRep := false, backoff := 0, waitSince := 0 }

/-- Nothing outside the current warp has changed. -/
def OnlyWarp (s t : State) : Prop := t = { s with warp := t.warp }

/-- Every byte of memory reads as before: at its home under every key, in every core's copy, in every scratchpad; and no store
of the warp is added or lost. -/
def SameMemory (s t : State) : Prop :=
  (∀ key pa, t.agentByte key pa = s.agentByte key pa)
    ∧ (∀ pcn pa, t.l1Word? pcn pa = s.l1Word? pcn pa)
    ∧ (∀ pcn a, (t.core pcn).sram.get a = (s.core pcn).sram.get a)
    ∧ t.warp.stores = s.warp.stores

/-- What the movement of bytes between homes, controllers and L1s may do, and all it may do: it changes the homes, the L1s, the
journal entries of regions, the stamps of launches that a full journal leaves, and the Monarch's log. The canonical forms are kept. -/
structure MemoryMoves (s t : State) : Prop where
  warp : t.warp = s.warp
  others : t.others = s.others
  clusters : t.clusters = s.clusters
  gangs : t.gangs = s.gangs
  fabric : t.fabric = s.fabric
  agenda : t.agenda = s.agenda
  subject : t.subject = s.subject
  clock : t.clock = s.clock
  gtime : t.gtime = s.gtime
  monarch : { t.monarch with log := [] } = { s.monarch with log := [] }
  regions : (t.regions.map fun r => { r with jrn := [] }) = s.regions.map fun r => { r with jrn := [] }
  launches : (t.launches.map fun l => { l with stamp := 0 }) = s.launches.map fun l => { l with stamp := 0 }
  cores : ∀ pcn, { t.core pcn with l1 := [] } = { s.core pcn with l1 := [] }
  memForm : s.homes.mem.wf = true → t.homes.mem.wf = true
  freshForm : sortedFrom 0 s.homes.fresh = true → sortedFrom 0 t.homes.fresh = true

/-! ## What an instruction that writes one register leaves -/

/-- `t` is `s` after an instruction that writes `x` with shadow `sh` to scalar register `d` (a write to s0 is discarded), sets the
flags `f` and retires. Every other register, flag and special register, and every byte of memory, is as before. -/
structure ScalarWritten (s t : State) (d : BitVec 7) (x : DWord) (sh : Shadow) (f : BitVec 8) : Prop where
  retired : Retired s t
  value : t.readS d = if sIdx d = 0 then 0 else x
  shadow : t.shadowS d = if sIdx d = 0 then .bounded 0 0 else sh
  others : ∀ r, sIdx r ≠ sIdx d → t.readS r = s.readS r ∧ t.shadowS r = s.shadowS r
  flags : t.warp.flg = s.warp.flg ||| f
  rest : t.warp.settled = { s.warp.settled with sreg := t.warp.sreg, sshd := t.warp.sshd, flg := t.warp.flg }
  only : OnlyWarp s t
  memory : SameMemory s t

/-- `t` is `s` after an instruction that writes the lanes `x` of the effective mask to vector register `d`: inactive lanes keep
their values, the shadow is `sh` under a full mask and the hull with the old one otherwise (R26, R149), the flags `f` are set,
and XS advances when `draws`. Everything else is as before. -/
structure VectorWritten (s t : State) (d : BitVec 7) (x : Nat → Word) (sh : Shadow) (f : BitVec 8) (draws : Bool) : Prop where
  retired : Retired s t
  active : ∀ i : Fin 32, s.effMask.getLsbD i = true → (t.readV d).get i = x i
  inactive : ∀ i : Fin 32, s.effMask.getLsbD i = false → (t.readV d).get i = (s.readV d).get i
  shadow : t.shadowV d = if s.effMask = 0xFFFFFFFF#32 then sh else (s.shadowV d).hull sh
  others : ∀ r, r ≠ d → t.readV r = s.readV r ∧ t.shadowV r = s.shadowV r
  flags : t.warp.flg = s.warp.flg ||| f
  random : (t.warp.xs0, t.warp.xs1) =
    if draws then (s.advanceXs.warp.xs0, s.advanceXs.warp.xs1) else (s.warp.xs0, s.warp.xs1)
  rest : t.warp.settled = { s.warp.settled with
    vreg := t.warp.vreg, vshd := t.warp.vshd, flg := t.warp.flg, xs0 := t.warp.xs0, xs1 := t.warp.xs1 }
  only : OnlyWarp s t
  memory : SameMemory s t

/-- `t` is `s` after an instruction that writes the bits `x` of the effective mask to predicate register `d` (a write to p7 is
discarded) and sets the flags `f`. Everything else is as before. -/
structure PredWritten (s t : State) (d : BitVec 7) (x : Word) (f : BitVec 8) : Prop where
  retired : Retired s t
  value : t.readP d = if pIdx d = 7 then 0xFFFFFFFF#32 else (x &&& s.effMask) ||| (s.readP d &&& ~~~s.effMask)
  others : ∀ r : BitVec 7, pIdx r ≠ pIdx d → t.readP r = s.readP r
  flags : t.warp.flg = s.warp.flg ||| f
  rest : t.warp.settled = { s.warp.settled with preg := t.warp.preg, flg := t.warp.flg }
  only : OnlyWarp s t
  memory : SameMemory s t

/-- `t` is `s` after an instruction that changes no register, flag or byte and goes on at `pc`. -/
structure NothingWritten (s t : State) (pc : BitVec 48) : Prop where
  retired : RetiredAt s t pc
  rest : t.warp.settled = s.warp.settled
  only : OnlyWarp s t
  memory : SameMemory s t

end Sys2Proof.Machine
end

