-- ==== Sys2Proof/Certificates/Slice0/Obligations.lean ====
section
/-!
DEFINITION. The statements for the provers. A table of rows (`scalarRows`, ...) writes out, from the spec's own tables, what each
instruction of a family does; a statement says that `exec` does it and nothing else.
-/

open Sys2Proof Sys2Proof.Machine


/-! ## What the statements are written in -/

namespace Sys2Proof.Claims

open Sys2Proof Sys2Proof.Machine

/-- R121 points 3 and 4: the shadow of a computed interval. -/
def interval (lo hi : Int) : Shadow :=
  if -2147483648 ≤ lo ∧ lo ≤ 2147483647 ∧ -2147483648 ≤ hi ∧ hi ≤ 2147483647 then .bounded lo hi else .unbounded

/-- R121 point 2: an interval computed from one operand's shadow. -/
def from1 (a : Shadow) (f : Int → Int → Int × Int) : Shadow :=
  match a with
  | .bounded l h => interval (f l h).1 (f l h).2
  | .unbounded => .unbounded

/-- R121 point 2: an interval computed from two operands' shadows. -/
def from2 (a b : Shadow) (f : Int → Int → Int → Int → Int × Int) : Shadow :=
  match a, b with
  | .bounded l h, .bounded l' h' => interval (f l h l' h').1 (f l h l' h').2
  | _, _ => .unbounded

/-- The least and the greatest of the four endpoint products (R120). -/
def products (l h l' h' : Int) : Int × Int :=
  (min (min (l * l') (l * h')) (min (h * l') (h * h')), max (max (l * l') (l * h')) (max (h * l') (h * h')))

/-- The product interval plus an addend's (R154). -/
def productPlus (a b c : Shadow) : Shadow :=
  match a, b, c with
  | .bounded l h, .bounded l' h', .bounded lc hc => interval ((products l h l' h').1 + lc) ((products l h l' h').2 + hc)
  | _, _, _ => .unbounded

/-- The number of 1 bits. -/
def ones (x : DWord) : Nat := ((List.range 64).filter fun i => x.getLsbD i).length

/-- R120's rows but for division: an instruction, the value it writes to sd, and the shadow R121 gives it. -/
def scalarRows (s : State) (d a b n : BitVec 7) (i : BitVec 11) (k : BitVec 18) : List (Instr × DWord × Shadow) :=
  let x := s.readS a
  let y := s.readS b
  let A := s.shadowS a
  let B := s.shadowS b
  let imm := i.signExtend 64
  [(.sadd d a b, x + y, from2 A B fun l h l' h' => (l + l', h + h')),
   (.ssub d a b, x - y, from2 A B fun l h l' h' => (l - h', h - l')),
   (.smul d a b, x * y, from2 A B products),
   (.smulh d a b, (x.signExtend 128 * y.signExtend 128).extractLsb' 64 64, .unbounded),
   (.smulhu d a b, (x.setWidth 128 * y.setWidth 128).extractLsb' 64 64, .unbounded),
   (.sand d a b, x &&& y, .unbounded),
   (.sor d a b, x ||| y, .unbounded),
   (.sxor d a b, x ^^^ y, .unbounded),
   (.sshl d a b, x <<< (y.extractLsb' 0 6).toNat, .unbounded),
   (.sshr d a b, x >>> (y.extractLsb' 0 6).toNat, .unbounded),
   (.ssra d a b, x.sshiftRight (y.extractLsb' 0 6).toNat, .unbounded),
   (.smin d a b, if x.toInt ≤ y.toInt then x else y, from2 A B fun l h l' h' => (min l l', min h h')),
   (.smax d a b, if x.toInt ≤ y.toInt then y else x, from2 A B fun l h l' h' => (max l l', max h h')),
   (.sminu d a b, if x.toNat ≤ y.toNat then x else y, .unbounded),
   (.smaxu d a b, if x.toNat ≤ y.toNat then y else x, .unbounded),
   (.spopc d a, BitVec.ofNat 64 (ones x), .unbounded),
   (.sclz d a, x.clz, .unbounded),
   (.sshli d a n, x <<< n.toNat, from1 A fun l h => (l * 2 ^ n.toNat, h * 2 ^ n.toNat)),
   (.sshri d a n, x >>> n.toNat,
     match A with
     | .bounded l _ => if 0 ≤ l then from1 A fun l h => (l / 2 ^ n.toNat, h / 2 ^ n.toNat) else .unbounded
     | .unbounded => .unbounded),
   (.ssrai d a n, x.sshiftRight n.toNat, from1 A fun l h => (l / 2 ^ n.toNat, h / 2 ^ n.toNat)),
   (.ssetEq d a b, if x = y then 1 else 0, .unbounded),
   (.ssetNe d a b, if x = y then 0 else 1, .unbounded),
   (.ssetLt d a b, if x.toInt < y.toInt then 1 else 0, .unbounded),
   (.ssetGe d a b, if y.toInt ≤ x.toInt then 1 else 0, .unbounded),
   (.ssetLtu d a b, if x.toNat < y.toNat then 1 else 0, .unbounded),
   (.ssetGeu d a b, if y.toNat ≤ x.toNat then 1 else 0, .unbounded),
   (.saddi d a i, x + imm, from1 A fun l h => (l + i.toInt, h + i.toInt)),
   (.sandi d a i, x &&& imm,
     if i.toInt < 0 then .unbounded
     else from1 A fun l h => if 0 ≤ l then (0, min h i.toInt) else (0, i.toInt)),
   (.sori d a i, x ||| imm, .unbounded),
   (.sxori d a i, x ^^^ imm, .unbounded),
   (.sli d k, k.signExtend 64, .bounded k.toInt k.toInt),
   (.slih d k, (s.readS d <<< 18) ||| k.setWidth 64, .unbounded)]

/-- R93's rows: an instruction, what it writes, and its flag: DZ is bit 1, OF bit 2 (R33). -/
def divisionRows (s : State) (d a b : BitVec 7) : List (Instr × DWord × BitVec 8) :=
  let x := s.readS a
  let y := s.readS b
  let signed : BitVec 8 := if y = 0 then 2 else if x.toInt = -9223372036854775808 ∧ y.toInt = -1 then 4 else 0
  let unsigned : BitVec 8 := if y = 0 then 2 else 0
  [(.sdiv d a b, if y = 0 then 0 else BitVec.ofInt 64 (x.toInt.tdiv y.toInt), signed),
   (.sdivu d a b, if y = 0 then 0 else BitVec.ofNat 64 (x.toNat / y.toNat), unsigned),
   (.srem d a b, if y = 0 then x else x - BitVec.ofInt 64 (x.toInt.tdiv y.toInt) * y, signed),
   (.sremu d a b, if y = 0 then x else x - BitVec.ofNat 64 (x.toNat / y.toNat) * y, unsigned)]

end Sys2Proof.Claims

open Sys2Proof.Claims

/-! ## Scalar integer instructions -/

/-- R119, R120, R121: every scalar integer instruction but the divisions writes the value of R120's row with the shadow of R121, sets no
flag, and changes nothing else; a write to s0 is discarded. -/
def Sys2Proof.Claims.ScalarResults : Prop :=
  ∀ (s : State) (d a b n : BitVec 7) (i : BitVec 11) (k : BitVec 18), ∀ row ∈ scalarRows s d a b n i k,
    ∃ t, exec row.1 s = .next t ∧ ScalarWritten s t d row.2.1 row.2.2 0

/-- R93: division writes the truncated quotient or the remainder with W = 1; a divisor 0 gives quotient 0, the dividend as remainder and
DZ; −2^63 by −1 gives −2^63, remainder 0 and OF. -/
def Sys2Proof.Claims.DivisionResults : Prop :=
  ∀ (s : State) (d a b : BitVec 7), ∀ row ∈ divisionRows s d a b,
    ∃ t, exec row.1 s = .next t ∧ ScalarWritten s t d row.2.1 .unbounded row.2.2

/-! ## Interval instructions -/

namespace Sys2Proof.Claims

/-- `t` is `s` after an instruction that writes nothing but the shadow `sh` of scalar register `d`, s0's excepted. -/
structure ScalarShadowSet (s t : State) (d : BitVec 7) (sh : Shadow) : Prop where
  retired : Retired s t
  shadow : t.shadowS d = if sIdx d = 0 then .bounded 0 0 else sh
  others : ∀ r, sIdx r ≠ sIdx d → t.shadowS r = s.shadowS r
  rest : t.warp.settled = { s.warp.settled with sshd := t.warp.sshd }
  only : OnlyWarp s t
  memory : SameMemory s t

/-- `t` is `s` after an instruction that writes nothing but the shadow `sh` of vector register `d`. -/
structure VectorShadowSet (s t : State) (d : BitVec 7) (sh : Shadow) : Prop where
  retired : Retired s t
  shadow : t.shadowV d = sh
  others : ∀ r, r ≠ d → t.shadowV r = s.shadowV r
  rest : t.warp.settled = { s.warp.settled with vshd := t.warp.vshd }
  only : OnlyWarp s t
  memory : SameMemory s t

/-- R122's table. -/
def widenRows (d : BitVec 7) : List (Instr × Instr × (Shadow → Shadow)) :=
  let bounded := fun (f : Int → Int → Shadow) (sh : Shadow) => match sh with | .bounded lo hi => f lo hi | .unbounded => .unbounded
  [(.iwidenUS d, .iwidenUV d, bounded fun lo _ => .bounded lo 2147483647),
   (.iwidenLS d, .iwidenLV d, bounded fun _ hi => .bounded (-2147483648) hi),
   (.iwidenBS d, .iwidenBV d, bounded fun _ _ => .bounded (-2147483648) 2147483647)]

/-- R123: the ends of the clamp interval a scalar packs. -/
def clampEnds (c : DWord) : Int × Int := ((c.extractLsb' 0 32).toInt, (c.extractLsb' 32 32).toInt)

/-- R123: clamp(x). -/
def clamped (c : DWord) (x : Int) : Int := min (max x (clampEnds c).1) (clampEnds c).2

/-- R123: the clamp's shadow: clamp(−∞) is min(lo, hi), clamp(+∞) is hi. -/
def clampedShadow (c : DWord) (sh : Shadow) : Shadow :=
  match sh with
  | .bounded lo hi => .bounded (clamped c lo) (clamped c hi)
  | .unbounded => .bounded (min (clampEnds c).1 (clampEnds c).2) (clampEnds c).2

/-- R123: NV, bit 0 of FLG (R33), for an empty interval. -/
def clampFlag (c : DWord) : BitVec 8 := if (clampEnds c).2 < (clampEnds c).1 then 1 else 0

/-- R124's table. -/
def shadowWord (sh : Shadow) : DWord :=
  match sh with
  | .bounded lo hi => BitVec.ofInt 32 hi ++ BitVec.ofInt 32 lo
  | .unbounded => 0x800000007FFFFFFF#64

end Sys2Proof.Claims

/-- R122: `iwiden` rewrites the shadow of its register and leaves data, masks and everything else alone; on s0 it has no effect, and on
a pinned vector register it faults ILLEGAL_IN_MODE. -/
def Sys2Proof.Claims.WidenResults : Prop :=
  ∀ (s : State) (d : BitVec 7), ∀ row ∈ widenRows d,
    (∃ t, exec row.1 s = .next t ∧ ScalarShadowSet s t d (row.2.2 (s.shadowS d)))
    ∧ (s.beyondVarch [d] = false → s.pinned d = false →
        ∃ t, exec row.2.1 s = .next t ∧ VectorShadowSet s t d (row.2.2 (s.shadowV d)))
    ∧ (s.beyondVarch [d] = false → s.pinned d = true → exec row.2.1 s = .next (s.fault .scalar inMode))

/-- R123, R124: `iclamp` clamps a scalar, or the active lanes of a vector read as I32, into the interval a scalar packs, with the
clamp's shadow and NV when the interval is empty; `ishq` reads a shadow. -/
def Sys2Proof.Claims.ClampAndQueryResults : Prop :=
  ∀ (s : State) (d a b : BitVec 7),
    (∃ t, exec (.iclampS d a b) s = .next t ∧
      ScalarWritten s t d (BitVec.ofInt 64 (clamped (s.readS b) (s.readS a).toInt)) (clampedShadow (s.readS b) (s.shadowS a))
        (clampFlag (s.readS b)))
    ∧ (s.beyondVarch [d, a] = false → s.pinned d = false → s.effMask ≠ 0 →
        ∃ t, exec (.iclampV d a b) s = .next t ∧
          VectorWritten s t d (fun i => BitVec.ofInt 32 (clamped (s.readS b) (lane (s.readV a) i).toInt))
            (clampedShadow (s.readS b) (s.shadowV a)) (clampFlag (s.readS b)) false)
    ∧ (∃ t, exec (.ishqS d a) s = .next t ∧ ScalarWritten s t d (shadowWord (s.shadowS a)) .unbounded 0)
    ∧ (s.beyondVarch [a] = false →
        ∃ t, exec (.ishqV d a) s = .next t ∧ ScalarWritten s t d (shadowWord (s.shadowV a)) .unbounded 0)

/-! ## Branches, jumps, divergence -/

namespace Sys2Proof.Claims

/-- R59: whether a condition holds of two scalars. -/
def holds (c : BitVec 3) (u v : DWord) : Bool :=
  match c.toNat with
  | 0 => u == v
  | 1 => u != v
  | 2 => u.toInt < v.toInt
  | 3 => v.toInt ≤ u.toInt
  | 4 => u.toNat < v.toNat
  | _ => v.toNat ≤ u.toNat

/-- R126: the refined shadow of a register known to satisfy a condition against `v`. -/
def refined (c : Nat) (v : DWord) (sh : Shadow) : Shadow :=
  match c, sh with
  | 0, _ => if -2147483648 ≤ v.toInt ∧ v.toInt ≤ 2147483647 then .bounded v.toInt v.toInt else sh
  | 1, .bounded lo hi =>
    if lo = v.toInt then .bounded (lo + 1) hi else if hi = v.toInt then .bounded lo (hi - 1) else sh
  | 2, .bounded lo hi => .bounded lo (min hi (v.toInt - 1))
  | 3, .bounded lo hi => .bounded (max lo v.toInt) hi
  | 4, .bounded lo hi => if 1 ≤ v.toNat ∧ v.toNat ≤ 2 ^ 31 then .bounded (max lo 0) (min hi (v.toNat - 1)) else sh
  | 4, .unbounded => if 1 ≤ v.toNat ∧ v.toNat ≤ 2 ^ 31 then .bounded 0 (v.toNat - 1) else sh
  | 5, .bounded lo hi => if 0 ≤ lo then .bounded (max lo v.toNat) hi else sh
  | _, _ => sh

/-- R126: the negation of a condition. -/
def negated (c : Nat) : Nat := match c with | 0 => 1 | 1 => 0 | 2 => 3 | 3 => 2 | 4 => 5 | _ => 4

/-- R127: the refined shadow of the second operand, whose first operand has the value `u`. -/
def mirrored (c : Nat) (u : DWord) (sh : Shadow) : Shadow :=
  match c with
  | 0 => refined 0 u sh
  | 1 => refined 1 u sh
  | 2 => if u.toInt = 9223372036854775807 then sh else refined 3 (u + 1) sh
  | 3 => if u.toInt = 9223372036854775807 then sh else refined 2 (u + 1) sh
  | 4 => if u.toNat = 2 ^ 64 - 1 then sh else refined 5 (u + 1) sh
  | _ => if u.toNat = 2 ^ 64 - 1 then sh else refined 4 (u + 1) sh

/-- PC + 4 × a signed offset (R54). -/
def branchTo {n : Nat} (s : State) (o : BitVec n) : BitVec 48 := BitVec.ofInt 48 (s.warp.pc.toNat + 4 * o.toInt)

/-- `t` is `s` after an instruction that goes on at `pc` and writes no register but, where they may be refined, the shadows of two
scalar registers. -/
structure Refined (s t : State) (pc : BitVec 48) : Prop where
  retired : RetiredAt s t pc
  rest : t.warp.settled = { s.warp.settled with sshd := t.warp.sshd }
  only : OnlyWarp s t
  memory : SameMemory s t

end Sys2Proof.Claims

/-- R125, R126, R127: `bcc` and `bcci` go on at PC + 4 × off10 when the condition holds and past themselves when not; on both paths they
refine the shadows of their register operands, but not s0's nor those of a register named twice. -/
def Sys2Proof.Claims.BranchResults : Prop :=
  ∀ (s : State) (a b : BitVec 6) (c : BitVec 3) (o : BitVec 10), c.toNat < 6 →
    let ra := a.setWidth 7
    let rb := b.setWidth 7
    let known := fun (v : DWord) => if holds c (s.readS ra) v then c.toNat else negated c.toNat
    let pc := fun (v : DWord) => if holds c (s.readS ra) v then branchTo s o else s.nextPc
    (∃ t, exec (.bcc a b c o) s = .next t ∧ Refined s t (pc (s.readS rb))
      ∧ (∀ r, sIdx r ≠ sIdx ra → sIdx r ≠ sIdx rb → t.shadowS r = s.shadowS r)
      ∧ t.shadowS ra = (if a = b ∨ a = 0 then s.shadowS ra
          else refined (known (s.readS rb)) (s.readS rb) (s.shadowS ra))
      ∧ t.shadowS rb = (if a = b ∨ b = 0 then s.shadowS rb
          else mirrored (known (s.readS rb)) (s.readS ra) (s.shadowS rb)))
    ∧ (∃ t, exec (.bcci a b c o) s = .next t ∧ Refined s t (pc (b.signExtend 64))
      ∧ (∀ r, sIdx r ≠ sIdx ra → t.shadowS r = s.shadowS r)
      ∧ t.shadowS ra = (if a = 0 then s.shadowS ra
          else refined (known (b.signExtend 64)) (b.signExtend 64) (s.shadowS ra)))

/-- R129: jumps and calls go on at their target; a call leaves the return address in s63. -/
def Sys2Proof.Claims.JumpResults : Prop :=
  ∀ (s : State) (a : BitVec 7) (o : BitVec 25),
    let linked := fun (t : State) (pc : BitVec 48) =>
      RetiredAt s t pc ∧ t.readS 63 = (s.warp.pc + 4).setWidth 64 ∧ t.shadowS 63 = .unbounded
        ∧ (∀ r, sIdx r ≠ 63 → t.readS r = s.readS r ∧ t.shadowS r = s.shadowS r)
        ∧ t.warp.settled = { s.warp.settled with sreg := t.warp.sreg, sshd := t.warp.sshd }
        ∧ OnlyWarp s t ∧ SameMemory s t
    (∃ t, exec (.jmp o) s = .next t ∧ NothingWritten s t (branchTo s o))
    ∧ (∃ t, exec (.call o) s = .next t ∧ linked t (branchTo s o))
    ∧ ((s.readS a).toNat % 4 = 0 → (s.readS a).toNat < 2 ^ 48 →
        (∃ t, exec (.jmpi a) s = .next t ∧ NothingWritten s t ((s.readS a).setWidth 48))
        ∧ (∃ t, exec (.calli a) s = .next t ∧ linked t ((s.readS a).setWidth 48)))
    ∧ ((s.readS 63).toNat % 4 = 0 → (s.readS 63).toNat < 2 ^ 48 →
        ∃ t, exec .ret s = .next t ∧ NothingWritten s t ((s.readS 63).setWidth 48))

/-- R129, R82: a jump to a register's value faults MISALIGN when its bits [1:0] are not zero, else TRANSLATION with DETAIL 5 when its
bits [63:48] are not; the record's ADDR is the target. -/
def Sys2Proof.Claims.JumpFaults : Prop :=
  ∀ (s : State) (a : BitVec 7) (i : Instr) (x : DWord),
    (i, x) ∈ [(Instr.jmpi a, s.readS a), (.calli a, s.readS a), (.ret, s.readS 63)] →
    (x.toNat % 4 ≠ 0 → exec i s = .next (s.fault .scalar ⟨cMISALIGN, 4, x⟩))
    ∧ (x.toNat % 4 = 0 → 2 ^ 48 ≤ x.toNat → exec i s = .next (s.fault .scalar ⟨cTRANSLATION, 5, x⟩))

/-- R130, R131, R132: `brp` pushes an entry and splits the active mask, `join` starts the pending path or pops, `bany` and `ball` branch
the whole warp; `brp` at depth 32 and `join` away from its entry fault DIVERGENCE_DEPTH. -/
def Obligations.DivergenceResults : Prop :=
  ∀ (s : State) (p : BitVec 3) (g j : BitVec 11),
    let w := s.warp
    let T := w.active &&& s.readP p
    let F := w.active &&& ~~~(s.readP p)
    let changed := fun (t : State) (pc : BitVec 48) (stack : List StackEntry) (active : Word) (mode : DWord) =>
      RetiredAt s t pc ∧ t.warp.settled = { w.settled with stack := stack, active := active, mode := mode }
        ∧ OnlyWarp s t ∧ SameMemory s t
    (w.stack.length < 32 →
      ∃ t, exec (.brp p g j) s = .next t ∧
        (if F = 0 then changed t (branchTo s g) (⟨branchTo s j, branchTo s g, 0, w.active, w.mode⟩ :: w.stack) w.active w.mode
         else if T = 0 then changed t s.nextPc (⟨branchTo s j, branchTo s g, 0, w.active, w.mode⟩ :: w.stack) w.active w.mode
         else changed t s.nextPc (⟨branchTo s j, branchTo s g, T, w.active, w.mode⟩ :: w.stack) F w.mode))
    ∧ (w.stack.length = 32 → exec (.brp p g j) s = .next (s.fault .scalar depthFault))
    ∧ (∀ e rest, w.stack = e :: rest → e.jpc = w.pc →
        ∃ t, exec .join s = .next t ∧
          (if e.pmask ≠ 0 then changed t e.ppc ({ e with pmask := 0 } :: rest) e.pmask e.mode
           else changed t s.nextPc rest e.jmask e.mode))
    ∧ ((∀ e ∈ w.stack.head?, e.jpc ≠ w.pc) → exec .join s = .next (s.fault .scalar depthFault))
    ∧ (∃ t, exec (.bany p g) s = .next t ∧ NothingWritten s t (if T ≠ 0 then branchTo s g else s.nextPc))
    ∧ (∃ t, exec (.ball p g) s = .next t ∧ NothingWritten s t (if T = w.active then branchTo s g else s.nextPc))

namespace Sys2Proof.Claims

/-- The instructions that only compute on scalars and their shadows, or branch on them: majors 0x00-0x07, the scalar interval
instructions, `bcc`, `bcci`, `jmp` and `call`. -/
def scalarFamily (i : Instr) : Bool :=
  match encode i with
  | none => false
  | some w => (field w 25 6).toNat ≤ 7 || (match i with
    | .iwidenUS _ => true | .iwidenLS _ => true | .iwidenBS _ => true | .iclampS _ _ _ => true | .ishqS _ _ => true
    | .bcc _ _ _ _ => true | .bcci _ _ _ _ => true | .jmp _ => true | .call _ => true
    | _ => false)

end Sys2Proof.Claims

/-- R24 for the scalar registers: no instruction that computes on scalars, widens or clamps an interval or refines one on a branch
leaves a bounded shadow that its register violates. -/
def Obligations.ScalarShadowsStaySound : Prop :=
  ∀ (i : Instr) (s t : State), wellFormed i = true → scalarFamily i = true → s.scalarsSound → exec i s = .next t → t.scalarsSound

/-! ## Vector instructions -/

namespace Sys2Proof.Claims

/-- An instruction with a vector destination: the vector registers its word names, whether its type class takes the ET, whether it
is a rounding instruction, its element width, element j of lane L, that element's flags, and the computed shadow. -/
structure VRow where
  instr : Instr
  regs : List (BitVec 7)
  etOk : Bool
  rounds : Bool
  w : Nat
  el : Nat → Nat → Nat
  fl : Nat → Nat → BitVec 8
  sh : Shadow

/-- The conditions under which a vector instruction executes: registers below VARCH (R21), an ET of its class (R148), RM 0-5 when it
rounds (R153), a destination that is not pinned (R152). -/
def VRow.Executes (r : VRow) (s : State) (d : BitVec 7) : Prop :=
  s.beyondVarch r.regs = false ∧ r.etOk = true ∧ (r.rounds = true → s.rm < 6) ∧ s.pinned d = false

/-- `t` is `s` after a vector instruction with active lanes: element j of every active lane is as given, the other lanes and
registers are as before (R149), the flags of the elements of the active lanes are merged, XS advances when it rounds (R103). -/
def VRow.Writes (r : VRow) (s t : State) (d : BitVec 7) : Prop :=
  (∃ x f, VectorWritten s t d x r.sh f r.rounds)
    ∧ (∀ i : Fin 32, s.effMask.getLsbD i = true → ∀ j, j < 32 / r.w →
        elem r.w ((t.readV d).get i) j = r.el i j % 2 ^ r.w)
    ∧ (∀ k, t.warp.flg.getLsbD k = (s.warp.flg.getLsbD k
        || (lanesOf s.effMask).any fun i => (range 0 (32 / r.w)).any fun j => (r.fl i j).getLsbD k))

/-- R91: width and signedness of an element type 0-5; the width of a floating one. -/
def width (et : Nat) : Nat :=
  if et = 2 ∨ et = 3 ∨ et = 7 ∨ et = 8 then 16 else if et = 0 ∨ et = 1 ∨ et = 6 then 32 else 8

/-- R91: an element's value. -/
def intValue (et bits : Nat) : Int :=
  if et % 2 = 0 ∧ 2 ^ (width et - 1) ≤ bits then (bits : Int) - 2 ^ width et else bits

/-- R91: the ends of an integer type's range. -/
def intEnds (et : Nat) : Int × Int :=
  if et % 2 = 0 then (-(2 ^ (width et - 1)), 2 ^ (width et - 1) - 1) else (0, 2 ^ width et - 1)

/-- R92: an exact integer narrowed, as bits, and the flag: OF is bit 2, SA bit 5 (R33). -/
def narrowed (et : Nat) (sat : Bool) (x : Int) : Nat × BitVec 8 :=
  let inside := (intEnds et).1 ≤ x ∧ x ≤ (intEnds et).2
  let y := if sat then max (intEnds et).1 (min x (intEnds et).2) else x
  ((y % 2 ^ width et).toNat, if inside then 0 else if sat then 0x20 else 0x04)

/-- R151 point 1: only I32 has an interval. -/
def onI32 (et : Nat) (sh : Shadow) : Shadow := if et = 0 then sh else .unbounded

/-- R21: element j of lane L of a vector register, as bits. -/
def bitsAt (s : State) (w : Nat) (r : BitVec 7) (i j : Nat) : Nat := elem w (lane (s.readV r) i) j

/-- A member of the integer class that narrows (R92), or does not. -/
def integerRow (s : State) (instr : Instr) (regs : List (BitVec 7)) (sh : Shadow) (t : Nat → Nat → Int) : VRow :=
  ⟨instr, regs, s.et ≤ 5, false, width s.et, fun i j => (narrowed s.et s.sat (t i j)).1,
    fun i j => (narrowed s.et s.sat (t i j)).2, onI32 s.et sh⟩

/-- A member of the bitwise class: no flags. -/
def bitwiseRow (s : State) (instr : Instr) (regs : List (BitVec 7)) (sh : Shadow) (f : Nat → Nat → Nat) : VRow :=
  ⟨instr, regs, s.et ≤ 10, false, width s.et, f, fun _ _ => 0, onI32 s.et sh⟩

/-- A member of the untyped class on whole lanes: no flags. -/
def laneRow (instr : Instr) (regs : List (BitVec 7)) (sh : Shadow) (f : Nat → Word) : VRow :=
  ⟨instr, regs, true, false, 32, fun i _ => (f i).toNat, fun _ _ => 0, sh⟩

/-- R154-R156, R158, R159: the rows of the integer and bitwise classes. -/
def integerRows (s : State) (d a b : BitVec 7) (i : BitVec 11) (n : BitVec 5) : List VRow :=
  let w := width s.et
  let A := s.shadowV a
  let B := s.shadowV b
  let D := s.shadowV d
  let va := fun l j => intValue s.et (bitsAt s w a l j)
  let vb := fun l j => intValue s.et (bitsAt s w b l j)
  let vd := fun l j => intValue s.et (bitsAt s w d l j)
  let ba := fun l j => bitsAt s w a l j
  let bb := fun l j => bitsAt s w b l j
  let right := fun (x k : Nat) => if k < w then x / 2 ^ k else 0
  let left := fun (x k : Nat) => if k < w then x * 2 ^ k % 2 ^ w else 0
  let arith := fun (x k : Nat) =>
    (((if 2 ^ (w - 1) ≤ x then (x : Int) - 2 ^ w else x) / 2 ^ (min k (w - 1))) % 2 ^ w).toNat
  [integerRow s (.vadd d a b) [d, a, b] (from2 A B fun l h l' h' => (l + l', h + h')) fun l j => va l j + vb l j,
   integerRow s (.vsub d a b) [d, a, b] (from2 A B fun l h l' h' => (l - h', h - l')) fun l j => va l j - vb l j,
   integerRow s (.vmul d a b) [d, a, b] (from2 A B products) fun l j => va l j * vb l j,
   ⟨.vmulh d a b, [d, a, b], s.et ≤ 5, false, w, fun l j => ((va l j * vb l j) / 2 ^ w % 2 ^ w).toNat, fun _ _ => 0,
     .unbounded⟩,
   integerRow s (.vmin d a b) [d, a, b] (from2 A B fun l h l' h' => (min l l', min h h')) fun l j => min (va l j) (vb l j),
   integerRow s (.vmax d a b) [d, a, b] (from2 A B fun l h l' h' => (max l l', max h h')) fun l j => max (va l j) (vb l j),
   integerRow s (.vmad d a b) [d, a, b]
     (productPlus A B D) fun l j => va l j * vb l j + vd l j,
   integerRow s (.vabs d a) [d, a] .unbounded fun l j => if va l j < 0 then - va l j else va l j,
   integerRow s (.vneg d a) [d, a] (from1 A fun l h => (-h, -l)) fun l j => 0 - va l j,
   integerRow s (.vaddi d a i) [d, a] (from1 A fun l h => (l + i.toInt, h + i.toInt)) fun l j => va l j + i.toInt,
   bitwiseRow s (.vshl d a b) [d, a, b] .unbounded fun l j => left (ba l j) (bb l j),
   bitwiseRow s (.vshr d a b) [d, a, b] .unbounded fun l j => right (ba l j) (bb l j),
   bitwiseRow s (.vsra d a b) [d, a, b] .unbounded fun l j => arith (ba l j) (bb l j),
   bitwiseRow s (.vshli d a n) [d, a] (from1 A fun l h => (l * 2 ^ n.toNat, h * 2 ^ n.toNat)) fun l j => left (ba l j) n.toNat,
   bitwiseRow s (.vshri d a n) [d, a]
     (match A with
      | .bounded l _ => if 0 ≤ l then from1 A fun l h => (l / 2 ^ n.toNat, h / 2 ^ n.toNat) else .unbounded
      | .unbounded => .unbounded) fun l j => right (ba l j) n.toNat,
   bitwiseRow s (.vsrai d a n) [d, a] (from1 A fun l h => (l / 2 ^ n.toNat, h / 2 ^ n.toNat)) fun l j => arith (ba l j) n.toNat,
   bitwiseRow s (.vpopc d a) [d, a] .unbounded fun l j => ((List.range w).filter fun k => ba l j / 2 ^ k % 2 = 1).length,
   bitwiseRow s (.vclz d a) [d, a] .unbounded fun l j => if ba l j = 0 then w else w - 1 - Nat.log2 (ba l j),
   bitwiseRow s (.vbrev d a) [d, a] .unbounded fun l j =>
     ((List.range w).map fun k => ba l j / 2 ^ k % 2 * 2 ^ (w - 1 - k)).sum]

/-- R157, R160, R162, R175: the rows of the untyped class. -/
def laneRows (s : State) (d a b : BitVec 7) (i : BitVec 11) (k : BitVec 18) (p : BitVec 3) : List VRow :=
  let A := s.shadowV a
  let x := fun l => lane (s.readV a) l
  let y := fun l => lane (s.readV b) l
  let n := ((s.readS b).extractLsb' 0 5).toNat
  [laneRow (.vand d a b) [d, a, b] .unbounded fun l => x l &&& y l,
   laneRow (.vor d a b) [d, a, b] .unbounded fun l => x l ||| y l,
   laneRow (.vxor d a b) [d, a, b] .unbounded fun l => x l ^^^ y l,
   laneRow (.vandn d a b) [d, a, b] .unbounded fun l => x l &&& ~~~(y l),
   laneRow (.vandi d a i) [d, a]
     (if i.toInt < 0 then .unbounded
      else from1 A fun l h => if 0 ≤ l then (0, min h i.toInt) else (0, i.toInt)) fun l => x l &&& i.signExtend 32,
   laneRow (.vmov d a) [d, a] A x,
   laneRow (.vlane d) [d] (.bounded 0 31) fun l => BitVec.ofNat 32 l,
   laneRow (.vmovi d k) [d] (.bounded k.toInt k.toInt) fun _ => k.signExtend 32,
   laneRow (.vbcast d a) [d] (s.shadowS a) fun _ => (s.readS a).extractLsb' 0 32,
   laneRow (.vsel d a b p) [d, a, b] (A.hull (s.shadowV b)) fun l => if (s.readP p).getLsbD l then x l else y l,
   laneRow (.vshfl d a b) [d, a, b] A fun l => x ((y l).extractLsb' 0 5).toNat,
   laneRow (.vshflx d a b) [d, a] A fun l => x (l ^^^ n),
   laneRow (.vrot d a b) [d, a] A fun l => x ((l + n) % 32)]

/-- A member of the floating class. -/
def floatRow (s : State) (instr : Instr) (regs : List (BitVec 7)) (rounds : Bool) (f : Nat → Nat → Nat × BitVec 8) : VRow :=
  ⟨instr, regs, 6 ≤ s.et && s.et ≤ 10, rounds, width s.et, fun i j => (f i j).1, fun i j => (f i j).2, .unbounded⟩

/-- R165-R168, R170: the rows of the floating class, in terms of the format's operations. -/
def floatRows (s : State) (d a b : BitVec 7) : List VRow :=
  let f := fmtOf s.et
  let w := width s.et
  let A := fun i j => f.read s.dz (bitsAt s w a i j)
  let B := fun i j => f.read s.dz (bitsAt s w b i j)
  let C := fun i j => f.read s.dz (bitsAt s w d i j)
  let r := fun i j => randAt s.draw (4 * i + j)
  let ba := fun i j => bitsAt s w a i j
  let fused := fun (negP negC : Bool) (i j : Nat) => f.fma s.rm (r i j) s.dz negP negC (A i j) (B i j) (C i j)
  let approx := fun (fn : Fn) (i j : Nat) => f.approximate s.et s.dz fn (ba i j)
  [floatRow s (.vfadd d a b) [d, a, b] true fun i j => f.sum s.rm (r i j) s.dz [A i j, B i j],
   floatRow s (.vfsub d a b) [d, a, b] true fun i j => f.sum s.rm (r i j) s.dz [A i j, (B i j).neg],
   floatRow s (.vfmul d a b) [d, a, b] true fun i j => f.mul s.rm (r i j) s.dz (A i j) (B i j),
   floatRow s (.vfma d a b) [d, a, b] true (fused false false),
   floatRow s (.vfms d a b) [d, a, b] true (fused false true),
   floatRow s (.vfnma d a b) [d, a, b] true (fused true false),
   floatRow s (.vfnms d a b) [d, a, b] true (fused true true),
   floatRow s (.vfmin d a b) [d, a, b] false fun i j => (f.minMax true s.dz (ba i j) (bitsAt s w b i j), 0),
   floatRow s (.vfmax d a b) [d, a, b] false fun i j => (f.minMax false s.dz (ba i j) (bitsAt s w b i j), 0),
   floatRow s (.vfdiv d a b) [d, a, b] true fun i j => f.div s.rm (r i j) s.dz (A i j) (B i j),
   floatRow s (.vfabs d a) [d, a] false fun i j => (ba i j % 2 ^ (w - 1), 0),
   floatRow s (.vfneg d a) [d, a] false fun i j => ((ba i j + 2 ^ (w - 1)) % 2 ^ w, 0),
   floatRow s (.vfsqrt d a) [d, a] true fun i j => f.sqrt s.rm (r i j) s.dz (A i j),
   floatRow s (.vfrnd d a) [d, a] true fun i j => f.rnd s.rm (r i j) s.dz (A i j),
   floatRow s (.vfclass d a) [d, a] false fun i j => (f.classOf (ba i j), 0),
   floatRow s (.vfrcp d a) [d, a] false (approx .rcp),
   floatRow s (.vfrsq d a) [d, a] false (approx .rsq),
   floatRow s (.vfexp2 d a) [d, a] false (approx .exp2),
   floatRow s (.vflog2 d a) [d, a] false (approx .log2),
   floatRow s (.vfsin d a) [d, a] false (approx .sin),
   floatRow s (.vfcos d a) [d, a] false (approx .cos)]

/-- R163, R177: `vcvt` and `vscan`. -/
def convertRows (s : State) (d a : BitVec 7) (t : BitVec 4) : List VRow :=
  let c := min (32 / width s.et) (32 / width t.toNat)
  let cv := fun i j => if j < c
    then convert s.et t.toNat s.rm (randAt s.draw (4 * i + j)) s.sat s.dz (bitsAt s (width s.et) a i j) else (0, 0)
  let before := fun (i : Nat) => (lanesOf s.effMask).filter fun l => l ≤ i
  let scanned := fun (i j : Nat) =>
    if s.et = 6 then ((scanFloats s a (lanesOf s.effMask) none).lookup i).getD (0, 0)
    else narrowed s.et s.sat ((before i).map fun l => intValue s.et (bitsAt s (width s.et) a l j)).sum
  [⟨.vcvt d a t, [d, a], s.et ≤ 10, 6 ≤ s.et || 6 ≤ t.toNat, width t.toNat, fun i j => (cv i j).1, fun i j => (cv i j).2,
     if s.et = 0 ∧ t = 0 then s.shadowV a else .unbounded⟩,
   ⟨.vscan d a, [d, a], s.et ≤ 6, s.et == 6, width s.et, fun i j => (scanned i j).1, fun i j => (scanned i j).2, .unbounded⟩]

/-- Every row with a vector destination. -/
def vectorRows (s : State) (d a b : BitVec 7) (i : BitVec 11) (n : BitVec 5) (k : BitVec 18) (p : BitVec 3) (t : BitVec 4) :
    List VRow :=
  integerRows s d a b i n ++ laneRows s d a b i k p ++ floatRows s d a b ++ convertRows s d a t

/-- A vector or predicate instruction with a predicate destination: the registers, whether its class takes the ET, the bits and the
flags. -/
structure PRow where
  instr : Instr
  regs : List (BitVec 7)
  etOk : Bool
  bits : Nat → Bool
  flags : BitVec 8

/-- R164, R171, R173: the rows with a predicate destination. -/
def predRows (s : State) (d a b : BitVec 7) (c : BitVec 4) : List PRow :=
  let x := fun i => lane (s.readV a) i
  let y := fun i => lane (s.readV b) i
  let cc := fun (u v : Word) => match c.toNat with
    | 0 => u == v
    | 1 => u != v
    | 2 => decide (u.toInt < v.toInt)
    | 3 => decide (v.toInt ≤ u.toInt)
    | 4 => decide (u.toNat < v.toNat)
    | _ => decide (v.toNat ≤ u.toNat)
  let rel := fun i => floatRelation c.toNat (F32.read s.dz (x i).toNat) (F32.read s.dz (y i).toNat)
  let P := s.readP a
  let Q := s.readP b
  [⟨.vcmp d a b c, [a, b], true, fun i => cc (x i) (y i), 0⟩,
   ⟨.vfcmp d a b c, [a, b], s.et == 6, fun i => (rel i).1, (lanesOf s.effMask).foldl (fun f i => f ||| (rel i).2) 0⟩,
   ⟨.pand d a b, [], true, fun i => P.getLsbD i && Q.getLsbD i, 0⟩,
   ⟨.por d a b, [], true, fun i => P.getLsbD i || Q.getLsbD i, 0⟩,
   ⟨.pxor d a b, [], true, fun i => P.getLsbD i != Q.getLsbD i, 0⟩,
   ⟨.pnot d a, [], true, fun i => !P.getLsbD i, 0⟩,
   ⟨.pandn d a b, [], true, fun i => P.getLsbD i && !Q.getLsbD i, 0⟩,
   ⟨.pset d a, [], true, fun i => (s.readS a).getLsbD i, 0⟩]

/-- A vector or predicate instruction with a scalar destination. -/
structure SRow where
  instr : Instr
  regs : List (BitVec 7)
  etOk : Bool
  rounds : Bool
  value : DWord
  sh : Shadow
  flags : BitVec 8

/-- The integer elements of the active lanes (R176). -/
def elements (s : State) (a : BitVec 7) : List Int :=
  (lanesOf s.effMask).flatMap fun i => (range 0 (32 / width s.et)).map fun j => intValue s.et (bitsAt s (width s.et) a i j)

/-- R161, R174, R176: the rows with a scalar destination. -/
def toScalarRows (s : State) (d a b : BitVec 7) : List SRow :=
  let P := s.readP a &&& s.effMask
  let sum := narrowed s.et s.sat (elements s a).sum
  let f32 := (lanesOf s.effMask).map fun i => (lane (s.readV a) i).toNat
  let extreme := fun (least : Bool) =>
    if s.et = 6 then BitVec.ofNat 64 (match f32 with
      | [] => 0
      | [x] => F32.minMax least s.dz x x
      | x :: rest => rest.foldl (F32.minMax least s.dz) x)
    else BitVec.ofInt 64 (match elements s a with
      | [] => 0
      | x :: rest => rest.foldl (if least then min else max) x)
  [⟨.vextr d a b, [a], true, false, (lane (s.readV a) ((s.readS b).extractLsb' 0 5).toNat).signExtend 64, s.shadowV a, 0⟩,
   ⟨.pget d a, [], true, false, (s.readP a).setWidth 64, .unbounded, 0⟩,
   ⟨.ppopc d a, [], true, false, BitVec.ofNat 64 ((List.range 32).filter fun i => P.getLsbD i).length, .bounded 0 32, 0⟩,
   ⟨.pfirst d a, [], true, false, BitVec.ofNat 64 (((List.range 32).find? fun i => P.getLsbD i).getD 32), .bounded 0 32, 0⟩,
   ⟨.vredadd d a, [a], s.et ≤ 6, s.et == 6,
     if s.et = 6 then BitVec.ofNat 64 ((treeNode s a 5 0).1.getD 0) else BitVec.ofInt 64 (intValue s.et sum.1), .unbounded,
     if s.et = 6 then (treeNode s a 5 0).2 else sum.2⟩,
   ⟨.vredmin d a, [a], s.et ≤ 6, false, extreme true, if s.et = 0 then s.shadowV a else .unbounded, 0⟩,
   ⟨.vredmax d a, [a], s.et ≤ 6, false, extreme false, if s.et = 0 then s.shadowV a else .unbounded, 0⟩]

/-- What a vector instruction does when it executes: its lanes written, or, with no lane active, nothing (R48). -/
def VRow.Completes (r : VRow) (s : State) (d : BitVec 7) : Prop :=
  r.Executes s d → ∃ t, exec r.instr s = .next t ∧
    (s.effMask ≠ 0 → r.Writes s t d) ∧ (s.effMask = 0 → NothingWritten s t s.nextPc)

end Sys2Proof.Claims

/-- R154-R156, R158, R159: the integer and bitwise vector instructions write every element of every active lane as their row says, with
its flags and shadow, and nothing else; with no lane active they do nothing. -/
def Sys2Proof.Claims.VectorIntegerResults : Prop :=
  ∀ (s : State) (d a b : BitVec 7) (i : BitVec 11) (n : BitVec 5), ∀ row ∈ integerRows s d a b i n, row.Completes s d

/-- R157, R160, R162, R175: the untyped vector instructions write whole lanes. -/
def Sys2Proof.Claims.VectorLaneResults : Prop :=
  ∀ (s : State) (d a b : BitVec 7) (i : BitVec 11) (k : BitVec 18) (p : BitVec 3), ∀ row ∈ laneRows s d a b i k p, row.Completes s d

/-- R165-R168, R170: the floating vector instructions write the format's result of every element, merge its flags, and advance XS once
when they round under RM = SR. (What R168 leaves open of an approximate function is a free value, log 8.) -/
def Sys2Proof.Claims.VectorFloatResults : Prop :=
  ∀ (s : State) (d a b : BitVec 7), ∀ row ∈ floatRows s d a b, row.Completes s d

/-- R163, R177: `vcvt` converts the elements both types have and clears the rest; `vscan` writes the inclusive prefix over the active
lanes. -/
def Sys2Proof.Claims.ConvertAndScanResults : Prop :=
  ∀ (s : State) (d a : BitVec 7) (t : BitVec 4), ∀ row ∈ convertRows s d a t, row.Completes s d

/-- R164, R171, R173: a comparison or a predicate instruction writes the bits of the active lanes of pd and keeps the others; a write to
p7 is discarded. -/
def Sys2Proof.Claims.PredicateResults : Prop :=
  ∀ (s : State) (d a b : BitVec 7) (c : BitVec 4), ∀ row ∈ predRows s d a b c,
    s.beyondVarch row.regs = false → row.etOk = true →
    ∃ t, exec row.instr s = .next t ∧
      (s.effMask ≠ 0 → ∃ x, PredWritten s t d x row.flags ∧ ∀ i, i < 32 → x.getLsbD i = row.bits i)
      ∧ (s.effMask = 0 → NothingWritten s t s.nextPc)

/-- R161, R174, R176: a vector or predicate instruction with a scalar destination writes it with its shadow and flags; a rounding one
advances XS besides. (What becomes of a lone lane's NaN is the model's reading, log 10.) -/
def Sys2Proof.Claims.VectorToScalarResults : Prop :=
  ∀ (s : State) (d a b : BitVec 7), ∀ row ∈ toScalarRows s d a b,
    s.beyondVarch row.regs = false → row.etOk = true → (row.rounds = true → s.rm < 6) →
    ∃ t, exec row.instr s = .next t ∧
      (s.effMask ≠ 0 → ScalarWritten (if row.rounds then s.advanceXs else s) t d row.value row.sh row.flags)
      ∧ (s.effMask = 0 → NothingWritten s t s.nextPc)

/-- R21, R52, R148, R152, R153, R178, R48: whatever the mask, a vector instruction that names a register beyond VARCH faults ILLEGAL,
and else one of a wrong ET, a reserved RM or a pinned destination faults ILLEGAL_IN_MODE. -/
def Obligations.VectorFaults : Prop :=
  ∀ (s : State) (d a b : BitVec 7) (i : BitVec 11) (n : BitVec 5) (k : BitVec 18) (p : BitVec 3) (t c : BitVec 4),
    (∀ row ∈ vectorRows s d a b i n k p t,
      (s.beyondVarch row.regs = true → exec row.instr s = .next (s.fault .lanes illegal))
      ∧ (s.beyondVarch row.regs = false → (row.etOk = false ∨ (row.rounds = true ∧ 6 ≤ s.rm) ∨ s.pinned d = true) →
          exec row.instr s = .next (s.fault .lanes inMode)))
    ∧ (∀ row ∈ predRows s d a b c,
      (s.beyondVarch row.regs = true → exec row.instr s = .next (s.fault .lanes illegal))
      ∧ (s.beyondVarch row.regs = false → row.etOk = false → exec row.instr s = .next (s.fault .lanes inMode)))
    ∧ (∀ row ∈ toScalarRows s d a b,
      (s.beyondVarch row.regs = true → exec row.instr s = .next (s.fault .lanes illegal))
      ∧ (s.beyondVarch row.regs = false → (row.etOk = false ∨ (row.rounds = true ∧ 6 ≤ s.rm)) →
          exec row.instr s = .next (s.fault .lanes inMode)))

/-! ## Mode and system instructions -/

namespace Sys2Proof.Claims

/-- `t` is `s` with the warp `w`, which has retired its instruction and goes on at `pc`; nothing else has changed. -/
structure WarpBecomes (s t : State) (w : Warp) (pc : BitVec 48) : Prop where
  retired : RetiredAt s t pc
  rest : t.warp.settled = w.settled
  only : OnlyWarp s t
  memory : SameMemory s t

/-- R29: MODE's reserved bits. -/
def reservedModeBit (k : Nat) : Bool := 40 ≤ k || k = 31 || k = 30 || k = 19

/-- R142's table: the lowest bit and the width of the MODE field an `mseti` code names. -/
def modeFields : List (BitVec 4 × Nat × Nat) :=
  [(0, 0, 3), (1, 3, 4), (2, 7, 3), (3, 10, 1), (4, 11, 1), (5, 12, 3), (6, 15, 3), (7, 18, 1), (8, 20, 10), (9, 32, 8)]

/-- R38's table: a system register's number, the value `srd` reads and its shadow. -/
def systemRows (s : State) : List (BitVec 7 × DWord × Shadow) :=
  let w := s.warp
  let num := fun (x : Nat) => BitVec.ofNat 64 x
  let feat := fun (f : Region → DWord) => match s.region? w.rid with | some r => f r | none => 0
  [(0x00, (match w.index with | some i => num i | none => 255), (match w.index with | some _ => .bounded 0 15 | none => .bounded 255 255)),
   (0x01, num w.block, .bounded 0 3),
   (0x02, num w.gang, .unbounded),
   (0x03, num (w.pcn % 4), .bounded 0 3),
   (0x04, num (w.pcn / 4 % 16), .bounded 0 15),
   (0x05, num (w.pcn / 64), .bounded 0 3),
   (0x06, num w.cw, .bounded 0 31),
   (0x07, num w.stack.length, .bounded 0 32),
   (0x10, num s.clock + w.clkOff, .unbounded),
   (0x11, num (s.gtime + (match s.region? w.rid with | some r => r.gtimeOff | none => 0)), .unbounded),
   (0x20, feat fun r => r.feat[0], .unbounded),
   (0x21, feat fun r => r.feat[1], .unbounded),
   (0x22, feat fun r => r.feat[2], .unbounded),
   (0x23, feat fun r => r.feat[3], .unbounded),
   (0x24, feat Region.miggen, .unbounded),
   (0x30, w.xpc.setWidth 64, .unbounded),
   (0x31, w.xmask.setWidth 64, .unbounded),
   (0x32, w.xcause.setWidth 64, .unbounded),
   (0x33, w.xrec, .unbounded),
   (0x34, w.xrep.setWidth 64, .unbounded)]

/-- R37, R38, R144: the warp after a write of `x` to a writable system register. -/
def systemWrites (w : Warp) (x : DWord) : List (BitVec 7 × Warp) :=
  [(0x30, { w with xpc := x.extractLsb' 0 48 }),
   (0x31, { w with xmask := x.extractLsb' 0 32 }),
   (0x32, { w with xcause := x.extractLsb' 0 16 }),
   (0x33, { w with xrec := (x.extractLsb' 0 54).setWidth 64 })]

end Sys2Proof.Claims

/-- R142, R143: `mset` writes MODE with its reserved bits zero, `mseti` one field of it, `mget` reads it. -/
def Sys2Proof.Claims.ModeResults : Prop :=
  ∀ (s : State) (a d v w : BitVec 7),
    (∃ t, exec (.mset a) s = .next t ∧ WarpBecomes s t { s.warp with mode := t.warp.mode } s.nextPc
      ∧ ∀ k, t.warp.mode.getLsbD k = (!reservedModeBit k && (s.readS a).getLsbD k))
    ∧ (∀ row ∈ modeFields, ∃ t, exec (.mseti v w row.1) s = .next t
      ∧ WarpBecomes s t { s.warp with mode := t.warp.mode } s.nextPc
      ∧ ∀ k, t.warp.mode.getLsbD k =
        if row.2.1 ≤ k ∧ k < row.2.1 + row.2.2 then (v.toNat * 128 + w.toNat).testBit (k - row.2.1)
        else (!reservedModeBit k && s.warp.mode.getLsbD k))
    ∧ (∃ t, exec (.mget d) s = .next t ∧ ScalarWritten s t d s.warp.mode .unbounded 0)

/-- R38, R144: `srd` reads every listed system register with its shadow and `swr` writes every writable one, keeping its defined bits;
`swr` of XREP sets the repetition at which a `rep` resumes. -/
def Sys2Proof.Claims.SystemRegisterResults : Prop :=
  ∀ (s : State) (d a : BitVec 7),
    (∀ row ∈ systemRows s, ∃ t, exec (.srd d row.1) s = .next t ∧ ScalarWritten s t d row.2.1 row.2.2 0)
    ∧ (∀ row ∈ systemWrites s.warp (s.readS a), ∃ t, exec (.swr row.1 a) s = .next t ∧ WarpBecomes s t row.2 s.nextPc)
    ∧ (s.warp.rep = none → ∃ t, exec (.swr 0x34 a) s = .next t ∧ t.warp.xrep = (s.readS a).extractLsb' 0 6
        ∧ t.warp.pc = s.warp.pc + 4 ∧ t.warp.settled = s.warp.settled ∧ OnlyWarp s t ∧ SameMemory s t)

/-- R144, R38: `srd` and `swr` of an unlisted number fault ILLEGAL, `swr` of a read-only one faults PRIVILEGE. -/
def Sys2Proof.Claims.SystemRegisterFaults : Prop :=
  ∀ (s : State) (d a n : BitVec 7),
    ((∀ row ∈ systemRows s, row.1 ≠ n) →
      exec (.srd d n) s = .next (s.fault .scalar illegal) ∧ exec (.swr n a) s = .next (s.fault .scalar illegal))
    ∧ ((∃ row ∈ systemRows s, row.1 = n) → n.toNat < 0x30 → exec (.swr n a) s = .next (s.fault .scalar ⟨cPRIVILEGE, 0, 0⟩))

/-- R139, R140, R145, R146, R147: `flgr`, `flgc`, `xseed`, `pmark`, `tfence` and `nop`. -/
def Sys2Proof.Claims.FlagAndCounterResults : Prop :=
  ∀ (s : State) (d a : BitVec 7) (n : BitVec 3),
    (∃ t, exec (.flgr d) s = .next t ∧ ScalarWritten s t d (s.warp.flg.setWidth 64) .unbounded 0)
    ∧ (∃ t, exec (.flgc a) s = .next t ∧ WarpBecomes s t { s.warp with flg := t.warp.flg } s.nextPc
        ∧ ∀ k, t.warp.flg.getLsbD k = (s.warp.flg.getLsbD k && !(s.readS a).getLsbD k))
    ∧ (∃ t, exec (.xseed a) s = .next t ∧ WarpBecomes s t { s.warp with
        xs0 := s.readS a
        xs1 := if s.readS a = 0 ∧ s.readS (a + 1) = 0 then 0x9E3779B97F4A7C15#64 else s.readS (a + 1) } s.nextPc)
    ∧ (∃ t, exec (.pmark n) s = .next t ∧ Retired s t ∧ t.warp.settled = s.warp.settled
        ∧ t = { s with warp := t.warp, cores := t.cores }
        ∧ (t.core s.warp.pcn).pmark = s.myCore.pmark.set n.toNat (s.myCore.pmark.get ⟨n.toNat, n.isLt⟩ + 1) n.isLt
        ∧ t.core s.warp.pcn = { s.myCore with pmark := (t.core s.warp.pcn).pmark }
        ∧ (∀ pcn, pcn ≠ s.warp.pcn → t.core pcn = s.core pcn) ∧ SameMemory s t)
    ∧ ((∀ k, k < 8 → (s.warp.flg.getLsbD k && s.warp.mode.getLsbD (32 + k)) = false) →
        ∃ t, exec .tfence s = .next t ∧ NothingWritten s t s.nextPc)
    ∧ ((∃ k, k < 8 ∧ (s.warp.flg.getLsbD k && s.warp.mode.getLsbD (32 + k)) = true) →
        exec .tfence s = .next (s.fault .scalar ⟨cARITH, 0, 0⟩))
    ∧ (∃ t, exec .nop s = .next t ∧ NothingWritten s t s.nextPc)

/-! ## The repeat prefix -/

namespace Sys2Proof.Claims

/-- R134's table: the stepped fields of a format: lowest bit and width of d's, a's and b's field. -/
def steppedFields (major : Nat) : Option (Nat × Nat) × Option (Nat × Nat) × Option (Nat × Nat) :=
  if major ∈ [0x00, 0x01, 0x08, 0x14, 0x15, 0x16, 0x17, 0x20, 0x21, 0x22, 0x28, 0x29, 0x3C] then (some (18, 7), some (11, 7), some (4, 7))
  else if major ∈ [0x02, 0x03, 0x04, 0x05, 0x19, 0x1A, 0x1B] then (some (18, 7), some (11, 7), none)
  else if major ∈ [0x06, 0x07, 0x18] then (some (18, 7), none, none)
  else if major = 0x3E then (some (18, 2), some (14, 4), some (7, 7))
  else if major ∈ [0x2C, 0x2D, 0x2E, 0x2F, 0x30, 0x31, 0x32, 0x34, 0x35, 0x36] then (some (18, 7), some (14, 4), some (7, 7))
  else if major = 0x3D then (some (18, 7), some (16, 2), some (9, 6))
  else if major ∈ [0x33, 0x37, 0x38, 0x39, 0x3A] then (some (18, 7), some (11, 7), none)
  else (none, none, none)

end Sys2Proof.Claims

/-- R136: a `rep` brings the following word from its home (R306); one that may be repeated begins its repetitions, or, with none left from
XREP on, sets XREP to 0 and goes on past the word; a word that may not be repeated faults REP_INVALID with its address. -/
def Sys2Proof.Claims.RepResults : Prop :=
  ∀ (s : State) (c : BitVec 6) (x y z : BitVec 3) (w : Word) (pa : Nat),
    let u := s.bringCode s.warp.pcn (s.warp.pc + 4).toNat
    u.fetchWord s.warp.pcn (s.warp.pc + 4).toNat = .ok (w, pa) →
    let n := c.toNat + 1
    let stride := fun (k : BitVec 3) => if k = 0 then 0 else 2 ^ (k.toNat - 1)
    u.warp = s.warp ∧ u.others = s.others
    ∧ (repeats s w n (stride x) (stride y) (stride z) = true →
      (s.warp.xrep.toNat < n →
        exec (.rep c x y z) s = .next { u with warp := { s.warp with
          rep := some ⟨n, stride x, stride y, stride z, w⟩, status := .ready, resumed := s.warp.resumedRep, resumedRep := false } })
      ∧ (n ≤ s.warp.xrep.toNat → s.warp.rep = none →
        ∃ t, exec (.rep c x y z) s = .next t ∧ t.warp.pc = s.warp.pc + 8 ∧ t.warp.xrep = 0 ∧ t.warp.rep = none
          ∧ t.warp.settled = s.warp.settled ∧ OnlyWarp u t ∧ SameMemory u t))
    ∧ (repeats s w n (stride x) (stride y) (stride z) = false →
        exec (.rep c x y z) s = .next (u.fault .scalar ⟨cREP, 0, (s.warp.pc + 4).setWidth 64⟩))

namespace Sys2Proof.Claims

/-- The value of a field of a word. -/
def fieldAt (w : Word) (f : Nat × Nat) : Nat := w.toNat / 2 ^ f.1 % 2 ^ f.2

/-- R134, R135: whether a field may be increased by a step: a step needs the field, and no wrap. -/
def fits (w : Word) (f : Option (Nat × Nat)) (step : Nat) : Prop :=
  step = 0 ∨ ∃ g, f = some g ∧ fieldAt w g + step < 2 ^ g.2

end Sys2Proof.Claims

/-- R134, R135: repetition j of a word is the word with each stepped field of its format increased by j × its stride, every other bit
kept; there is none when a step names no field or would leave the field's width. -/
def Sys2Proof.Claims.RepetitionWords : Prop :=
  ∀ (w : Word) (sd sa sb j : Nat), unrepeatable w = false →
    let F := steppedFields (majorOf w)
    (F.1.isSome = true →
      ((fits w F.1 (j * sd) ∧ fits w F.2.1 (j * sa) ∧ fits w F.2.2 (j * sb)) ↔ (repetition w sd sa sb j).isSome = true)
      ∧ ∀ x, repetition w sd sa sb j = some x →
        (∀ g ∈ F.1, fieldAt x g = fieldAt w g + j * sd)
        ∧ (∀ g ∈ F.2.1, fieldAt x g = fieldAt w g + j * sa)
        ∧ (∀ g ∈ F.2.2, fieldAt x g = fieldAt w g + j * sb)
        ∧ (∀ k, (∀ g ∈ F.1.toList ++ F.2.1.toList ++ F.2.2.toList, k < g.1 ∨ g.1 + g.2 ≤ k) → x.getLsbD k = w.getLsbD k))

namespace Sys2Proof.Claims

/-- R81: control flow, the barriers, the system instructions, `mxon` and `mxoff`. -/
def neverRepeated : Instr → Bool
  | .bcc .. | .bcci .. | .jmp .. | .call .. | .brp .. | .bany .. | .ball .. | .rep .. => true
  | .jmpi .. | .calli .. | .ret | .join | .tfence | .exit | .nop | .spawn .. | .spawnW .. | .launch .. => true
  | .bar .. | .bara .. | .gbar .. => true
  | .mset .. | .mseti .. | .mget .. | .srd .. | .swr .. | .flgr .. | .flgc .. | .xseed .. | .trap .. | .pmark .. | .bkpt
  | .tretR | .tretS | .tretX => true
  | .mxon .. | .mxoff => true
  | _ => false

end Sys2Proof.Claims

/-- R81, R135: a word may be repeated n times exactly when it is not control flow, a barrier, system, `mxon` or `mxoff`, and every
repetition is a word that decodes and names no vector register beyond VARCH; such a register makes any instruction ILLEGAL. -/
def Sys2Proof.Claims.RepeatableWords : Prop :=
  ∀ (s : State) (w : Word) (n sd sa sb : Nat), 0 < n →
    (repeats s w n sd sa sb = true ↔
      (∀ i, decode w = .ok i → neverRepeated i = false)
      ∧ (sd ≠ 0 → (steppedFields (majorOf w)).1.isSome = true) ∧ (sa ≠ 0 → (steppedFields (majorOf w)).2.1.isSome = true)
      ∧ (sb ≠ 0 → (steppedFields (majorOf w)).2.2.isSome = true)
      ∧ ∀ j, j < n → ∃ x i, repetition w sd sa sb j = some x ∧ decode x = .ok i ∧ s.beyondVarch (vectorRegs i) = false)
    ∧ (∀ i, s.beyondVarch (vectorRegs i) = true → ∃ site, exec i s = .next (s.fault site illegal))
    ∧ (∀ (d a b : BitVec 7) (i : BitVec 11) (m : BitVec 5) (k : BitVec 18) (p : BitVec 3) (t c : BitVec 4),
      (∀ row ∈ vectorRows s d a b i m k p t, ∀ r, r ∈ row.regs ↔ r ∈ vectorRegs row.instr)
      ∧ (∀ row ∈ predRows s d a b c, ∀ r, r ∈ row.regs ↔ r ∈ vectorRegs row.instr)
      ∧ ∀ row ∈ toScalarRows s d a b, ∀ r, r ∈ row.regs ↔ r ∈ vectorRegs row.instr)

/-! ## Faults, trap entry and return -/

namespace Sys2Proof.Claims

/-- The records a fault of lanes leaves: a record's lanes are exactly those of one cause, DETAIL and page. -/
def sameRecord (x y : Trouble) : Prop := x.cause = y.cause ∧ x.detail = y.detail ∧ x.addr.toNat / 4096 = y.addr.toNat / 4096

/-- R196: the warp after in-warp trap entry with the records `rs`, the first of them `r`. -/
def enteredWarp (w : Warp) (r : FaultRec) (rs : List FaultRec) : Warp :=
  { w with
    records := rs
    xpc := w.pc
    xmask := rs.foldl (fun m r => m ||| r.lanes) 0
    xcause := r.cause
    xrec := BitVec.ofNat 64 ((rs.length - 1) * 2 ^ 48 + w.recVa)
    pc := BitVec.ofNat 48 (w.khdr + w.trapvec)
    tdepth := w.stack.length
    repip := w.rep.isSome
    laneTrap := some (laneCause r.cause && !r.whole)
    rep := none, wait := none, pending := [], exclude := 0, rerun := false, resumed := false, resumedRep := false,
    ahead := [], status := .ready }

/-- R193: the record of a lane-independent fault, or of one of a scalar member. -/
def oneRecord (s : State) (site : Site) (t : Trouble) : FaultRec :=
  { cause := t.cause, writes := site.writes, whole := true, inRep := s.warp.rep.isSome
    count := popCount (if site.masked then s.effMask else s.warp.active)
    lanes := if site.masked then s.effMask else s.warp.active
    addr := t.addr
    pc := if s.warp.rep.isSome then s.warp.pc + 4 else s.warp.pc
    ordinal := s.ordinalOf s.warp.launch (if s.warp.rep.isSome then s.warp.pc + 4 else s.warp.pc).toNat
    areg := site.areg
    detail := BitVec.ofNat 8 t.detail
    repidx := if s.warp.rep.isSome then s.warp.xrep.setWidth 16 else 0 }

/-- The warp after `tret` (R198, R200): back at `pc`, in no handler. -/
def returnedWarp (w : Warp) (pc : BitVec 48) (xrep : BitVec 6) : Warp :=
  { w with pc := pc, xrep := xrep, rep := none, xcause := 0, repip := false, status := .ready, wait := none, pending := [],
           laneTrap := none, resumed := false, resumedRep := false }

end Sys2Proof.Claims

/-- R196: a fault of a cause the warp's own handler takes, when the kernel has a handler and XCAUSE is 0, enters the handler: XPC,
XMASK, XCAUSE and XREC are set, the pc is the header's address plus TRAPVEC, and the active mask, the stack, MODE, FLG, XS and every
other register are as before; the core writes the records to the record area's frames, as its stores write (how is the
model's choice, log 53; an area without a place takes none, log 91), and the other warps stand. -/
def Obligations.TrapEntry : Prop :=
  ∀ (s : State) (r : FaultRec) (rest : List FaultRec), inWarpCause r.cause = true → s.warp.trapvec ≠ 0 → s.warp.xcause = 0 →
    (s.raise (r :: rest)).warp = enteredWarp s.warp r (r :: rest)
    ∧ (s.raise (r :: rest)).others = s.others
    ∧ (let u := ({ s with warp := { s.warp with pending := r :: rest } } : State).lunaFault (r :: rest)
       let bs := (r :: rest).flatMap FaultRec.bytes
       let n := 4096 - s.warp.recVa % 4096
       let put := fun (v : State) (p : Phys) (bs : List Byte) =>
         if p.unc then v.homeWriteAll p.key 0 (cellsFrom p.pa bs) else v.registerAll s.warp.pcn p.key 0 (cellsFrom p.pa bs)
       (∀ p q, s.warp.recAt = some (p, q) → (s.raise (r :: rest)).homes = (put (put u p (bs.take n)) q (bs.drop n)).homes)
       ∧ (s.warp.recAt = none → (s.raise (r :: rest)).homes = s.homes))

/-- R193: a lane-independent fault, or one of a scalar member, raises exactly one record: its lanes are the effective mask, or the
active mask of an instruction that ignores the guard; in a `rep` its PC is that of the repeated word. What the walk of an address that
has no translation, or not the permission, has read at the homes of the tables (R353) comes before. -/
def Sys2Proof.Claims.OneFaultRecord : Prop :=
  ∀ (s : State) (site : Site) (t : Trouble), s.fault site t = (s.walked t).raise [oneRecord s site t] ∧ MemoryMoves s (s.walked t)
    ∧ (t.cause ≠ cTRANSLATION → (t.cause ≠ cPERMISSION ∨ t.detail = 0) → s.fault site t = s.raise [oneRecord s site t])

/-- R193: the faults of lanes make one record for each distinct cause, DETAIL and 4 KiB page: no two records agree in all three, each
record holds exactly the lanes that do, its address is that of its lowest lane, the records ascend by lowest lane, and every faulting
lane is in one. -/
def Sys2Proof.Claims.LaneFaultRecords : Prop :=
  ∀ (s : State) (site : Site) (l : List (Nat × Trouble)), (∀ x ∈ l, x.1 < 32 ∧ x.2.detail < 256) → l.Pairwise (fun x y => x.1 < y.1) →
    let rs := s.recordsOf site l l.length
    (s.faultLanes site l = (l.foldl (fun s x => s.walked x.2) s).raise rs)
    ∧ rs.Pairwise (fun r q => ¬ (r.cause = q.cause ∧ r.detail = q.detail ∧ r.addr.toNat / 4096 = q.addr.toNat / 4096))
    ∧ (∀ r ∈ rs, ∃ x ∈ l, r.cause = x.2.cause ∧ r.detail = BitVec.ofNat 8 x.2.detail ∧ r.addr = x.2.addr ∧ r.whole = false
        ∧ r.writes = site.writes ∧ r.areg = site.areg
        ∧ (∀ k, k < x.1 → r.lanes.getLsbD k = false)
        ∧ ∀ k, r.lanes.getLsbD k = true ↔ ∃ y ∈ l, y.1 = k ∧ sameRecord y.2 x.2)
    ∧ rs.Pairwise (fun r q => ∃ k, r.lanes.getLsbD k = true ∧ ∀ m, m ≤ k → q.lanes.getLsbD m = false)
    ∧ (∀ x ∈ l, ∃ r ∈ rs, r.lanes.getLsbD x.1 = true)

/-- R197, R196: `trap n` raises SOFTWARE with DETAIL n at itself, `bkpt` BREAKPOINT unless the region routes breakpoints to the
debugger, whatever the state; with a handler and XCAUSE 0 each enters it. -/
def Sys2Proof.Claims.SoftwareTraps : Prop :=
  ∀ (s : State) (n : BitVec 6),
    let r := oneRecord s .scalar ⟨cSOFTWARE, n.toNat, 0⟩
    let b := oneRecord s .scalar ⟨cBREAKPOINT, 0, 0⟩
    exec (.trap n) s = .next (s.raise [r])
    ∧ (s.myCore.trapmode.getLsbD 1 = false → exec .bkpt s = .next (s.raise [b]))
    ∧ (s.warp.trapvec ≠ 0 → s.warp.xcause = 0 →
      (∃ t, exec (.trap n) s = .next t ∧ t.warp = enteredWarp s.warp r [r] ∧ t.others = s.others)
      ∧ (s.myCore.trapmode.getLsbD 1 = false → ∃ t, exec .bkpt s = .next t ∧ t.warp = enteredWarp s.warp b [b] ∧ t.others = s.others))

/-- R197, R380: when the region routes breakpoints to the Monarch, `bkpt` stops its warp at itself for the debugger, and a warp that the
debugger has resumed there goes on. -/
def Sys2Proof.Claims.DebuggerBreakpoint : Prop :=
  ∀ s : State, s.myCore.trapmode.getLsbD 1 = true →
    (s.warp.resumed = false → ∃ t, exec .bkpt s = .next t ∧ t.warp.status = .trapped ∧ t.warp.pc = s.warp.pc
      ∧ t.warp.settled = { s.warp.settled with permit := false, stepping := false } ∧ t.homes = s.homes)
    ∧ (s.warp.resumed = true → ∃ t, exec .bkpt s = .next t ∧ NothingWritten s t s.nextPc)

/-- R198, R200: `tret.r` goes back to XPC, `tret.s` past the faulting word or repetition, `tret.x` of a lane cause of a vector member to
XPC with XMASK removed once and else as `tret.s`; XCAUSE becomes 0 and REPIP is cleared. (Whether a fault was a vector member's is kept
from its record; where nothing is kept, the word at XPC tells, log 58.) -/
def Sys2Proof.Claims.TrapReturn : Prop :=
  ∀ (s : State) (w : Word) (pa : Nat), s.warp.xcause ≠ 0 → s.warp.stack.length = s.warp.tdepth →
    s.fetchWord s.warp.pcn s.warp.xpc.toNat = .ok (w, pa) →
    let v := s.warp
    let skipped : Warp :=
      if v.repip then
        (if v.xrep.toNat + 1 = (field w 18 6).toNat + 1 then returnedWarp v (v.xpc + 8) 0 else returnedWarp v v.xpc (v.xrep + 1))
      else returnedWarp v (v.xpc + 4) v.xrep
    let lane := laneCause v.xcause && v.laneTrap.getD s.faultedVector
    (∃ t, exec .tretR s = .next t ∧ t = { s with warp := returnedWarp v v.xpc v.xrep })
    ∧ (∃ t, exec .tretS s = .next t ∧ t = { s with warp := skipped })
    ∧ (∃ t, exec .tretX s = .next t ∧
        t = { s with warp := if lane then { returnedWarp v v.xpc v.xrep with exclude := v.xmask, rerun := true } else skipped })

/-- R198, R199: a `tret` issued while XCAUSE is 0 faults ILLEGAL_IN_MODE, and else one at another stack depth than that of the trap
entry faults DIVERGENCE_DEPTH. -/
def Sys2Proof.Claims.TrapReturnFaults : Prop :=
  ∀ (s : State), ∀ i ∈ [Instr.tretR, .tretS, .tretX],
    (s.warp.xcause = 0 → exec i s = .next (s.fault .scalar inMode))
    ∧ (s.warp.xcause ≠ 0 → s.warp.stack.length ≠ s.warp.tdepth → exec i s = .next (s.fault .scalar depthFault))

/-- R269, R270, R280: a fault that its warp does not take itself is delivered by the region's policy. Under HANDLER in PERMIT mode a
free permit makes the warp TRAPPED, and without one it is squashed into BACKOFF, whose length doubles up to 8,192 cycles; under
TERMINATE and DUMP the warp drains and a halt of its gang is asked for, with a dump owed under DUMP. -/
def Sys2Proof.Claims.DeliveryBeyondWarp : Prop :=
  ∀ (s : State) (r : FaultRec) (rest : List FaultRec),
    r.cause ≠ cUE → r.cause ≠ cGRID → (inWarpCause r.cause = false ∨ s.warp.trapvec = 0 ∨ s.warp.xcause ≠ 0) →
    let u := s.raise (r :: rest)
    (u.warp.pc = s.warp.pc ∧ u.warp.records = r :: rest ∧ u.others = s.others)
    ∧ (s.policyOf s.warp.rid = 1 → (s.trapmodeOf s.warp.rid).getLsbD 0 = false → s.myCore.coalesce = false →
        (s.myCore.permits ≠ 0 → u.warp.status = .trapped ∧ u.warp.permit = true ∧ u.warp.backoff = 64
          ∧ (u.core s.warp.pcn).permits + 1 = s.myCore.permits)
        ∧ (s.myCore.permits = 0 → u.warp.status = .backoff ∧ u.warp.waitSince = s.clock + s.warp.backoff
          ∧ u.warp.backoff = min 8192 (2 * s.warp.backoff)))
    ∧ ((s.policyOf s.warp.rid = 0 ∨ s.policyOf s.warp.rid = 2) →
        u.warp.status = .draining
        ∧ ∀ g, s.gang? s.warp.launch s.warp.gang = some g → g.asked = false → g.state = .placed →
          ∃ h, u.gang? s.warp.launch s.warp.gang = some h ∧ h.asked = true ∧ h.halt = some r
            ∧ h.haltBy = (s.warp.pcn, s.warp.cw) ∧ h.dumpDue = (s.policyOf s.warp.rid == 2))

/-! ## Memory through array registers -/

namespace Sys2Proof.Claims

/-- The byte that cells, a later one over an earlier one, leave at an address. -/
def lastCell (cells : List Host.Cell) (a : Nat) : Option Byte := (cells.reverse.find? fun c => c.1 == a).map Prod.snd

/-- The array members of majors 0x2C-0x2F: the instruction, whether it counts bytes. -/
def vectorLoads (d : BitVec 7) (k : BitVec 4) (x m : BitVec 7) : List (Instr × Bool) := [(.lda d k x m, false), (.ldb d k x m, true)]
/-- The storing ones. -/
def vectorStores (d : BitVec 7) (k : BitVec 4) (x m : BitVec 7) : List (Instr × Bool) := [(.sta d k x m, false), (.stb d k x m, true)]

/-- What the retirement of an access does to array register `k`, and nothing to the others (R28, R182, R192); the footprint entry of the
register's binding counts the access (R187). -/
def ArrayRetired (s t : State) (k : BitVec 4) (l : List LaneAccess) : Prop :=
  (t.readA k).vcount.toNat = min 65535 ((s.readA k).vcount.toNat + LaneAccess.suppressed l)
    ∧ ((s.readA k).tgen = s.myCore.tgen → t.readA k = { s.readA k with vcount := (t.readA k).vcount })
    ∧ (∀ q, q ≠ k → t.readA q = s.readA q)
    ∧ t.myCore.footprint = changeWhere (fun f => f.reg == some (s.warp.cw, k.toNat))
        (fun f => { f with count := min (2 ^ 32 - 1) (f.count + 1) }) s.myCore.footprint

/-- A state in which the accesses find in the core every word they need, and in FRAME every translation. -/
def NoFill (s : State) (a : ArrayReg) (size : Nat) (l : List LaneAccess) : Prop :=
  ∀ x ∈ l, match x.fate with
    | .performs p none => s.framed a x.off.toNat = true ∧ p.unc = false ∧ ∀ sec ∈ State.sectorsOf p.pa size, s.needsFill p.pa size sec = false
    | .performs _ (some off) =>
      ∀ o ∈ range off size, s.myCore.ccache.any (fun w => w.launch == s.warp.launch && w.idx / 48 == o / 192) = true
    | _ => True

/-- `u` is `s` after loads have brought what they need: of the warp, only what stands for loads ahead of their turn may have changed
(R45), and nothing but the homes, the TLBs and what the cores hold. -/
def Brought (s u : State) : Prop :=
  u.warp = { s.warp with ahead := u.warp.ahead, taken := u.warp.taken, distrust := u.warp.distrust }
    ∧ u.others = s.others ∧ u.gangs = s.gangs ∧ u.fabric = s.fabric
    ∧ (∀ pcn, (u.core pcn).sram = (s.core pcn).sram ∧ (u.core pcn).footprint = (s.core pcn).footprint)

/-- Stores put into the warp's buffer and into nothing else: its own later loads see them, no byte of memory has changed yet (R45). -/
def StoresPushed (s t : State) (scratch : Option Nat) (cells : List Host.Cell) : Prop :=
  (∀ key pa, t.agentByte key pa = s.agentByte key pa)
    ∧ (∀ pcn pa, t.l1Word? pcn pa = s.l1Word? pcn pa)
    ∧ (∀ pcn a, (t.core pcn).sram.get a = (s.core pcn).sram.get a)
    ∧ (∃ new, t.warp.stores = s.warp.stores ++ new)
    ∧ (∀ a, t.forwarded scratch a = match lastCell cells a with | some b => some b | none => s.forwarded scratch a)
    ∧ (∀ other a, other ≠ scratch → t.forwarded other a = s.forwarded other a)

end Sys2Proof.Claims

/-- R186: discharge changes the cost of an access and never its outcome: when the index lies in the index register's shadow, the access
fares alike with and without its bounds comparison. -/
def Sys2Proof.Claims.DischargeChangesNoOutcome : Prop :=
  ∀ (s : State) (a : ArrayReg) (kind : Access) (byteForm : Bool) (sh : Shadow) (imm idx : Int), sh.encloses idx →
    let size := Machine.sizeOf a.esize.toNat
    let k := idx + imm
    let off := if byteForm then k else k * size
    s.examine a kind (discharged a sh imm (if byteForm then 1 else size) size) byteForm k off size
      = s.examine a kind false byteForm k off size

/-- R191 cases 2 and 3: outside its array an access that is not discharged is suppressed under SUPPRESS and faults BOUNDS, below with
detail 0 and beyond with detail 1, under TRAP and CONST; a store through a read-only or CONST register faults PERMISSION; a byte form at
an offset that is no multiple of the element size faults MISALIGN before (R191 case 1). -/
def Sys2Proof.Claims.BoundsOutcomes : Prop :=
  ∀ (s : State) (a : ArrayReg) (kind : Access) (k : Int),
    let size := Machine.sizeOf a.esize.toNat
    let fate := s.examine a kind false false k (k * size) size
    let addr := BitVec.ofInt 64 (a.base.toNat + k * size)
    (k < 0 → fate = if a.check = 0 then .suppressed else .faults ⟨cBOUNDS, 0, addr⟩)
    ∧ (0 ≤ k → (a.extent.toNat : Int) ≤ k → fate = if a.check = 0 then .suppressed else .faults ⟨cBOUNDS, 1, addr⟩)
    ∧ (0 ≤ k → k < (a.extent.toNat : Int) → kind.writes = true → (a.ro = true ∨ a.check = 2) →
        fate = .faults ⟨cPERMISSION, 0, addr⟩)
    ∧ (0 ≤ k → k < (a.extent.toNat : Int) → (kind.writes = true → a.ro = false) → a.check ≠ 2 →
        s.inLease s.warp.launch (a.base.toNat + k * size).toNat = false → fate = .faults ⟨cLEASE, 0, addr⟩)
    ∧ (let fate := s.examine a kind false true k k size
       let addr := BitVec.ofInt 64 (a.base.toNat + k)
       (k % size ≠ 0 → fate = .faults ⟨cMISALIGN, size, addr⟩)
       ∧ (k % size = 0 → k < 0 → fate = if a.check = 0 then .suppressed else .faults ⟨cBOUNDS, 0, addr⟩)
       ∧ (k % size = 0 → 0 ≤ k → (a.extent.toNat * size : Int) < k + size →
           fate = if a.check = 0 then .suppressed else .faults ⟨cBOUNDS, 1, addr⟩)
       ∧ (k % size = 0 → 0 ≤ k → k + size ≤ (a.extent.toNat * size : Int) → kind.writes = true → (a.ro = true ∨ a.check = 2) →
           fate = .faults ⟨cPERMISSION, 0, addr⟩)
       ∧ (k % size = 0 → 0 ≤ k → k + size ≤ (a.extent.toNat * size : Int) → (kind.writes = true → a.ro = false) → a.check ≠ 2 →
           s.inLease s.warp.launch (a.base.toNat + k).toNat = false → fate = .faults ⟨cLEASE, 0, addr⟩))

/-- R184, R192: `lda` and `ldb` write every active lane with the bytes its access returns, zero-extended, a suppressed one with 0;
VCOUNT grows by the suppressed lanes, and nothing else changes but what the L1 and the TLBs take in and which loads ahead of their turn
are used up (R45). -/
def Sys2Proof.Claims.VectorLoadResults : Prop :=
  ∀ (s : State) (d : BitVec 7) (k : BitVec 4) (x m : BitVec 7), ∀ row ∈ vectorLoads d k x m,
    let a := s.readA k
    let size := Machine.sizeOf a.esize.toNat
    let l := s.arrayAccesses a .read row.2 (s.shadowV x) m.toInt (s.vectorIndices x)
    let u := s.fillReserved a row.2 (s.shadowV x) m.toInt l
    Brought s u ∧ (s.beyondVarch [d, x] = false → a.esize.toNat < 3 → s.pinned d = false →
    (s.effMask = 0 → ∃ t, exec row.1 s = .next t ∧ NothingWritten s t s.nextPc)
    ∧ (s.effMask ≠ 0 → LaneAccess.troubles l = [] → u.poisonedAccesses a size l = [] →
      ∃ t, exec row.1 s = .next t ∧ Retired s t
        ∧ (∀ c ∈ l, ∀ i : Fin 32, c.lane = i.val →
            (t.readV d).get i = BitVec.ofNat 32 (ofBytes (u.fateBytes size c.fate)))
        ∧ (∀ i : Fin 32, s.effMask.getLsbD i = true → ∃ c ∈ l, c.lane = i.val)
        ∧ (∀ i : Fin 32, s.effMask.getLsbD i = false → (t.readV d).get i = (s.readV d).get i)
        ∧ t.shadowV d = .unbounded
        ∧ (∀ r, r ≠ d → t.readV r = s.readV r ∧ t.shadowV r = s.shadowV r)
        ∧ ArrayRetired s t k l
        ∧ t.warp.settled = { u.warp.settled with vreg := t.warp.vreg, vshd := t.warp.vshd, areg := t.warp.areg }
        ∧ t = { u with warp := t.warp, cores := t.cores }
        ∧ (∀ pcn, { t.core pcn with footprint := [] } = { u.core pcn with footprint := [] })
        ∧ (NoFill s a size l → SameMemory s t)))

/-- R184, R192: `slda` is performed once, whatever the masks: its bytes zero-extended, 0 when suppressed. -/
def Sys2Proof.Claims.ScalarLoadResults : Prop :=
  ∀ (s : State) (d : BitVec 7) (k : BitVec 4) (x m : BitVec 7),
    let a := s.readA k
    let size := Machine.sizeOf a.esize.toNat
    let l := s.arrayAccesses a .read false (s.shadowS x) m.toInt [(0, (s.readS x).toInt)]
    let u := s.fillAccesses a size l
    Brought s u ∧ (a.esize.toNat < 4 → LaneAccess.troubles l = [] → u.poisonedAccesses a size l = [] →
    ∃ t, exec (.slda d k x m) s = .next t ∧ Retired s t
      ∧ (∀ c ∈ l, t.readS d = if sIdx d = 0 then 0 else BitVec.ofNat 64 (ofBytes (u.fateBytes size c.fate)))
      ∧ l.length = 1
      ∧ t.shadowS d = (if sIdx d = 0 then .bounded 0 0 else .unbounded)
      ∧ (∀ r, sIdx r ≠ sIdx d → t.readS r = s.readS r ∧ t.shadowS r = s.shadowS r)
      ∧ ArrayRetired s t k l
      ∧ t.warp.settled = { u.warp.settled with sreg := t.warp.sreg, sshd := t.warp.sshd, areg := t.warp.areg }
      ∧ t = { u with warp := t.warp, cores := t.cores }
      ∧ (∀ pcn, { t.core pcn with footprint := [] } = { u.core pcn with footprint := [] })
      ∧ (NoFill s a size l → SameMemory s t))

/-- R184, R185, R192: `sta`, `stb` and `ssta` put the low bytes of each performing lane where its access lies, the higher lane's over
the lower one's, and write no suppressed lane; VCOUNT grows by the suppressed lanes, and no register changes. Leaves that FRAME does not
serve are walked to and kept first (R354); what a load had read ahead of its turn of the stored bytes is read again (R185). -/
def Obligations.ArrayStoreResults : Prop :=
  ∀ (s : State) (d : BitVec 7) (k : BitVec 4) (x m : BitVec 7),
    let a := s.readA k
    let size := Machine.sizeOf a.esize.toNat
    let stored := fun (t : State) (l : List LaneAccess) (data : Nat → Nat) =>
      let u := s.cacheAccesses a l
      Retired s t ∧ StoresPushed u t none ((State.storesOf size data l).flatMap Prod.snd) ∧ ArrayRetired s t k l
        ∧ t.warp.settled = { s.warp.settled with stores := t.warp.stores, areg := t.warp.areg, ahead := t.warp.ahead }
        ∧ (∀ e ∈ t.warp.ahead, e ∈ s.warp.ahead)
        ∧ t = { u with warp := t.warp, cores := t.cores } ∧ Brought s u
        ∧ ((∀ x ∈ l, s.framed a x.off.toNat = true) → u = s)
    (∀ row ∈ vectorStores d k x m,
      let l := s.arrayAccesses a .write row.2 (s.shadowV x) m.toInt (s.vectorIndices x)
      s.beyondVarch [d, x] = false → a.esize.toNat < 3 →
      (s.effMask = 0 → ∃ t, exec row.1 s = .next t ∧ NothingWritten s t s.nextPc)
      ∧ (s.effMask ≠ 0 → LaneAccess.troubles l = [] →
          ∃ t, exec row.1 s = .next t ∧ stored t l fun i => (lane (s.readV d) i).toNat))
    ∧ (let l := s.arrayAccesses a .write false (s.shadowS x) m.toInt [(0, (s.readS x).toInt)]
       a.esize.toNat < 4 → LaneAccess.troubles l = [] →
         ∃ t, exec (.ssta d k x m) s = .next t ∧ stored t l fun _ => (s.readS d).toNat)

/-- R179, R152, R192, R309: an array access of a wrong element size or to a pinned register faults ILLEGAL_IN_MODE; when any lane
faults, no lane performs and the faults of the lanes are taken; a load that consumes poison raises UE; the one access of `slda` and
`ssta` faults alone. -/
def Obligations.ArrayAccessFaults : Prop :=
  ∀ (s : State) (d : BitVec 7) (k : BitVec 4) (x m : BitVec 7),
    let a := s.readA k
    let size := Machine.sizeOf a.esize.toNat
    s.beyondVarch [d, x] = false →
    (∀ row ∈ vectorLoads d k x m,
      let l := s.arrayAccesses a .read row.2 (s.shadowV x) m.toInt (s.vectorIndices x)
      let u := s.fillReserved a row.2 (s.shadowV x) m.toInt l
      ((3 ≤ a.esize.toNat ∨ s.pinned d = true) → exec row.1 s = .next (s.fault (.mk (k.setWidth 8) false true) inMode))
      ∧ (a.esize.toNat < 3 → s.pinned d = false → s.effMask ≠ 0 →
          (LaneAccess.troubles l ≠ [] →
            exec row.1 s = .next (s.faultLanes (.mk (k.setWidth 8) false true) (LaneAccess.troubles l)))
          ∧ (LaneAccess.troubles l = [] → u.poisonedAccesses a size l ≠ [] →
            exec row.1 s = .next (u.faultLanes (.mk (k.setWidth 8) false true) (u.poisonedAccesses a size l)))))
    ∧ (∀ row ∈ vectorStores d k x m,
      let l := s.arrayAccesses a .write row.2 (s.shadowV x) m.toInt (s.vectorIndices x)
      (3 ≤ a.esize.toNat → exec row.1 s = .next (s.fault (.mk (k.setWidth 8) true true) inMode))
      ∧ (a.esize.toNat < 3 → s.effMask ≠ 0 → LaneAccess.troubles l ≠ [] →
          exec row.1 s = .next (s.faultLanes (.mk (k.setWidth 8) true true) (LaneAccess.troubles l))))
    ∧ (4 ≤ a.esize.toNat → exec (.slda d k x m) s = .next (s.fault (.mk (k.setWidth 8) false false) inMode)
        ∧ exec (.ssta d k x m) s = .next (s.fault (.mk (k.setWidth 8) true false) inMode))
    ∧ (a.esize.toNat < 4 →
      (let l := s.arrayAccesses a .read false (s.shadowS x) m.toInt [(0, (s.readS x).toInt)]
       let u := s.fillAccesses a size l
       (∀ t, LaneAccess.troubles l = [(0, t)] → exec (.slda d k x m) s = .next (s.fault (.mk (k.setWidth 8) false false) t))
       ∧ (∀ t, LaneAccess.troubles l = [] → u.poisonedAccesses a size l = [(0, t)] →
           t.cause = cUE ∧ exec (.slda d k x m) s = .next (u.fault (.mk (k.setWidth 8) false false) t)))
      ∧ (let l := s.arrayAccesses a .write false (s.shadowS x) m.toInt [(0, (s.readS x).toInt)]
         ∀ t, LaneAccess.troubles l = [(0, t)] → exec (.ssta d k x m) s = .next (s.fault (.mk (k.setWidth 8) true false) t)))

/-! ## The scratchpad, spills and fills -/

namespace Sys2Proof.Claims

/-- The address of a lane of `lds` and `sts` (R188). -/
def scratchAddress (s : State) (x m : BitVec 7) (i : Nat) : Int := (lane (s.readV x) i).toNat + 4 * m.toInt

/-- R188, R17, R285: the fault of a scratchpad access of `size` bytes whose address must be a multiple of `align`, if it has one. The
address names the warp's own core (SELF, bit 21) or core [20:19] of its cluster, and an offset. (A record's ADDR for an address beyond 22
bits or below 0: log 15.) -/
def scratchTrouble (s : State) (addr : Int) (size align : Nat) : Option Trouble :=
  let a := addr.toNat
  if addr % align ≠ 0 then some ⟨cMISALIGN, align, BitVec.ofInt 64 addr⟩
  else if addr < 0 ∨ 2 ^ 22 ≤ addr then some ⟨cSCRATCH, 0, BitVec.ofInt 64 addr⟩
  else match s.blockOn? (if 2 ^ 21 ≤ a then s.warp.pcn else s.warp.pcn / 4 * 4 + a / 2 ^ 19 % 4) with
    | none => some ⟨cSCRATCH, 1, BitVec.ofInt 64 addr⟩
    | some b => if b.scratch * 32768 < a % 2 ^ 19 + size then some ⟨cSCRATCH, 0, BitVec.ofInt 64 addr⟩ else none

/-- R185, R287: the state in which a load of `n` bytes at `a` of a core's SRAM reads: the warp's older stores to those words have
performed. -/
def settledAt (s : State) (size align : Nat) (addr : Int) : State :=
  match s.scratchAccess addr size align with
  | .ok p => s.settleOwn p.1 p.2 size
  | .error _ => s

/-- The state in which the lanes of `lds` read. -/
def lanesSettled (s : State) (x m : BitVec 7) : State :=
  (lanesOf s.effMask).foldl (fun u i => settledAt u 4 4 (scratchAddress s x m i)) s

/-- Where the lanes of `sts` store in a core's SRAM, and what. -/
def scratchCells (s : State) (d x m : BitVec 7) (pcn : Nat) : List Host.Cell :=
  (lanesOf s.effMask).flatMap fun i => match s.scratchAccess (scratchAddress s x m i) 4 4 with
    | .ok p => if p.1 = pcn then cellsFrom p.2 (bytesOf 4 (lane (s.readV d) i).toNat) else []
    | .error _ => []

/-- `t` is `s` after a store to a scratchpad: pushed into the warp's buffer, no register changed. -/
def ScratchStored (s t : State) (pcn : Nat) (cells : List Host.Cell) : Prop :=
  Retired s t ∧ StoresPushed s t (some pcn) cells ∧ OnlyWarp s t
    ∧ t.warp.settled = { s.warp.settled with stores := t.warp.stores, ahead := t.warp.ahead } ∧ (∀ e ∈ t.warp.ahead, e ∈ s.warp.ahead)

end Sys2Proof.Claims

/-- R188: `lds` loads 4 bytes into every active lane from the scratchpad its address names, `slds` 8 bytes into a scalar, once the
warp's older stores to those words have performed (R287); nothing else changes. With no lane active `lds` does nothing (R48). -/
def Sys2Proof.Claims.ScratchLoadResults : Prop :=
  ∀ (s : State) (d x m : BitVec 7),
    (s.beyondVarch [d, x] = false → s.pinned d = false → s.effMask = 0 →
      ∃ t, exec (.lds d x m) s = .next t ∧ NothingWritten s t s.nextPc)
    ∧ (s.beyondVarch [d, x] = false → s.pinned d = false → s.effMask ≠ 0 →
      let u := lanesSettled s x m
      (∀ i ∈ lanesOf s.effMask, ∃ p, s.scratchAccess (scratchAddress s x m i) 4 4 = .ok p ∧ u.scratchPoisoned p.1 p.2 4 = false) →
      ∃ t, exec (.lds d x m) s = .next t ∧ VectorWritten u t d (fun i =>
        match s.scratchAccess (scratchAddress s x m i) 4 4 with
        | .ok p => BitVec.ofNat 32 (ofBytes (u.scratchBytes p.1 p.2 4))
        | .error _ => 0) .unbounded 0 false)
    ∧ (let addr : Int := (s.readS x).toNat + 8 * m.toInt
       let u := settledAt s 8 8 addr
       ∀ p, s.scratchAccess addr 8 8 = .ok p → u.scratchPoisoned p.1 p.2 8 = false →
      ∃ t, exec (.slds d x m) s = .next t
        ∧ ScalarWritten u t d (BitVec.ofNat 64 (ofBytes (u.scratchBytes p.1 p.2 8))) .unbounded 0)

/-- R185, R287: a load of a scratchpad that has not executed ahead of its turn first lets the warp's older stores to its words perform:
every byte of that core's SRAM that the warp sees stays as it is, none of the loaded words has a pending store after it, the bytes are
then the SRAM's own, and nothing but the warp's pending stores, what it has read ahead of them, and that SRAM changes. R45: one that has
executed ahead returns what it read then. -/
def Sys2Proof.Claims.OwnStoresPerformFirst : Prop :=
  ∀ (s : State) (pcn a n : Nat), s.canonical = true → (∀ p ∈ s.warp.stores, sortedFrom 0 p.cells = true) →
    let u := s.settleOwn pcn a n
    let waited := ∃ p ∈ s.warp.stores, p.scratch = some pcn ∧ ∃ c ∈ p.cells, a / 4 ≤ c.1 / 4 ∧ c.1 / 4 < (a + n + 3) / 4
    (∀ e, s.warp.ahead.find? (·.is (some pcn) a n) = some e →
      u.scratchBytes pcn a n = e.bytes ∧ u.scratchBads pcn a n = e.bad ∧ u.warp.stores = s.warp.stores ∧ u.cores = s.cores)
    ∧ ((∀ e ∈ s.warp.ahead ++ s.warp.taken, e.is (some pcn) a n = false) →
    (∀ c x, u.scratchByte c x = s.scratchByte c x)
    ∧ (∀ p ∈ u.warp.stores, p.scratch = some pcn → ∀ c ∈ p.cells, ∀ x, a ≤ x → x < a + n → c.1 / 4 ≠ x / 4)
    ∧ (∀ x, a ≤ x → x < a + n → (u.core pcn).sram.get x = s.scratchByte pcn x)
    ∧ (∀ p, p ∈ u.warp.stores ↔ p ∈ s.warp.stores ∧ (p.scratch = some pcn → ¬ waited))
    ∧ u = { s with warp := { s.warp with stores := u.warp.stores, ahead := u.warp.ahead }, cores := u.cores }
    ∧ u.warp.ahead = s.warp.ahead.filter (fun e => !e.meets (some pcn) a n)
    ∧ u.scratchBytes pcn a n = (range a n).map (s.scratchByte pcn)
    ∧ (∀ c, u.core c = { s.core c with sram := (u.core c).sram, sramPoison := (u.core c).sramPoison })
    ∧ (∀ c, c ≠ pcn → u.core c = s.core c))

/-- R188, R185: `sts` stores every active lane, the higher lane over the lower one, and `ssts` a scalar, in the scratchpad their
addresses name. With no lane active `sts` does nothing (R48). -/
def Sys2Proof.Claims.ScratchStoreResults : Prop :=
  ∀ (s : State) (d x m : BitVec 7),
    (s.beyondVarch [d, x] = false → s.effMask = 0 → ∃ t, exec (.sts d x m) s = .next t ∧ NothingWritten s t s.nextPc)
    ∧ (s.beyondVarch [d, x] = false → s.effMask ≠ 0 →
      (∀ i ∈ lanesOf s.effMask, ∃ p, s.scratchAccess (scratchAddress s x m i) 4 4 = .ok p) →
      ∃ t, exec (.sts d x m) s = .next t ∧ Retired s t ∧ OnlyWarp s t
        ∧ t.warp.settled = { s.warp.settled with stores := t.warp.stores, ahead := t.warp.ahead }
        ∧ (∀ e ∈ t.warp.ahead, e ∈ s.warp.ahead)
        ∧ (∀ a, t.forwarded none a = s.forwarded none a)
        ∧ (∀ pcn a, t.forwarded (some pcn) a =
            match lastCell (scratchCells s d x m pcn) a with | some b => some b | none => s.forwarded (some pcn) a))
    ∧ (∀ p, s.scratchAccess ((s.readS x).toNat + 8 * m.toInt) 8 8 = .ok p →
      ∃ t, exec (.ssts d x m) s = .next t ∧ ScratchStored s t p.1 (cellsFrom p.2 (bytesOf 8 (s.readS d).toNat)))

/-- R188, R17, R285, R194: a scratchpad access whose address is no multiple of the size faults MISALIGN, and else one beyond the
scratchpads, or of a core that holds no block of the gang, or beyond the block's window, faults SCRATCH_RANGE with its DETAIL: the
scalar access alone, the lanes of `lds` and `sts` each for itself, and then no lane performs; a load that consumes poison raises UE. (A
record's ADDR beyond 22 bits: log 15.) -/
def Sys2Proof.Claims.ScratchFaults : Prop :=
  ∀ (s : State) (d x m : BitVec 7),
    (let addr := ((s.readS x).toNat : Int) + 8 * m.toInt
     let u := settledAt s 8 8 addr
     (∀ t, scratchTrouble s addr 8 8 = some t →
        exec (.slds d x m) s = .next (s.fault .scalar t) ∧ exec (.ssts d x m) s = .next (s.fault (.mk 0xFF true false) t))
     ∧ (∀ p, s.scratchAccess addr 8 8 = .ok p → u.scratchPoisoned p.1 p.2 8 = true →
        exec (.slds d x m) s = .next (u.fault .scalar ⟨cUE, 0, BitVec.ofInt 64 addr⟩)))
    ∧ (s.beyondVarch [d, x] = false → s.effMask ≠ 0 →
        let ts := (lanesOf s.effMask).filterMap fun i => (scratchTrouble s (scratchAddress s x m i) 4 4).map fun t => (i, t)
        let u := lanesSettled s x m
        let bad := (lanesOf s.effMask).filterMap fun i => match s.scratchAccess (scratchAddress s x m i) 4 4 with
          | .ok p => if u.scratchPoisoned p.1 p.2 4 then
              some (i, (⟨cUE, 0, BitVec.ofInt 64 (scratchAddress s x m i)⟩ : Trouble)) else none
          | .error _ => none
        (ts ≠ [] → exec (.sts d x m) s = .next (s.faultLanes (.mk 0xFF true true) ts)
          ∧ (s.pinned d = false → exec (.lds d x m) s = .next (s.faultLanes .lanes ts)))
        ∧ (ts = [] → bad ≠ [] → s.pinned d = false → exec (.lds d x m) s = .next (u.faultLanes .lanes bad)))
    ∧ (s.beyondVarch [d, x] = false → s.pinned d = true → exec (.lds d x m) s = .next (s.fault .lanes inMode))
    ∧ (∀ (addr : Int) (size align : Nat), 0 < size → 0 < align →
        (scratchTrouble s addr size align = none ↔ ∃ p, s.scratchAccess addr size align = .ok p))

/-- R189, R190: `vspill` and `sspill` store a register's record, whatever the masks; `vfill` and `sfill` load a register from one. (The
conventions of CRC-32C are the common ones, log 12.) -/
def Sys2Proof.Claims.SpillAndFillResults : Prop :=
  ∀ (s : State) (d a : BitVec 7),
    let addr : Int := (s.readS a).toNat
    (∀ p, s.beyondVarch [d] = false → s.scratchAccess addr 144 48 = .ok p →
      ∃ t, exec (.vspill d a) s = .next t ∧ ScratchStored s t p.1 (cellsFrom p.2 (vectorRecord (s.readV d) (s.shadowV d))))
    ∧ (∀ p, s.scratchAccess addr 16 16 = .ok p →
      ∃ t, exec (.sspill d a) s = .next t ∧ ScratchStored s t p.1 (cellsFrom p.2 (scalarRecord (s.readS d) (s.shadowS d))))
    ∧ (∀ p, s.beyondVarch [d] = false → s.pinned d = false → s.scratchAccess addr 144 48 = .ok p →
      let u := settledAt s 144 48 addr
      let bs := u.scratchBytes p.1 p.2 144
      u.scratchPoisoned p.1 p.2 144 = false →
      ∃ t, exec (.vfill d a) s = .next t ∧ Retired s t ∧ t.readV d = lanesFrom bs ∧ t.shadowV d = recordShadow bs
        ∧ (∀ r, r ≠ d → t.readV r = s.readV r ∧ t.shadowV r = s.shadowV r)
        ∧ t.warp.settled = { u.warp.settled with vreg := t.warp.vreg, vshd := t.warp.vshd } ∧ OnlyWarp u t ∧ SameMemory u t)
    ∧ (let u := settledAt s 16 16 addr
       ∀ p, s.scratchAccess addr 16 16 = .ok p → u.scratchPoisoned p.1 p.2 16 = false →
      ∃ t, exec (.sfill d a) s = .next t ∧ ScalarWritten u t d (BitVec.ofNat 64 (ofBytes ((u.scratchBytes p.1 p.2 16).take 8)))
        (scalarRecordShadow (u.scratchBytes p.1 p.2 16)) 0)

/-- R189, R190, R188: a spill or a fill faults as a scratchpad access of the record's bytes does, aligned to 48 for a vector and to 16 for a
scalar; a vector register beyond VARCH is ILLEGAL and a fill of a pinned one ILLEGAL_IN_MODE before that; a fill that consumes poison
raises UE. (The address in a record is that of log 15.) -/
def Sys2Proof.Claims.SpillAndFillFaults : Prop :=
  ∀ (s : State) (d a : BitVec 7),
    let addr : Int := (s.readS a).toNat
    (s.beyondVarch [d] = true → exec (.vspill d a) s = .next (s.fault (.mk 0xFF true false) illegal)
      ∧ exec (.vfill d a) s = .next (s.fault .scalar illegal))
    ∧ (s.beyondVarch [d] = false → s.pinned d = true → exec (.vfill d a) s = .next (s.fault .scalar inMode))
    ∧ (∀ t, s.beyondVarch [d] = false → scratchTrouble s addr 144 48 = some t →
        exec (.vspill d a) s = .next (s.fault (.mk 0xFF true false) t)
        ∧ (s.pinned d = false → exec (.vfill d a) s = .next (s.fault .scalar t)))
    ∧ (∀ t, scratchTrouble s addr 16 16 = some t →
        exec (.sspill d a) s = .next (s.fault (.mk 0xFF true false) t) ∧ exec (.sfill d a) s = .next (s.fault .scalar t))
    ∧ (∀ p, s.beyondVarch [d] = false → s.pinned d = false → s.scratchAccess addr 144 48 = .ok p →
        (settledAt s 144 48 addr).scratchPoisoned p.1 p.2 144 = true →
        exec (.vfill d a) s = .next ((settledAt s 144 48 addr).fault .scalar ⟨cUE, 0, BitVec.ofInt 64 addr⟩))
    ∧ (∀ p, s.scratchAccess addr 16 16 = .ok p → (settledAt s 16 16 addr).scratchPoisoned p.1 p.2 16 = true →
        exec (.sfill d a) s = .next ((settledAt s 16 16 addr).fault .scalar ⟨cUE, 0, BitVec.ofInt 64 addr⟩))

/-- R189, R190, R24: a record that a spill wrote fills the register and its shadow back as they were, and whatever bytes a fill finds,
the shadow it sets encloses the value it loads. -/
def Sys2Proof.Claims.FillsAreSound : Prop :=
  (∀ (x : Lanes) (sh : Shadow), (∀ i : Fin 32, sh.encloses (x.get i).toInt) →
    lanesFrom (vectorRecord x sh) = x ∧ recordShadow (vectorRecord x sh) = sh)
  ∧ (∀ (x : DWord) (sh : Shadow), sh.encloses x.toInt →
    BitVec.ofNat 64 (ofBytes ((scalarRecord x sh).take 8)) = x ∧ scalarRecordShadow (scalarRecord x sh) = sh)
  ∧ (∀ (bs : List Byte) (i : Fin 32), bs.length = 144 → (recordShadow bs).encloses ((lanesFrom bs).get i).toInt)
  ∧ (∀ bs : List Byte, bs.length = 16 → (scalarRecordShadow bs).encloses (BitVec.ofNat 64 (ofBytes (bs.take 8))).toInt)

/-! ## Binding -/

namespace Sys2Proof.Claims

/-- R181: a descriptor's fields, as the model passes them to `bindTo`: BASE, EXTENT, the FORM bits [6:0]; and the binding they give. -/
def bound (s : State) (base : DWord) (extent form : Nat) : ArrayReg :=
  s.frameOf { ArrayReg.start with
    base := base.setWidth 48
    extent := BitVec.ofNat 31 extent
    esize := BitVec.ofNat 4 (form % 16)
    check := BitVec.ofNat 2 (form / 16 % 4)
    ro := form / 16 % 4 == 2 || form / 64 % 2 == 1 }

/-- R181: the conditions of a binding: no reserved code, BASE a multiple of the element size, a CONST array inside the segment. -/
def bindable (s : State) (base : DWord) (extent form : Nat) : Prop :=
  form % 16 < 12 ∧ form / 16 % 4 ≠ 3 ∧ (form % 16 ≤ 4 → base.toNat % Machine.sizeOf (form % 16) = 0)
    ∧ (form / 16 % 4 = 2 → base.toNat + extent * Machine.sizeOf (form % 16) ≤ s.constSeg.2)

/-- What a binding leaves: array register `k` bound, the newest entry of the core's footprint table made for it (R187), nothing else. -/
def Bound (s u t : State) (k : BitVec 4) (a : ArrayReg) : Prop :=
  Retired s t ∧ t.readA k = a ∧ (∀ q, q ≠ k → t.readA q = s.readA q)
    ∧ t.warp.settled = { u.warp.settled with areg := t.warp.areg } ∧ Brought s u
    ∧ t = { u with warp := t.warp, cores := t.cores }
    ∧ (∀ pcn, { t.core pcn with footprint := [] } = { u.core pcn with footprint := [] })
    ∧ t.myCore.footprint.head? = some ⟨some (s.warp.cw, k.toNat), u.myCore.rid, a.base.toNat, a.extent.toNat * Machine.sizeOf a.esize.toNat, 0⟩
    ∧ t.myCore.footprint.length = min 64 (u.myCore.footprint.length + 1)

end Sys2Proof.Claims

/-- R180, R181: `abinds` binds an array register from a register pair, `abind` from a descriptor in memory: the fields, VCOUNT 0, TGEN
the core's, FRAME, LIMIT and FW by the tables; R183: `aqry` reads a field. -/
def Sys2Proof.Claims.BindingResults : Prop :=
  ∀ (s : State) (k : BitVec 4) (d a : BitVec 7),
    (let base := s.readS a
     let form := s.readS (a + 1)
     let extent := form.toNat % 2 ^ 31
     let code := form.toNat / 2 ^ 32 % 128
     base.toNat < 2 ^ 48 → form.toNat < 2 ^ 39 → form.getLsbD 31 = false → bindable s base extent code →
       ∃ t, exec (.abinds k a) s = .next t ∧ Bound s s t k (bound s base extent code) ∧ SameMemory s t)
    ∧ (∀ p, (s.readS a).toNat % 32 = 0 → s.globalPlace .read (s.readS a).toNat 32 = .ok p →
       let u := (s.fillFor p 32).cacheLeaf s.warp.pcn (s.readS a).toNat
       let bs := u.loadBytes p 32
       let base := BitVec.ofNat 64 (ofBytes (bs.take 8))
       let extent := ofBytes ((bs.drop 8).take 4)
       let code := (bs.getD 12 0).toNat
       u.loadPoisoned p 32 = false → (∀ b ∈ bs.drop 13, b = 0) → code < 128 → extent < 2 ^ 31 → base.toNat < 2 ^ 48 →
       bindable u base extent code →
         ∃ t, exec (.abind k a) s = .next t ∧ Bound s u t k (bound u base extent code))
    ∧ (let b := s.readA k
       ∀ row ∈ [((0 : BitVec 3), b.base.setWidth 64, Shadow.unbounded), (1, b.extent.setWidth 64, .bounded b.extent.toNat b.extent.toNat),
          (2, BitVec.ofNat 64 ((if b.ro then 64 else 0) + 16 * b.check.toNat + b.esize.toNat), .unbounded),
          (3, b.vcount.setWidth 64, .bounded 0 65535), (4, b.limit.setWidth 64, .unbounded), (5, b.tgen.setWidth 64, .unbounded)],
        ∃ t, exec (.aqry d k row.1) s = .next t ∧ ScalarWritten s t d row.2.1 row.2.2 0)

/-- R181, R193: a binding faults ILLEGAL with DETAIL 1 on a reserved bit or code, MISALIGN on a BASE that is no multiple of the element
size, and BOUNDS with DETAIL 2 on a CONST array that leaves the segment, in this order; `abinds` makes no access, so that its record's
ADDR is 0, and `abind` records the address it reads its descriptor at (log 15). `abind` of an address that is no multiple of 32 faults
MISALIGN first. -/
def Sys2Proof.Claims.BindingFaults : Prop :=
  ∀ (s : State) (k : BitVec 4) (a : BitVec 7),
    let base := s.readS a
    let form := s.readS (a + 1)
    let extent := form.toNat % 2 ^ 31
    let esize := form.toNat / 2 ^ 32 % 16
    let check := form.toNat / 2 ^ 36 % 4
    let site : Site := .mk (k.setWidth 8) false false
    let reserved := 2 ^ 39 ≤ form.toNat ∨ form.getLsbD 31 = true ∨ 2 ^ 48 ≤ base.toNat ∨ 12 ≤ esize ∨ check = 3
    (reserved → exec (.abinds k a) s = .next (s.fault site ⟨cILLEGAL, 1, 0⟩))
    ∧ (¬ reserved → esize ≤ 4 → base.toNat % Machine.sizeOf esize ≠ 0 →
        exec (.abinds k a) s = .next (s.fault site ⟨cMISALIGN, Machine.sizeOf esize, 0⟩))
    ∧ (¬ reserved → (esize ≤ 4 → base.toNat % Machine.sizeOf esize = 0) → check = 2 → s.constSeg.2 < base.toNat + extent * Machine.sizeOf esize →
        exec (.abinds k a) s = .next (s.fault site ⟨cBOUNDS, 2, 0⟩))
    ∧ (base.toNat % 32 ≠ 0 → exec (.abind k a) s = .next (s.fault site ⟨cMISALIGN, 32, base⟩))
    ∧ (∀ t, base.toNat % 32 = 0 → s.globalPlace .read base.toNat 32 = .error t → exec (.abind k a) s = .next (s.fault site t))
    ∧ (∀ p, base.toNat % 32 = 0 → s.globalPlace .read base.toNat 32 = .ok p →
        let u := (s.fillFor p 32).cacheLeaf s.warp.pcn base.toNat
        let bs := u.loadBytes p 32
        let low := ofBytes (bs.take 8)
        let count := ofBytes ((bs.drop 8).take 4)
        let code := (bs.getD 12 0).toNat
        let wrong := (∃ b ∈ bs.drop 13, b ≠ 0) ∨ 128 ≤ code ∨ 2 ^ 31 ≤ count ∨ 2 ^ 48 ≤ low ∨ 12 ≤ code % 16 ∨ code / 16 % 4 = 3
        (u.loadPoisoned p 32 = true → exec (.abind k a) s = .next (u.fault site ⟨cUE, 0, base⟩))
        ∧ (u.loadPoisoned p 32 = false →
          (wrong → exec (.abind k a) s = .next (u.fault site ⟨cILLEGAL, 1, 0⟩))
          ∧ (¬ wrong → code % 16 ≤ 4 → low % Machine.sizeOf (code % 16) ≠ 0 →
              exec (.abind k a) s = .next (u.fault site ⟨cMISALIGN, Machine.sizeOf (code % 16), base⟩))
          ∧ (¬ wrong → (code % 16 ≤ 4 → low % Machine.sizeOf (code % 16) = 0) → code / 16 % 4 = 2 →
              u.constSeg.2 < low + count * Machine.sizeOf (code % 16) →
              exec (.abind k a) s = .next (u.fault site ⟨cBOUNDS, 2, base⟩))))

/-! ## Homes, L1s and controllers -/

namespace Sys2Proof.Claims

/-- A module in good order: the order of `State.orderly`, and an owned word that is clean holds what its home holds (R296). -/
def Tidy (s : State) : Prop :=
  s.orderly = true ∧ ∀ c ∈ s.cores, ∀ l ∈ c.l1, ∀ w ∈ l.words, w.owned = true → w.dirty = false →
    w.value = BitVec.ofNat 32 (ofBytes (s.homeRead l.key (l.line * 192 + 4 * w.idx) 4))

/-- A module in good order whose memory is plain: no encryption, no integrity tags, no launch that journals; every L1 has a way. -/
structure Plain (s : State) : Prop where
  order : Tidy s
  clear : s.monarch.encryption = false
  untagged : s.monarch.integrity = false
  unjournaled : ∀ l ∈ s.launches, l.stamp = 0
  ways : ∀ pcn, (s.core pcn).split < 16

/-- Every byte reads as before at its home, and the order is kept. -/
def BytesKept (s t : State) : Prop := Tidy t ∧ ∀ key pa, t.agentByte key pa = s.agentByte key pa

/-- The cells have been written, and every other byte reads as before. -/
def CellsWritten (s t : State) (cells : List Host.Cell) : Prop :=
  Tidy t ∧ ∀ key pa, t.agentByte key pa = match lastCell cells pa with | some b => b | none => s.agentByte key pa

/-- The bytes of a number, the lowest at `a`. -/
def numberAt (x : Nat) (n a p : Nat) : Option Byte := if a ≤ p ∧ p < a + n then some (BitVec.ofNat 8 (x / 256 ^ (p - a))) else none

end Sys2Proof.Claims

/-- R293-R298: bringing a line or a sector to its slice, replacing another, asking an owner for its words, a recall, a merge at the
controller, a line dropped by its slice or taken under another key, a fill, an L1's replacement, an acquire and a flush move bytes
between controllers, slices and L1s and change none, for any agent and under any key, and keep the module in order. -/
def Obligations.MovementKeepsBytes : Prop :=
  ∀ (s : State), Plain s → ∀ (pcn line sector : Nat) (reader : Option Nat) (key : BitVec 6),
    BytesKept s (s.touch key line) ∧ BytesKept s (s.fetch key sector) ∧ BytesKept s (s.demand reader sector)
    ∧ BytesKept s (s.recallLine line) ∧ BytesKept s (s.controllerWrite line) ∧ BytesKept s (s.lineUnder key line)
    ∧ BytesKept s (s.l1Touch pcn key line) ∧ BytesKept s (s.l1Rekey pcn key line)
    ∧ BytesKept s (s.lineFill pcn key sector) ∧ BytesKept s (s.dropShared pcn) ∧ BytesKept s (s.flushL1 pcn)

/-- R295, R298: a store registered for a core and a write at the home change the bytes of their cells and no other. -/
def Sys2Proof.Claims.WritesLand : Prop :=
  ∀ (s : State), Plain s → ∀ (pcn line : Nat) (key stamp : BitVec 6) (cells : List Host.Cell) (hide : Option (Nat × Nat)), (∀ c ∈ cells, lineOf c.1 = line) →
    CellsWritten s (s.homeWrite key stamp line cells) cells
      ∧ (cells ≠ [] → sortedFrom 0 cells = true → CellsWritten s (s.register pcn key stamp line cells hide) cells)

/-- R2, R185: a memory reads a byte as it was last written, another byte as before, and keeps its canonical form, in which equal bytes
are equal data. -/
def Sys2Proof.Claims.MemoryReadsAfterWrites : Prop :=
  (∀ (m : Memory) (a p : Nat) (bs : List Byte), m.wf = true →
    (m.write a bs).wf = true ∧ (m.write a bs).get p = if a ≤ p ∧ p < a + bs.length then bs.getD (p - a) 0 else m.get p)
  ∧ (∀ m n : Memory, m.wf = true → n.wf = true → (∀ a, m.get a = n.get a) → m = n)
  ∧ (∀ (n x : Nat), x < 256 ^ n → ofBytes (bytesOf n x) = x)

/-! ## Atomics and fences -/

namespace Sys2Proof.Claims

/-- R300: the value an OP leaves in a word of n bits that holds `old`, for operands x and y of n bits, and the flags. -/
def updated (op : AtomicOp) (n rm : Nat) (dz : Bool) (old x y : Nat) : Nat × BitVec 8 :=
  let signed := fun (v : Nat) => (BitVec.ofNat n v).toInt
  match op with
  | .add => ((old + x) % 2 ^ n, 0)
  | .addf => addF32 rm 0 dz old x
  | .min => (if signed x < signed old then x else old, 0)
  | .max => (if signed old < signed x then x else old, 0)
  | .minu => (if x < old then x else old, 0)
  | .maxu => (if old < x then x else old, 0)
  | .and => ((BitVec.ofNat n old &&& BitVec.ofNat n x).toNat, 0)
  | .or => ((BitVec.ofNat n old ||| BitVec.ofNat n x).toNat, 0)
  | .xor => ((BitVec.ofNat n old ^^^ BitVec.ofNat n x).toNat, 0)
  | .xch => (x, 0)
  | .cas => (if old = x then y else old, 0)

/-- The scalar scratchpad atomics that execute. -/
def atomicsSs (d x : BitVec 7) (r : BitVec 2) : List (Instr × AtomicOp) :=
  [(.aaddSs d x r, .add), (.aminSs d x r, .min), (.amaxSs d x r, .max), (.aminuSs d x r, .minu), (.amaxuSs d x r, .maxu),
   (.aandSs d x r, .and), (.aorSs d x r, .or), (.axorSs d x r, .xor), (.axchSs d x r, .xch), (.acasSs d x r, .cas)]

/-- The vector scratchpad atomics. -/
def atomicsVs (d x : BitVec 7) (r : BitVec 2) : List (Instr × AtomicOp) :=
  [(.aaddVs d x r, .add), (.aaddfVs d x r, .addf), (.aminVs d x r, .min), (.amaxVs d x r, .max), (.aminuVs d x r, .minu),
   (.amaxuVs d x r, .maxu), (.aandVs d x r, .and), (.aorVs d x r, .or), (.axorVs d x r, .xor), (.axchVs d x r, .xch),
   (.acasVs d x r, .cas)]

/-- The scalar global atomics. -/
def atomicsSg (d : BitVec 7) (k : BitVec 4) (x : BitVec 7) (r : BitVec 2) : List (Instr × AtomicOp) :=
  [(.aaddSg d k x r, .add), (.aaddfSg d k x r, .addf), (.aminSg d k x r, .min), (.amaxSg d k x r, .max), (.aminuSg d k x r, .minu),
   (.amaxuSg d k x r, .maxu), (.aandSg d k x r, .and), (.aorSg d k x r, .or), (.axorSg d k x r, .xor), (.axchSg d k x r, .xch),
   (.acasSg d k x r, .cas)]

/-- The vector global atomics. -/
def atomicsVg (d : BitVec 7) (k : BitVec 4) (x : BitVec 7) (r : BitVec 2) : List (Instr × AtomicOp) :=
  [(.aaddVg d k x r, .add), (.aaddfVg d k x r, .addf), (.aminVg d k x r, .min), (.amaxVg d k x r, .max), (.aminuVg d k x r, .minu),
   (.amaxuVg d k x r, .maxu), (.aandVg d k x r, .and), (.aorVg d k x r, .or), (.axorVg d k x r, .xor), (.axchVg d k x r, .xch),
   (.acasVg d k x r, .cas)]

/-- A 32-bit MODE that `aaddf` refuses: stochastic or reserved rounding. -/
def refusesRounding (s : State) (op : AtomicOp) : Prop := op = .addf ∧ 5 ≤ s.rm

/-- One place of an update: its lane, and where its word lies (for a scratchpad: core and SRAM byte; for global memory: 0 and the
physical address). -/
abbrev Spot := Nat × Nat × Nat

/-- R300: updates of 4-byte words in order over a memory: the memory after them, the old values by lane, the flags. -/
def runUpdates (new : Nat → Nat → Nat × BitVec 8) : List Spot → (Nat → Nat → Byte) → (Nat → Nat → Byte) × List (Nat × Nat) × BitVec 8
  | [], m => (m, [], 0)
  | (i, c, a) :: rest, m =>
    let old := ofBytes ((List.range 4).map fun j => m c (a + j))
    let v := new i old
    let r := runUpdates new rest fun c' p => if c' = c then (numberAt v.1 4 a p).getD (m c p) else m c' p
    (r.1, (i, old) :: r.2.1, v.2 ||| r.2.2)

/-- R301: what an append does: the counter grows by the active lanes, and lane i receives its old value and the number of active
lanes below i. -/
def appended (s : State) (old : Nat) (i : Nat) : Word :=
  BitVec.ofNat 32 (old + ((List.range i).filter fun j => s.effMask.getLsbD j).length)

/-- The vector register that updates leave: the old values in the active lanes. -/
def OldsWritten (u t : State) (d : BitVec 7) (old : Nat → Word) : Prop :=
  (∀ i : Fin 32, (t.readV d).get i = if u.effMask.getLsbD i then old i else (u.readV d).get i)
    ∧ t.shadowV d = .unbounded ∧ (∀ r, r ≠ d → t.readV r = u.readV r ∧ t.shadowV r = u.shadowV r)

/-- A core's L1 without the words at `gone` and, after an acquire, without its SHARED words (R298, R304). -/
def CopiesLeft (u t : State) (pcn : Nat) (acquire : Bool) (gone : Nat → Prop) : Prop :=
  (∀ c, c ≠ pcn → (t.core c).l1 = (u.core c).l1)
    ∧ (∀ pa w, t.l1Word? pcn pa = some w → ¬ gone (pa / 4 * 4) ∧ (acquire = true → w.owned = true))
    ∧ (∀ l ∈ (t.core pcn).l1, ∃ k ∈ (u.core pcn).l1, k.line = l.line ∧ k.key = l.key ∧ ∀ w ∈ l.words, w ∈ k.words)
    ∧ (∀ k ∈ (u.core pcn).l1, ∀ w ∈ k.words, ¬ gone (k.line * 192 + 4 * w.idx) → (acquire = true → w.owned = true) →
        ∃ l ∈ (t.core pcn).l1, l.line = k.line ∧ w ∈ l.words)

/-- Nothing but the current warp, its L1 and the SRAM of cores has changed. -/
def OnlyScratch (u t : State) : Prop :=
  t = { u with warp := t.warp, cores := t.cores }
    ∧ ∀ pcn, { t.core pcn with l1 := [], sram := [], sramPoison := [] } = { u.core pcn with l1 := [], sram := [], sramPoison := [] }

/-- R185, R302, R319: what the warp has read ahead of its turn is left, but for what meets words updated at `spots`, and but for an acquire,
which leaves nothing of it. -/
def AheadLeft (u t : State) (acquire : Bool) (place : Spot → Option Nat) (spots : List Spot) (size : Nat) : Prop :=
  t.warp.ahead = (if acquire then [] else u.warp.ahead.filter fun e =>
      !spots.any fun q => (List.range size).any fun j => e.meets (place q) (q.2.2 + j) 1)
    ∧ t.warp.distrust = if acquire then [] else u.warp.distrust

/-- The state in which an atomic's updates begin: the stores before a release, then the warp's own stores to the scratchpads it
reaches, have performed (R302, R185). -/
def scratchReady (s : State) (r : BitVec 2) (cores : List Nat) : State :=
  cores.foldl (fun s c => s.drainTo c) (if r.getLsbD 1 then s.drain else s)

/-- The lanes of a vector scratchpad atomic with their places, ascending. -/
def scratchSpots (s : State) (x : BitVec 7) : List Spot :=
  (lanesOf s.effMask).filterMap fun i => match s.scratchAccess ((lane (s.readV x) i).toNat : Int) 4 4 with
    | .ok p => some (i, p.1, p.2)
    | .error _ => none

/-- The SRAM of the cores as a memory. -/
def srams (u : State) (c a : Nat) : Byte := (u.core c).sram.get a

end Sys2Proof.Claims

/-- R299, R300, R302: a scratchpad atomic updates each word once, in ascending lane order, at its home core; the lanes receive the old
values, the flags accumulate, a release performs the warp's stores first, an acquire drops SHARED copies; a scalar `aaddf` faults
ILLEGAL_IN_MODE. -/
def Obligations.ScratchAtomicResults : Prop :=
  ∀ (s : State) (d x : BitVec 7) (r : BitVec 2), s.canonical = true →
    (∀ row ∈ atomicsSs d x r, ∀ p, s.scratchAccess ((s.readS x).toNat : Int) 8 8 = .ok p →
      let u := scratchReady s r [p.1]
      let old := ofBytes ((List.range 8).map fun j => srams u p.1 (p.2 + j))
      let new := updated row.2 64 s.rm s.dz old (s.readS d).toNat (s.readS (d + 1)).toNat
      (if r.getLsbD 1 then s.drain else s).scratchPoisoned p.1 p.2 8 = false →
      ∃ t, exec row.1 s = .next t ∧ Retired s t
        ∧ t.readS d = (if sIdx d = 0 then 0 else BitVec.ofNat 64 old) ∧ t.shadowS d = (if sIdx d = 0 then .bounded 0 0 else .unbounded)
        ∧ (∀ q, sIdx q ≠ sIdx d → t.readS q = s.readS q ∧ t.shadowS q = s.shadowS q)
        ∧ (∀ c a, srams t c a = if c = p.1 then (numberAt new.1 8 p.2 a).getD (srams u c a) else srams u c a)
        ∧ t.warp.settled = { u.warp.settled with
            sreg := t.warp.sreg, sshd := t.warp.sshd, ahead := t.warp.ahead, distrust := t.warp.distrust }
        ∧ AheadLeft u t (r.getLsbD 0) (fun q => some q.2.1) [(0, p.1, p.2)] 8
        ∧ CopiesLeft u t s.warp.pcn (r.getLsbD 0) (fun _ => False) ∧ OnlyScratch u t)
    ∧ exec (.aaddfSs d x r) s = .next (s.fault (.mk 0xFF true false) inMode)
    ∧ (∀ row ∈ atomicsVs d x r, s.beyondVarch (if row.2 = .cas then [d, d + 1, x] else [d, x]) = false → s.pinned d = false →
      ¬ refusesRounding s row.2 →
      let spots := scratchSpots s x
      let u := scratchReady s r (spots.map fun q => q.2.1)
      let run := runUpdates (fun i old => updated row.2 32 s.rm s.dz old (lane (s.readV d) i).toNat (lane (s.readV (d + 1)) i).toNat)
        spots (srams u)
      (s.effMask = 0 → ∃ t, exec row.1 s = .next t ∧ NothingWritten s t s.nextPc)
      ∧ (s.effMask ≠ 0 → (∀ i ∈ lanesOf s.effMask, i ∈ spots.map Prod.fst) →
          (∀ q ∈ spots, (if r.getLsbD 1 then s.drain else s).scratchPoisoned q.2.1 q.2.2 4 = false) →
          ∃ t, exec row.1 s = .next t ∧ Retired s t
            ∧ OldsWritten s t d (fun i => BitVec.ofNat 32 ((run.2.1.lookup i).getD 0))
            ∧ (∀ c a, srams t c a = run.1 c a)
            ∧ t.warp.flg = s.warp.flg ||| run.2.2
            ∧ t.warp.settled = { u.warp.settled with
                vreg := t.warp.vreg, vshd := t.warp.vshd, flg := t.warp.flg, ahead := t.warp.ahead, distrust := t.warp.distrust }
            ∧ AheadLeft u t (r.getLsbD 0) (fun q => some q.2.1) spots 4
            ∧ CopiesLeft u t s.warp.pcn (r.getLsbD 0) (fun _ => False) ∧ OnlyScratch u t))

namespace Sys2Proof.Claims

/-- A word of global memory in calm: its line is in its slice under the access's key and stamp, its sector valid there, owned by nobody,
and unencrypted. -/
structure Calm (u : State) (p : Phys) (size : Nat) : Prop where
  clear : u.monarch.encryption = false
  inLine : p.pa / 192 = (p.pa + size - 1) / 192
  aligned : p.pa % 4 = 0
  held : ∃ l, u.sliceLine? (lineOf p.pa) = some l ∧ l.key = p.key ∧ l.stamp = u.stampOf u.warp.launch
    ∧ l.valid.getLsbD (sectorOf p.pa % 4) = true
  free : ∀ r ∈ u.homes.owners, r.line ≠ lineOf p.pa

/-- The state in which a global atomic's updates begin (R302, R185). -/
def globalReady (s : State) (a : ArrayReg) (r : BitVec 2) (size : Nat) (l : List LaneAccess) : State :=
  (State.performing l).foldl (fun s q => s.drainOver q.2.pa size)
    (if r.getLsbD 1 then (s.cacheAccesses a l).drain else s.cacheAccesses a l)

/-- The bytes at their homes as a memory. -/
def homeBytes (u : State) (_ a : Nat) : Byte := u.homeByte 0 a

/-- Nothing has changed but the current warp, its core's L1, footprint counts and the bytes its line's slices hold. -/
def OnlyHomes (u t : State) (pcn : Nat) : Prop :=
  t = { u with warp := t.warp, cores := t.cores, homes := t.homes }
    ∧ (∀ c, { t.core c with l1 := [], footprint := [] } = { u.core c with l1 := [], footprint := [] })
    ∧ (∀ c, c ≠ pcn → t.core c = u.core c)
    ∧ { t.homes with fresh := [], lines := [] } = { u.homes with fresh := [], lines := [] }
    ∧ (∀ line, t.sliceLine? line = u.sliceLine? line)

/-- What the drain of a warp's stores may change. -/
def DrainMoves (s t : State) : Prop :=
  t = { s with warp := t.warp, cores := t.cores, homes := t.homes, regions := t.regions, launches := t.launches, monarch := t.monarch }
    ∧ ∀ c, { t.core c with l1 := [], sram := [], sramPoison := [] } = { s.core c with l1 := [], sram := [], sramPoison := [] }

/-- The words that updates of `size` bytes at `spots` touch. -/
def Touched (spots : List Spot) (size : Nat) (wa : Nat) : Prop := ∃ q ∈ spots, q.2.2 ≤ wa ∧ wa < q.2.2 + size

end Sys2Proof.Claims

/-- R299, R300, R302, R298: a global atomic updates each performing lane's word once, in ascending lane order, at its home; the lanes
receive the old values (a suppressed lane 0), the flags accumulate, and the core's copies of the words become INVALID. -/
def Sys2Proof.Claims.GlobalAtomicResults : Prop :=
  ∀ (s : State) (d : BitVec 7) (k : BitVec 4) (x : BitVec 7) (r : BitVec 2),
    let a := s.readA k
    (∀ row ∈ atomicsSg d k x r, (a.esize = 2 ∨ (a.esize = 3 ∧ row.2 ≠ .addf)) → ¬ refusesRounding s row.2 →
      let size := Machine.sizeOf a.esize.toNat
      let l := s.arrayAccesses a .both false (s.shadowS x) 0 [(0, (s.readS x).toInt)]
      let u := globalReady s a r size l
      ∀ p, l.map LaneAccess.fate = [.performs p none] → Calm u p size → (∀ j < size, u.agentPoison (p.pa + j) = false) →
      let old := ofBytes ((List.range size).map fun j => u.homeByte 0 (p.pa + j))
      let new := updated row.2 (8 * size) s.rm s.dz old ((s.readS d).toNat % 2 ^ (8 * size)) ((s.readS (d + 1)).toNat % 2 ^ (8 * size))
      ∃ t, exec row.1 s = .next t ∧ Retired s t
        ∧ t.readS d = (if sIdx d = 0 then 0 else BitVec.ofNat 64 old) ∧ t.shadowS d = (if sIdx d = 0 then .bounded 0 0 else .unbounded)
        ∧ (∀ q, sIdx q ≠ sIdx d → t.readS q = s.readS q ∧ t.shadowS q = s.shadowS q)
        ∧ t.warp.flg = s.warp.flg ||| new.2
        ∧ (∀ b, t.homeByte 0 b = (numberAt new.1 size p.pa b).getD (u.homeByte 0 b))
        ∧ t.warp.settled = { u.warp.settled with
            sreg := t.warp.sreg, sshd := t.warp.sshd, areg := t.warp.areg, flg := t.warp.flg, ahead := t.warp.ahead, distrust := t.warp.distrust }
        ∧ ArrayRetired s t k l ∧ AheadLeft u t (r.getLsbD 0) (fun _ => none) [(0, 0, p.pa)] size
        ∧ CopiesLeft u t s.warp.pcn (r.getLsbD 0) (Touched [(0, 0, p.pa)] size) ∧ OnlyHomes u t s.warp.pcn)
    ∧ (∀ row ∈ atomicsSg d k x r, (a.esize = 2 ∨ (a.esize = 3 ∧ row.2 ≠ .addf)) → ¬ refusesRounding s row.2 →
      let l := s.arrayAccesses a .both false (s.shadowS x) 0 [(0, (s.readS x).toInt)]
      l.map LaneAccess.fate = [.suppressed] → ∃ t, exec row.1 s = .next t ∧ Retired s t ∧ t.readS d = 0 ∧ ArrayRetired s t k l)
    ∧ (∀ row ∈ atomicsVg d k x r, s.beyondVarch (if row.2 = .cas then [d, d + 1, x] else [d, x]) = false → a.esize = 2 →
      s.pinned d = false → ¬ refusesRounding s row.2 →
      let l := s.arrayAccesses a .both false (s.shadowV x) 0 (s.vectorIndices x)
      let u := globalReady s a r 4 l
      let spots := (State.performing l).map fun q => (q.1, 0, q.2.pa)
      let run := runUpdates (fun i old => updated row.2 32 s.rm s.dz old (lane (s.readV d) i).toNat (lane (s.readV (d + 1)) i).toNat)
        spots (homeBytes u)
      (s.effMask = 0 → ∃ t, exec row.1 s = .next t ∧ NothingWritten s t s.nextPc)
      ∧ (s.effMask ≠ 0 → LaneAccess.troubles l = [] → (∀ q ∈ State.performing l, Calm u q.2 4) →
          (∀ q ∈ State.performing l, ∀ j < 4, u.agentPoison (q.2.pa + j) = false) →
          ∃ t, exec row.1 s = .next t ∧ Retired s t
            ∧ OldsWritten s t d (fun i => BitVec.ofNat 32 ((run.2.1.lookup i).getD 0))
            ∧ (∀ b, t.homeByte 0 b = run.1 0 b)
            ∧ t.warp.flg = s.warp.flg ||| run.2.2
            ∧ t.warp.settled = { u.warp.settled with
                vreg := t.warp.vreg, vshd := t.warp.vshd, areg := t.warp.areg, flg := t.warp.flg, ahead := t.warp.ahead, distrust := t.warp.distrust }
            ∧ ArrayRetired s t k l ∧ AheadLeft u t (r.getLsbD 0) (fun _ => none) spots 4
            ∧ CopiesLeft u t s.warp.pcn (r.getLsbD 0) (Touched spots 4) ∧ OnlyHomes u t s.warp.pcn))

/-- R301: `aapp` adds the number of active lanes to the counter that the lowest active lane's index names, once, and gives each active
lane the old value and the number of active lanes below it. -/
def Sys2Proof.Claims.AppendResults : Prop :=
  ∀ (s : State) (d : BitVec 7) (k : BitVec 4) (x : BitVec 7) (r : BitVec 2), s.beyondVarch [d, x] = false → s.pinned d = false →
    (s.effMask = 0 → (∃ t, exec (.aappVs d x r) s = .next t ∧ NothingWritten s t s.nextPc)
      ∧ ((s.readA k).esize = 2 → ∃ t, exec (.aappVg d k x r) s = .next t ∧ NothingWritten s t s.nextPc))
    ∧ (∀ i rest p, s.canonical = true → lanesOf s.effMask = i :: rest →
        s.scratchAccess ((lane (s.readV x) i).toNat : Int) 4 4 = .ok p →
        (if r.getLsbD 1 then s.drain else s).scratchPoisoned p.1 p.2 4 = false →
        let u := scratchReady s r [p.1]
        let old := ofBytes ((List.range 4).map fun j => srams u p.1 (p.2 + j))
        let new := (old + (lanesOf s.effMask).length) % 2 ^ 32
        ∃ t, exec (.aappVs d x r) s = .next t ∧ Retired s t ∧ OldsWritten s t d (appended s old)
          ∧ (∀ c a, srams t c a = if c = p.1 then (numberAt new 4 p.2 a).getD (srams u c a) else srams u c a)
          ∧ t.warp.settled = { u.warp.settled with
              vreg := t.warp.vreg, vshd := t.warp.vshd, ahead := t.warp.ahead, distrust := t.warp.distrust }
          ∧ AheadLeft u t (r.getLsbD 0) (fun q => some q.2.1) [(0, p.1, p.2)] 4
          ∧ CopiesLeft u t s.warp.pcn (r.getLsbD 0) (fun _ => False) ∧ OnlyScratch u t)
    ∧ (let a := s.readA k
       let l := s.arrayAccesses a .both false (s.shadowV x) 0 ((s.vectorIndices x).take 1)
       let u := globalReady s a r 4 l
       ∀ p, a.esize = 2 → s.effMask ≠ 0 → l.map LaneAccess.fate = [.performs p none] → Calm u p 4 →
        (∀ j < 4, u.agentPoison (p.pa + j) = false) →
        let old := ofBytes ((List.range 4).map fun j => u.homeByte 0 (p.pa + j))
        let new := (old + (lanesOf s.effMask).length) % 2 ^ 32
        ∃ t, exec (.aappVg d k x r) s = .next t ∧ Retired s t ∧ OldsWritten s t d (appended s old)
          ∧ (∀ b, t.homeByte 0 b = (numberAt new 4 p.pa b).getD (u.homeByte 0 b))
          ∧ t.warp.settled = { u.warp.settled with
              vreg := t.warp.vreg, vshd := t.warp.vshd, areg := t.warp.areg, ahead := t.warp.ahead, distrust := t.warp.distrust }
          ∧ ArrayRetired s t k l ∧ AheadLeft u t (r.getLsbD 0) (fun _ => none) [(0, 0, p.pa)] 4
          ∧ CopiesLeft u t s.warp.pcn (r.getLsbD 0) (Touched [(0, 0, p.pa)] 4) ∧ OnlyHomes u t s.warp.pcn)

/-- R304, R305, R307: `facq` drops the core's SHARED words, `frel` performs every store of the warp, `ffull` does both; `iinv` drops the
words of its range from every instruction cache; `dwb` of an empty range and `fetchb` change nothing; a range past 2^48 faults. -/
def Sys2Proof.Claims.FenceResults : Prop :=
  ∀ (s : State) (d a : BitVec 7),
    (∃ t, exec .facq s = .next t ∧ Retired s t ∧ t.warp.settled = { s.warp.settled with ahead := [], distrust := [] }
      ∧ CopiesLeft s t s.warp.pcn true (fun _ => False) ∧ OnlyScratch s t ∧ ∀ c b, srams t c b = srams s c b)
    ∧ (∃ t, exec .frel s = .next t ∧ Retired s t ∧ t.warp.settled = { s.warp.settled with stores := [] } ∧ DrainMoves s t
      ∧ (s.canonical = true → ∀ c b, srams t c b = match lastCell ((s.warp.stores.filter (·.scratch = some c)).flatMap PendingStore.cells) b with
          | some v => v | none => srams s c b)
      ∧ (Plain s → (∀ q ∈ s.warp.stores, q.scratch = none → q.cells ≠ [] ∧ sortedFrom 0 q.cells = true ∧ ∀ c ∈ q.cells, lineOf c.1 = q.line) →
          CellsWritten s t ((s.warp.stores.filter (·.scratch = none)).flatMap PendingStore.cells)))
    ∧ (∃ t u, exec .ffull s = .next t ∧ exec .frel s = .next u ∧ Retired s t ∧ t.warp.settled = { u.warp.settled with ahead := [], distrust := [] }
      ∧ CopiesLeft u t s.warp.pcn true (fun _ => False) ∧ OnlyScratch u t ∧ ∀ c b, srams t c b = srams u c b)
    ∧ (∃ t, exec .fetchb s = .next t ∧ NothingWritten s t s.nextPc)
    ∧ ((s.readS a).setWidth 32 = 0#32 → (∃ t, exec (.dwb d a) s = .next t ∧ NothingWritten s t s.nextPc)
        ∧ ∃ t, exec (.iinv d a) s = .next t ∧ NothingWritten s t s.nextPc)
    ∧ (let n := (s.readS a).toNat % 2 ^ 32
       let lo := (s.readS d).toNat
       n ≠ 0 → lo + n ≤ 2 ^ 48 →
       let runs := s.runsOf s.warp.pcn (n / 4096 + 2) lo (lo + n)
       (∃ t, exec (.iinv d a) s = .next t ∧ Retired s t ∧ t.warp.settled = s.warp.settled ∧ t = { s with warp := t.warp, cores := t.cores }
          ∧ (∀ c, { t.core c with icache := [] } = { s.core c with icache := [] })
          ∧ ∀ c e, e ∈ (t.core c).icache ↔ e ∈ (s.core c).icache ∧ ¬ State.inRuns runs e.1 = true)
       ∧ (∃ t, exec (.dwb d a) s = .next t ∧ Retired s t ∧ t.warp.settled = { s.warp.settled with stores := t.warp.stores }
          ∧ DrainMoves s t ∧ t.warp.stores = []
          ∧ (Plain s → s.warp.stores = [] → BytesKept s t
              ∧ ∀ pa, State.inRuns runs (pa / 4 * 4) = true → ∀ w, t.l1Word? s.warp.pcn pa = some w → w.owned = true → w.dirty = false)))
    ∧ (let n := (s.readS a).toNat % 2 ^ 32
       n ≠ 0 → 2 ^ 48 < (s.readS d).toNat + n →
       exec (.dwb d a) s = .next (s.fault .scalar ⟨cTRANSLATION, 5, s.readS d⟩)
        ∧ exec (.iinv d a) s = .next (s.fault .scalar ⟨cTRANSLATION, 5, s.readS d⟩))

/-! ## Copies -/

namespace Sys2Proof.Claims

/-- The four copies. -/
def copies (k : BitVec 4) (a : BitVec 7) : List (Instr × CopyOp) :=
  [(.acopyIn k a, .copyIn), (.acopyOut k a, .copyOut), (.agather k a, .gather), (.ascadd k a, .scatterAdd)]

/-- R238's table: the operands of a copy in registers a, a + 1, a + 2 and array register k. -/
def operands (s : State) (op : CopyOp) (k : BitVec 4) (a : BitVec 7) : CopyArgs :=
  let x := (s.readS (a + 2)).toNat
  { op := op, areg := s.readA k, count := x % 2 ^ 18, first := (s.readS a).toInt, side := (s.readS (a + 1)).toNat,
    list := (s.readS a).toNat, aw := if x / 2 ^ 18 % 2 = 1 then some (x / 2 ^ 19 % 2 ^ 22) else none,
    dv := if x / 2 ^ 41 % 2 = 1 then some (x / 2 ^ 42) else none, awaddr := x / 2 ^ 19 % 2 ^ 22, dvaddr := x / 2 ^ 42 }

/-- `t` is `s` with the current warp waiting for `w`, and nothing else changed (R257). -/
def Waits (s t : State) (w : Wait) : Prop :=
  OnlyWarp s t ∧ t.warp.status = .waiting ∧ t.warp.wait = some w ∧ t.warp.pc = s.warp.pc ∧ t.warp.settled = s.warp.settled

/-- `t` is `s` with the current warp held at its instruction by `w`, READY still (R257), and nothing else changed. -/
def Stays (s t : State) (w : Wait) : Prop :=
  OnlyWarp s t ∧ t.warp.status = .ready ∧ t.warp.wait = some w ∧ t.warp.pc = s.warp.pc ∧ t.warp.settled = s.warp.settled

/-- A copy that has taken a slot (R239): the core holds one more, the warp has retired, the array register has counted. -/
def Granted (u t : State) (k : BitVec 4) (c : CopyArgs) (pieces : List Piece) (suppressed : Bool) : Prop :=
  Retired u t
    ∧ (∃ x, (t.core u.warp.pcn).copies = u.myCore.copies ++ [x] ∧ x.id = u.myCore.nextCopy ∧ x.cw = u.warp.cw ∧ x.launch = u.warp.launch
        ∧ x.op = c.op ∧ x.areg = c.areg ∧ x.count = c.count ∧ x.mode = u.warp.mode ∧ x.suppressed = suppressed ∧ x.batch = none
        ∧ x.pieces = pieces ∧ x.arrivals = [] ∧ x.rows = [] ∧ x.badWords = [] ∧ x.asked = [] ∧ x.indices = none
        ∧ (c.op = .scatterAdd → x.todo = range 0 (c.count * c.size / 4)) ∧ (x.aw.isSome = true ↔ c.aw.isSome = true ∧ c.count ≠ 0)
        ∧ (∀ p, c.count ≠ 0 → u.scratchRange c.side (c.count * c.size) = .ok p → x.side = p)
        ∧ (c.op = .copyIn ∨ c.op = .gather → ∀ j, j < c.count * c.size → ∃ o ∈ x.todo, o ≤ j ∧ j < o + x.chunk o)
        ∧ (c.op = .copyIn ∨ c.op = .gather → ∀ o ∈ x.todo, ∀ q ∈ x.todo, o < q → o + x.chunk o ≤ q))
    ∧ (t.core u.warp.pcn).nextCopy = u.myCore.nextCopy + 1
    ∧ (t.readA k).vcount.toNat = min 65535 ((u.readA k).vcount.toNat + if suppressed then 1 else 0)
    ∧ (∀ q, q ≠ k → t.readA q = u.readA q)
    ∧ t.warp.settled = { u.warp.settled with areg := t.warp.areg } ∧ t = { u with warp := t.warp, cores := t.cores }
    ∧ (∀ pcn, { t.core pcn with copies := [], nextCopy := 0, footprint := [] } = { u.core pcn with copies := [], nextCopy := 0, footprint := [] })

end Sys2Proof.Claims

/-- R239: a copy makes its checks in order, after the warp's stores have performed; an `acopy` outside its array is suppressed under
SUPPRESS and faults otherwise; a copy that passes takes a slot, for which it waits while all 64 are taken. (That a suppressed copy is
checked no further is the model's reading, log 17; the address in a record is that of log 15.) -/
def Obligations.CopyIssueResults : Prop :=
  ∀ (s : State) (k : BitVec 4) (a : BitVec 7), ∀ row ∈ copies k a,
    let u := s.drain
    let c := operands s row.2 k a
    let site : Site := .mk (k.setWidth 8) c.stores false
    (∀ x, u.copyFirst c = some x → exec row.1 s = .next (u.fault site x))
    ∧ (u.copyFirst c = none → ∀ x, State.copyBounds c = some x →
        (c.areg.check ≠ 0 → exec row.1 s = .next (u.fault site x))
        ∧ (c.areg.check = 0 → u.myCore.copies.length < 64 → ∃ t, exec row.1 s = .next t ∧ Granted u t k c [] true))
    ∧ (u.copyFirst c = none → State.copyBounds c = none →
        (∀ x, u.copyGlobal c = .error x → exec row.1 s = .next (u.fault site x))
        ∧ (∀ pieces, u.copyGlobal c = .ok pieces →
            let v := u.reachCopy c
            (Plain u → BytesKept u v)
            ∧ (u.myCore.copies.length < 64 → ∃ t, exec row.1 s = .next t ∧ Granted v t k c pieces false)
            ∧ (64 ≤ u.myCore.copies.length → ∃ t, exec row.1 s = .next t ∧ Waits v t (.copySlot row.2 k a))))

namespace Sys2Proof.Claims

/-- R354: a core's TLBs hold what the tables hold. -/
def TlbsTrue (s : State) (pcn : Nat) : Prop := ∀ va, s.leafFor pcn va = s.walk (s.core pcn).ptroot va

/-- R239 check 4: the fault of a scratchpad range that does not lie in one window: at its lowest byte outside. -/
def rangeTrouble (s : State) (r : Nat × Nat) : Option Trouble :=
  match s.scratchPlace r.1 r.2 with
  | .ok _ => none
  | .error d => some ⟨cSCRATCH, d, BitVec.ofNat 64 (match s.scratchPlace r.1 1 with
      | .error _ => r.1
      | .ok _ => r.1 - r.1 % 2 ^ 19 + 32768 * (s.blockOn? (if r.1 / 2 ^ 21 = 1 then s.warp.pcn else s.warp.pcn / 4 * 4
          + r.1 / 2 ^ 19 % 4)).elim 0 Block.scratch)⟩

/-- A fault is one of some, and none of them has a lower address. -/
def LowestOf (x : Option Trouble) (l : List Trouble) : Prop :=
  (l = [] → x = none) ∧ (l ≠ [] → ∃ t ∈ l, x = some t ∧ ∀ y ∈ l, t.addr.toNat ≤ y.addr.toNat)

end Sys2Proof.Claims

/-- R239's table, R390: the checks of a copy in their order, each with its cause and DETAIL, at the lowest faulting address: the control word,
the modes, the alignments, the windows (`copyFirst`); the array (`copyBounds`); read-only and CONST registers, a pool table's grant, the
leases, and of an `acopy` the pages, whose bytes the pieces then name (`copyGlobal`). -/
def Sys2Proof.Claims.CopyChecks : Prop :=
  ∀ (s : State) (k : BitVec 4) (a : BitVec 7) (op : CopyOp),
    let c := operands s op k a
    let plain := op = .copyIn ∨ op = .copyOut
    let stores := op = .copyOut ∨ op = .scatterAdd
    let e := c.areg.esize.toNat
    let size := Machine.sizeOf e
    let bad1 := (plain ∧ (c.dv ≠ none ∨ c.dvaddr ≠ 0)) ∨ (stores ∧ c.aw ≠ none)
    let bad2 := (plain ∧ 5 ≤ e) ∨ (op = .scatterAdd ∧ (e ≤ 1 ∨ ¬ (s.et = 0 ∨ s.et = 1 ∨ s.et = 6) ∨ (s.et = 6 ∧ 5 ≤ s.rm)))
    let lists := if op = .gather ∨ op = .scatterAdd then [c.list] else []
    let aligned := [(c.side, min size 16)] ++ lists.map (fun x => (x, 4)) ++ [(c.dvaddr, 4), (c.awaddr, 16)]
    let askew := (aligned.filter fun x => x.1 % x.2 != 0).map fun x => (⟨cMISALIGN, x.2, BitVec.ofNat 64 x.1⟩ : Trouble)
    let named := if c.count = 0 then [] else [(c.side, c.count * size)] ++ lists.map (fun x => (x, 4 * c.count))
      ++ c.dv.toList.map (fun x => (x, 4)) ++ c.aw.toList.map (fun x => (x, 16))
    (bad1 → s.copyFirst c = some malformedForm)
    ∧ (¬ bad1 → bad2 → s.copyFirst c = some inMode)
    ∧ (¬ bad1 → ¬ bad2 → askew ≠ [] → LowestOf (s.copyFirst c) askew)
    ∧ (¬ bad1 → ¬ bad2 → askew = [] → LowestOf (s.copyFirst c) (named.filterMap (rangeTrouble s)))
    ∧ (¬ plain → State.copyBounds c = none)
    ∧ (plain → State.copyBounds c =
        if c.first < 0 then some ⟨cBOUNDS, 0, BitVec.ofInt 64 (c.areg.base.toNat + c.first * size)⟩
        else if (c.areg.extent.toNat : Int) < c.first + c.count then
          some ⟨cBOUNDS, 1, BitVec.ofInt 64 (c.areg.base.toNat + (if c.areg.extent.toNat ≤ c.first then c.first else c.areg.extent.toNat) * size)⟩
        else none)
    ∧ (0 ≤ c.first ∨ ¬ plain → ∀ l, s.launch? s.warp.launch = some l →
        let lo := c.areg.base.toNat + if plain then c.first.toNat * size else 0
        let n := (if plain then c.count else c.areg.extent.toNat) * size
        let out := fun (va : Nat) => lo ≤ va ∧ va < lo + n ∧ ∀ r ∈ l.lease, va / 4096 < r.1 ∨ r.1 + r.2 ≤ va / 4096
        let no := fun (va : Nat) (t : Trouble) => lo ≤ va ∧ va < lo + n ∧ s.translate s.warp.pcn (if stores then .write else .read) va = .error t
        (stores → (c.areg.ro = true ∨ c.areg.check = 2) → s.copyGlobal c = .error ⟨cPERMISSION, 0, BitVec.ofNat 64 lo⟩)
        ∧ (¬ (stores ∧ (c.areg.ro = true ∨ c.areg.check = 2)) → 5 ≤ e → s.copyGlobal c =
            match (if c.areg.base = 0 then none else s.fabric.tables.find? (·.id == c.areg.base.toNat)) with
            | none => .error ⟨cLEASE, 0, c.areg.base.setWidth 64⟩
            | some t => match t.grants.find? (·.1 == s.warp.rid) with
              | none => .error ⟨cLEASE, 0, c.areg.base.setWidth 64⟩
              | some g =>
                if t.rowSize ≠ size then .error ⟨cLEASE, 1, c.areg.base.setWidth 64⟩
                else if (op = .gather ∧ g.2.1 = false) ∨ (op = .scatterAdd ∧ g.2.2 = false) then .error ⟨cLEASE, 2, c.areg.base.setWidth 64⟩
                else .ok [])
        ∧ (¬ stores → e < 5 → c.areg.check = 2 → s.copyGlobal c = .ok (if plain then [⟨0, lo, n, 0, false⟩] else []))
        ∧ (¬ (stores ∧ c.areg.ro = true) → e < 5 → c.areg.check ≠ 2 →
            (∀ va, out va → (∀ x, out x → va ≤ x) → s.copyGlobal c = .error ⟨cLEASE, 0, BitVec.ofNat 64 va⟩)
            ∧ ((∀ va, ¬ out va) → ¬ plain → s.copyGlobal c = .ok [])
            ∧ ((∀ va, ¬ out va) → plain → TlbsTrue s s.warp.pcn →
                (∀ va t, no va t → (∀ x y, no x y → va ≤ x) → s.copyGlobal c = .error t)
                ∧ ((∀ va t, ¬ no va t) → ∃ ps, s.copyGlobal c = .ok ps ∧ ps.Pairwise (fun x y => x.off + x.len ≤ y.off)
                    ∧ ∀ j < n, ∃ p ∈ ps, p.off ≤ j ∧ j < p.off + p.len
                        ∧ s.translate s.warp.pcn (if stores then .write else .read) (lo + j) = .ok ⟨p.pa + (j - p.off), p.key, p.unc⟩))))

namespace Sys2Proof.Claims

/-- A copy has done the part at offset `o` and nothing else of the machine's control has changed. -/
def PartDone (s t : State) (pcn : Nat) (c : Copy) (o : Nat) (arrivals : List Nat) : Prop :=
  t.copy? pcn c.id = some { c with todo := c.todo.filter (· != o), arrivals := arrivals }
    ∧ t.warp = s.warp ∧ t.others = s.others ∧ t.gangs = s.gangs

/-- The bytes an `acopy` moves in n bytes from an offset, with their places. -/
def pieceBytes (c : Copy) (o n : Nat) : List (Nat × BitVec 6) :=
  (State.pieceParts c o n).flatMap fun p => (List.range p.2.1).map fun j => (p.1 + j, p.2.2)

/-- R241: the rows of a gather that begin in n bytes from an offset and are dropped. -/
def dropsIn (s : State) (pcn : Nat) (c : Copy) (o n : Nat) : Nat :=
  ((List.range c.count).filter fun m => o ≤ m * c.size ∧ m * c.size < o + n ∧ s.dropped pcn c m = true).length

/-- R18: a byte of a launch's constant segment: the one in the frame that its page had when the launch was placed. -/
def constantAt (s : State) (l : Launch) (off : Nat) : Byte :=
  match l.constMap.getD ((l.constVa + off) / 4096 - l.constVa / 4096) none with
  | some f => s.agentByte f.2 (f.1 + (l.constVa + off) % 4096)
  | none => Config.lostByte (l.constVa + off)

/-- The word of 4 bytes in a core's SRAM. -/
def wordAt (s : State) (p : Nat × Nat) : Nat := ofBytes ((List.range 4).map fun j => srams s p.1 (p.2 + j))

/-- R241: a drop counter has counted `n`, and no other byte of an SRAM has changed but those that `other` names. -/
def DropsCounted (s t : State) (p : Nat × Nat) (n : Nat) (other : Nat → Nat → Prop) : Prop :=
  wordAt t p = (if n = 0 then wordAt s p else min (2 ^ 32 - 1) (wordAt s p + n))
    ∧ ∀ q b, ¬ (q = p.1 ∧ p.2 ≤ b ∧ b < p.2 + 4) → ¬ other q b → srams t q b = srams s q b

/-- R240: n bytes of an SRAM are marked with poison, or the words of them are free of it. -/
def Marked (t : State) (p : Nat × Nat) (n : Nat) (bad : Bool) : Prop :=
  (bad = true → ∀ j < n, t.sramPoisoned p.1 (p.2 + j) 1 = true)
    ∧ (bad = false → ∀ w, p.2 ≤ 4 * w → 4 * w + 4 ≤ p.2 + n → t.sramPoisoned p.1 (4 * w) 4 = false)

/-- A list of bytes written in a core's SRAM at `a`. -/
def Filled (s t : State) (pcn a : Nat) (bs : List Byte) : Prop :=
  ∀ c p, srams t c p = if c = pcn ∧ a ≤ p ∧ p < a + bs.length then bs.getD (p - a) 0 else srams s c p

end Sys2Proof.Claims

/-- R240, R241: a COPY_SECTOR_WRITE of an `acopy.in` puts the bytes its pieces hold into the scratchpad (those of the constant space through a
CONST register, R18), of an `acopy.out` those of the scratchpad into global memory, of a suppressed copy zeros, of an `agather` the bytes of
its rows, of an `ascadd` adds one element to its row; a dropped row is zeros, or adds nothing, and adds 1 to the copy's drop counter, which
stays at 2^32 − 1. A sector read with poison is marked. (A byte of the constant space whose page had no translation is not stated, log 13.) -/
def Obligations.CopySectorResults : Prop :=
  ∀ (s : State), Plain s → ∀ (c : Copy), s.copy? s.subject.pcn s.subject.id = some c → s.subject.n ∈ c.todo →
    let o := s.subject.n
    let n := c.chunk o
    let pcn := s.subject.pcn
    let owed := if c.aw.isSome then c.arrivals ++ [n] else c.arrivals
    (c.op = .copyIn → c.suppressed = true → ∃ t, exec .copySectorWrite s = .next t ∧ PartDone s t pcn c o owed
        ∧ Filled s t c.side.1 (c.side.2 + o) (List.replicate n 0) ∧ BytesKept s t)
    ∧ (c.op = .copyIn → c.suppressed = false → c.areg.esize.toNat < 5 → c.pieces.Pairwise (fun x y => x.off + x.len ≤ y.off) →
        ∀ l, (c.areg.check = 2 → s.launch? c.launch = some l) →
        ∃ t, exec .copySectorWrite s = .next t ∧ PartDone s t pcn c o owed ∧ BytesKept s t
          ∧ Filled s t c.side.1 (c.side.2 + o) ((pieceBytes c o n).map fun p =>
              if c.areg.check = 2 then constantAt s l p.1 else s.agentByte p.2 p.1)
          ∧ Marked t (c.side.1, c.side.2 + o) (pieceBytes c o n).length (s.copySource pcn c o n).2.2)
    ∧ (c.op = .copyOut → c.pieces.Pairwise (fun x y => x.off + x.len ≤ y.off) →
        ∃ t, exec .copySectorWrite s = .next t ∧ PartDone s t pcn c o c.arrivals ∧ (∀ q p, srams t q p = srams s q p)
          ∧ (∀ key pa, t.agentByte key pa = match (pieceBytes c o n).findIdx? (fun p => p.1 == pa) with
              | some j => srams s c.side.1 (c.side.2 + o + j)
              | none => s.agentByte key pa)
          ∧ (s.sramPoisoned c.side.1 (c.side.2 + o) n = true → ∀ p ∈ pieceBytes c o n, t.agentPoison p.1 = true))
    ∧ (c.op = .scatterAdd → c.areg.esize.toNat < 5 → ∀ ix, c.indices = some ix →
        let m := o / (c.size / 4)
        match s.rowPlace pcn c (State.indexOf c m) with
        | some p => p.pa % 4 = 0 →
            let a := p.pa + 4 * (o % (c.size / 4))
            let old := ofBytes ((List.range 4).map fun j => s.agentByte p.key (a + j))
            let x := ofBytes ((List.range 4).map fun j => srams s c.side.1 (c.side.2 + 4 * o + j))
            let new := if (c.mode.extractLsb' 3 4).toNat = 6 then (addF32 (c.mode.extractLsb' 7 3).toNat 0 (c.mode.getLsbD 11) old x).1
              else (old + x) % 2 ^ 32
            ∃ t, exec .copySectorWrite s = .next t ∧ PartDone s t pcn c o c.arrivals ∧ (∀ q b, srams t q b = srams s q b)
              ∧ (∀ key pa, t.agentByte key pa = (numberAt new 4 a pa).getD (s.agentByte key pa))
              ∧ (s.sramPoisoned c.side.1 (c.side.2 + 4 * o) 4 = true → ∀ j < 4, t.agentPoison (a + j) = true)
        | none => ∃ t, exec .copySectorWrite s = .next t ∧ PartDone s t pcn c o c.arrivals ∧ BytesKept s t
            ∧ (o % (c.size / 4) ≠ 0 ∨ c.dv = none → ∀ q b, srams t q b = srams s q b)
            ∧ ∀ p, c.dv = some p → o % (c.size / 4) = 0 → DropsCounted s t p 1 fun _ _ => False)
    ∧ (c.op = .scatterAdd → 5 ≤ c.areg.esize.toNat → ∀ ix, c.indices = some ix →
        let m := o / (c.size / 4)
        (s.poolDropped c (State.indexOf c m) = false → exec .copySectorWrite s = .next s)
        ∧ (s.poolDropped c (State.indexOf c m) = true →
            ∃ t, exec .copySectorWrite s = .next t ∧ PartDone s t pcn c o c.arrivals ∧ BytesKept s t
              ∧ (o % (c.size / 4) ≠ 0 ∨ c.dv = none → ∀ q b, srams t q b = srams s q b)
              ∧ ∀ p, c.dv = some p → o % (c.size / 4) = 0 → DropsCounted s t p 1 fun _ _ => False))
    ∧ (c.op = .gather → c.suppressed = false → 0 < n → ∀ ix, c.indices = some ix → ∀ l, (c.areg.check = 2 → s.launch? c.launch = some l) →
        (c.areg.esize.toNat < 5 → c.areg.check ≠ 2 → TlbsTrue s pcn) →
        (∀ q, c.dv = some q → q.1 ≠ c.side.1 ∨ q.2 + 4 ≤ c.side.2 + o ∨ c.side.2 + o + n ≤ q.2) →
        let byte := fun (j : Nat) =>
          let m := (o + j) / c.size
          let b := (o + j) % c.size
          if s.dropped pcn c m = true then 0
          else if 5 ≤ c.areg.esize.toNat then ((c.rows.lookup m).getD []).getD b 0
          else if c.areg.check = 2 then constantAt s l (c.areg.base.toNat + (State.indexOf c m).toNat * c.size + b)
          else (s.rowPlace pcn c (State.indexOf c m)).elim 0 fun p => s.agentByte p.key (p.pa + b)
        (5 ≤ c.areg.esize.toNat → (∃ j < n, s.dropped pcn c ((o + j) / c.size) = false
            ∧ ¬ (c.rows.lookup ((o + j) / c.size)).any (c.size ≤ List.length ·) = true) → exec .copySectorWrite s = .next s)
        ∧ ((5 ≤ c.areg.esize.toNat → ∀ j < n, s.dropped pcn c ((o + j) / c.size) = false →
              (c.rows.lookup ((o + j) / c.size)).any (c.size ≤ List.length ·) = true) →
          ∃ t, exec .copySectorWrite s = .next t ∧ PartDone s t pcn c o owed ∧ BytesKept s t
            ∧ (∀ j < n, srams t c.side.1 (c.side.2 + o + j) = byte j)
            ∧ Marked t (c.side.1, c.side.2 + o) n (s.copySource pcn c o n).2.2
            ∧ (c.dv = none → ∀ q b, ¬ (q = c.side.1 ∧ c.side.2 + o ≤ b ∧ b < c.side.2 + o + n) → srams t q b = srams s q b)
            ∧ ∀ q, c.dv = some q → DropsCounted s t q (dropsIn s pcn c o n)
                fun k b => k = c.side.1 ∧ c.side.2 + o ≤ b ∧ b < c.side.2 + o + n))
    ∧ (∀ m, s.dropped pcn c m = true ↔
        (State.indexOf c m < 0 ∨ (c.areg.extent.toNat : Int) ≤ State.indexOf c m
          ∨ (5 ≤ c.areg.esize.toNat ∧ s.poolDropped c (State.indexOf c m) = true)
          ∨ (c.areg.esize.toNat < 5 ∧ c.areg.check = 2 ∧ ∀ p, s.translate pcn .read ((s.launch? c.launch).elim 0 Launch.constVa
              + c.areg.base.toNat + (State.indexOf c m).toNat * c.size) ≠ .ok p)
          ∨ (c.areg.esize.toNat < 5 ∧ c.areg.check ≠ 2 ∧ ∀ p, s.translate pcn (if c.op = .scatterAdd then .both else .read)
              (c.areg.base.toNat + (State.indexOf c m).toNat * c.size) ≠ .ok p)))

namespace Sys2Proof.Claims

/-- R235: the fields of an arrival word: target, count, generation, flags. -/
structure Arrivals where
  target : Nat
  count : Nat
  gen : Nat
  flags : Nat

/-- R235: an arrival word in SRAM. -/
def arrivalsAt (s : State) (p : Nat × Nat) : Arrivals :=
  let at_ := fun (o n : Nat) => ofBytes ((List.range n).map fun j => srams s p.1 (p.2 + o + j))
  ⟨at_ 0 6, at_ 6 6, at_ 12 2, at_ 14 2⟩

/-- R236: an arrival of b bytes: the count, held at 2^48 − 1 with OVERFLOW when it would pass it, and the generations it completes. -/
def Arrivals.after (x : Arrivals) (b : Nat) : Arrivals :=
  let c := min (2 ^ 48 - 1) (x.count + b)
  { target := x.target
    count := if x.target = 0 then c else c % x.target
    gen := if x.target = 0 then x.gen else (x.gen + c / x.target) % 65536
    flags := if 2 ^ 48 - 1 < x.count + b ∧ x.flags % 2 = 0 then x.flags + 1 else x.flags }

/-- Only the 16 bytes of an arrival word have changed among all bytes, and they hold `x`. -/
def ArrivalsBecome (s t : State) (p : Nat × Nat) (x : Arrivals) : Prop :=
  arrivalsAt t p = x ∧ ∀ c a, ¬ (c = p.1 ∧ p.2 ≤ a ∧ a < p.2 + 16) → srams t c a = srams s c a

end Sys2Proof.Claims

/-- R236, R240, R244: `armw` sets an arrival word's target and settles it, an ARRIVAL adds the oldest arrival a copy owes, COPY_COMPLETE
gives up the slot of a copy with nothing left to do and leaves any other. -/
def Sys2Proof.Claims.ArrivalResults : Prop :=
  ∀ (s : State), s.canonical = true →
    (∀ (d a : BitVec 7) p, s.scratchAccess ((s.readS d).toNat : Int) 16 16 = .ok p → s.warp.stores = [] →
      s.sramPoisoned p.1 p.2 16 = false →
      ∃ t, exec (.armw d a) s = .next t ∧ Retired s t ∧ t.warp.settled = { s.warp.settled with ahead := t.warp.ahead }
        ∧ AheadLeft s t false (fun q => some q.2.1) [(0, p.1, p.2)] 16
        ∧ ArrivalsBecome s t p (Arrivals.after { arrivalsAt s p with target := (s.readS a).toNat % 2 ^ 48 } 0)
        ∧ t = { s with warp := t.warp, cores := t.cores }
        ∧ ∀ c, { t.core c with sram := [], sramPoison := [] } = { s.core c with sram := [], sramPoison := [] })
    ∧ (∀ c p b rest, s.copy? s.subject.pcn s.subject.id = some c → c.aw = some p → c.arrivals = b :: rest →
      s.sramPoisoned p.1 p.2 16 = false →
      ∃ t, exec .arrival s = .next t ∧ t.copy? s.subject.pcn s.subject.id = some { c with arrivals := rest }
        ∧ ArrivalsBecome s t p ((arrivalsAt s p).after b) ∧ t = { s with cores := t.cores })
    ∧ (∀ c, s.copy? s.subject.pcn s.subject.id = some c → s.warpAt? s.subject.pcn c.cw = none →
      ∃ t, exec .copyComplete s = .next t ∧ t = { s with cores := t.cores }
        ∧ if c.todo = [] ∧ c.arrivals = [] then t.copy? s.subject.pcn s.subject.id = none else t = s)
    ∧ (∀ c, s.copy? s.subject.pcn s.subject.id = some c → c.todo = [] → c.arrivals = [] →
      ∃ t, exec .copyComplete s = .next t ∧ t.copy? s.subject.pcn s.subject.id = none)

namespace Sys2Proof.Claims

/-- R317, R319, R321: what a warp had read ahead of its turn is read again, and so is, from its home, every sector of which its core holds a
SHARED word (log 71); nothing else of the warp has changed. -/
def Distrusts (u t : State) : Prop :=
  t.warp.settled = { u.warp.settled with ahead := [], distrust := t.warp.distrust }
    ∧ ∀ pa w, u.l1Word? u.warp.pcn pa = some w → w.owned = false → sectorOf pa ∈ t.warp.distrust

end Sys2Proof.Claims

/-- R242, R243: `cseal` seals the open batch under the next number and returns it, waiting while 16 sealed batches are open; `cwait`
goes on when every copy of the batches up to its number is complete, no SHARED word of the core being removed (R298), and the warp reads
the sectors they lie in anew (log 71); it stays at its place, READY, otherwise. -/
def Sys2Proof.Claims.BatchResults : Prop :=
  ∀ (s : State) (d a : BitVec 7),
    let mine := s.myCore.copies.filter fun c => c.cw == s.warp.cw
    let open_ := mine.filter fun c => c.batch == none
    let n := s.warp.lastSeal + 1
    (open_ = [] ∨ (mine.filterMap Copy.batch).eraseDups.length < 16 →
      ∃ t, exec (.cseal d) s = .next t ∧ Retired s t ∧ t.readS d = (if sIdx d = 0 then 0 else n.setWidth 64) ∧ t.warp.lastSeal = n
        ∧ (∀ r, sIdx r ≠ sIdx d → t.readS r = s.readS r ∧ t.shadowS r = s.shadowS r)
        ∧ t.warp.settled = { s.warp.settled with sreg := t.warp.sreg, sshd := t.warp.sshd, lastSeal := n }
        ∧ (t.core s.warp.pcn).copies = s.myCore.copies.map (fun c => if c.cw = s.warp.cw ∧ c.batch = none then { c with batch := some n } else c)
        ∧ t = { s with warp := t.warp, cores := t.cores } ∧ SameMemory s t)
    ∧ (open_ ≠ [] → 16 ≤ (mine.filterMap Copy.batch).eraseDups.length → ∃ t, exec (.cseal d) s = .next t ∧ Waits s t (.cseal d))
    ∧ (let b := (s.readS a).setWidth 32
       let b := if 2 ^ 31 ≤ (s.warp.lastSeal - b).toNat then s.warp.lastSeal else b
       let waits := ∃ c ∈ mine, ∃ m, c.batch = some m ∧ (b - m).toNat < 2 ^ 31
       (¬ waits → ∃ t, exec (.cwait a) s = .next t ∧ Retired s t ∧ OnlyWarp s t ∧ Distrusts s t)
       ∧ (waits → ∃ t, exec (.cwait a) s = .next t ∧ Stays s t (.cwait b)))

/-- R245, R246, R247: `waitg` goes on when the arrival word's generation has been reached, its warp reading anew what it orders (log 71),
`waitw` and `waitw.g` when the word differs from the value, each as an acquire, and each waits otherwise. The scratchpad words are
read once the warp's own older stores to them have performed (R287). -/
def Sys2Proof.Claims.WordWaitResults : Prop :=
  ∀ (s : State) (d a : BitVec 7),
    let acquired := fun (u t : State) => Retired u t ∧ t.warp.settled = { u.warp.settled with ahead := [], distrust := [] }
      ∧ CopiesLeft u t s.warp.pcn true (fun _ => False) ∧ OnlyScratch u t ∧ ∀ c b, srams t c b = srams u c b
    (let u := settledAt s 16 16 (s.readS d).toNat
     ∀ p, s.scratchAccess ((s.readS d).toNat : Int) 16 16 = .ok p → u.scratchPoisoned p.1 p.2 16 = false →
      let g := ofBytes (((u.scratchBytes p.1 p.2 16).drop 12).take 2)
      let target := (s.readS a).setWidth 16
      ((BitVec.ofNat 16 g - target).toNat < 32768 → ∃ t, exec (.waitg d a) s = .next t ∧ Retired u t ∧ OnlyWarp u t ∧ Distrusts u t)
      ∧ (32768 ≤ (BitVec.ofNat 16 g - target).toNat →
          ∃ t, exec (.waitg d a) s = .next t ∧ Waits u t (.waitg (s.readS d).toNat target)))
    ∧ (let u := settledAt s 4 4 (s.readS d).toNat
       ∀ p, s.scratchAccess ((s.readS d).toNat : Int) 4 4 = .ok p → u.scratchPoisoned p.1 p.2 4 = false →
      let v := BitVec.ofNat 32 (ofBytes (u.scratchBytes p.1 p.2 4))
      let was := (s.readS a).setWidth 32
      (v ≠ was → ∃ t, exec (.waitw d a) s = .next t ∧ acquired u t)
      ∧ (v = was → ∃ t, exec (.waitw d a) s = .next t ∧ Waits u t (.waitw (s.readS d).toNat was)))
    ∧ (∀ p, Plain s → s.warp.stores = [] → (s.readS d).toNat % 8 = 0 → s.translate s.warp.pcn .read (s.readS d).toNat = .ok p →
      p.pa / 192 = (p.pa + 7) / 192 →
      (∀ j < 8, ((s.cacheLeaf s.warp.pcn (s.readS d).toNat).atHomes p.key p.pa 8).agentPoison (p.pa + j) = false) →
      let v := BitVec.ofNat 64 (ofBytes ((List.range 8).map fun j => s.agentByte p.key (p.pa + j)))
      ∃ t, exec (.waitwG d a) s = .next t ∧ BytesKept s t
        ∧ (v ≠ s.readS a → Retired s t ∧ t.warp.settled = { s.warp.settled with ahead := [], distrust := [] }
            ∧ ∀ pa w, t.l1Word? s.warp.pcn pa = some w → w.owned = true)
        ∧ (v = s.readS a → t.warp.settled = s.warp.settled ∧ t.warp.status = .waiting ∧ t.warp.wait = some (.waitwG (s.readS d).toNat (s.readS a))
            ∧ t.warp.pc = s.warp.pc))
    ∧ ((s.readS d).toNat % 8 ≠ 0 → exec (.waitwG d a) s = .next (s.fault .scalar ⟨cMISALIGN, 8, s.readS d⟩))

/-! ## Streams and queues -/

namespace Sys2Proof.Claims

/-- The queues of a core but one, and all else but the current warp and footprint counts, are unchanged. -/
def OnlyQueue (s t : State) (pcn : Nat) (q : BitVec 2) : Prop :=
  t = { s with warp := t.warp, cores := t.cores }
    ∧ (∀ c, { t.core c with footprint := [], queues := (s.core c).queues } = { s.core c with footprint := [] })
    ∧ ∀ c r, (c, r) ≠ (pcn, q) → t.queueOf c r = s.queueOf c r

end Sys2Proof.Claims

/-- R248, R250, R251, R252: `qstream` gives a free or idle queue of the warp a program, whose entries QUEUE_FILL then fills; `qpop`
takes the oldest entry into the active lanes, and frees the queue with the last; `qstat` reads what stands in the queue. -/
def Sys2Proof.Claims.QueueResults : Prop :=
  ∀ (s : State) (d a : BitVec 7) (q : BitVec 2),
    let x := s.queueOf s.warp.pcn q
    (let u := settledAt s.drain 64 16 (s.readS a).toNat
     ∀ p, s.scratchAccess ((s.readS a).toNat : Int) 64 16 = .ok p → u.scratchPoisoned p.1 p.2 64 = false →
      let g := streamOf (u.scratchBytes p.1 p.2 64)
      let ar := if g.scratch then ArrayReg.start else s.readA g.areg
      g.reserved = false → 0 < g.total → g.total ≤ 2 ^ 31 → (x.owner = none ∨ x.owner = some s.warp.cw) → x.remain = 0 →
      (if g.scratch then u.streamOutside g = none else ar.esize.toNat < 5 ∧ u.streamGlobal g ar = .ok false) →
      let v := if g.scratch then u else u.reachStream g ar
      (Plain u → BytesKept u v)
      ∧ ∃ t, exec (.qstream q a) s = .next t ∧ Retired s t ∧ OnlyQueue v t s.warp.pcn q
        ∧ (let y := t.queueOf s.warp.pcn q
           y.owner = some s.warp.cw ∧ streamOf y.prog = g ∧ y.areg = ar ∧ y.suppressed = false ∧ y.entries = x.entries
            ∧ (y.i0, y.i1, y.i2) = (0, 0, 0) ∧ y.remain = (g.total * g.size ar + 127) / 128)
        ∧ t.warp.settled = { u.warp.settled with areg := t.warp.areg })
    ∧ (s.beyondVarch [d] = false → s.pinned d = false → x.owner = some s.warp.cw →
        (s.effMask = 0 → ∃ t, exec (.qpop d q) s = .next t ∧ NothingWritten s t s.nextPc)
        ∧ (s.effMask ≠ 0 → x.entries = [] → ∃ t, exec (.qpop d q) s = .next t ∧ Stays s t (.qpop d q))
        ∧ (∀ v rest, s.effMask ≠ 0 → x.entries = (v, false) :: rest →
            ∃ t, exec (.qpop d q) s = .next t ∧ Retired s t ∧ OnlyQueue s t s.warp.pcn q
              ∧ t.queueOf s.warp.pcn q = (if rest = [] ∧ x.remain = 0 then Queue.empty else { x with entries := rest })
              ∧ (∀ i : Fin 32, (t.readV d).get i = if s.effMask.getLsbD i then v.get i else (s.readV d).get i)
              ∧ (∀ r, r ≠ d → t.readV r = s.readV r) ∧ t.shadowV d = .unbounded
              ∧ t.warp.settled = { s.warp.settled with vreg := t.warp.vreg, vshd := t.warp.vshd })
        ∧ (∀ v rest, s.effMask ≠ 0 → x.entries = (v, true) :: rest → exec (.qpop d q) s = .next (s.fault .lanes ⟨cUE, 0, 0⟩)))
    ∧ (s.beyondVarch [d] = false → x.owner ≠ some s.warp.cw → exec (.qpop d q) s = .next (s.fault .lanes inMode))
    ∧ (∃ t, exec (.qstat d q) s = .next t ∧ ScalarWritten s t d (BitVec.ofNat 64 (x.entries.length
        + 256 * (if x.remain = 0 then 0 else 1) + 512 * (if x.owner = some s.warp.cw then 1 else 0)
        + 1024 * (if x.owner ≠ none ∧ x.owner ≠ some s.warp.cw then 1 else 0) + x.remain * 2 ^ 32)) .unbounded 0)
    ∧ (let y := s.queueOf s.warp.pcn (BitVec.ofNat 2 s.subject.id)
       let g := streamOf y.prog
       s.subject.pcn = s.warp.pcn → y.owner = some s.warp.cw → s.warp.status ≠ .free → s.warp.status ≠ .halted → y.remain ≠ 0 →
       y.entries.length < 16 →
       ∃ t z, exec .queueFill s = .next (t.retireBlocks s.warp.launch s.warp.gang) ∧ t.warp = s.warp
        ∧ (y.suppressed = true ∨ g.scratch = true → OnlyQueue s t s.warp.pcn (BitVec.ofNat 2 s.subject.id))
        ∧ t.others = s.others ∧ t.gangs = s.gangs ∧ (∀ c b, srams t c b = srams s c b) ∧ (Plain s → BytesKept s t)
        ∧ (t.queueOf s.warp.pcn (BitVec.ofNat 2 s.subject.id)).entries = y.entries ++ [z]
        ∧ (t.queueOf s.warp.pcn (BitVec.ofNat 2 s.subject.id)).remain = y.remain - 1
        ∧ (y.suppressed = true → z = (Vector.replicate 32 0, false))
        ∧ (y.suppressed = false → g.scratch = true →
            let first := (y.i2 * g.n1 + y.i1) * g.n0 + y.i0
            let size := 2 ^ g.ses
            let place := fun (j : Nat) => (g.sbase : Int) + g.offsetAt (first + j / size) * size
            let n := min (128 / size) (g.total - first) * size
            ∀ at_ : Nat → Nat × Nat, (∀ j < n, s.scratchPlace (place j).toNat size = .ok (at_ j) ∧ s.sramPoisoned (at_ j).1 (at_ j).2 size = false) →
              z = (lanesFrom ((List.range n).map fun j => srams s (at_ j).1 ((at_ j).2 + j % size)), false))
        ∧ (y.suppressed = false → g.scratch = false → Plain s → (y.areg.check ≠ 2 → TlbsTrue s s.warp.pcn) →
            let first := (y.i2 * g.n1 + y.i1) * g.n0 + y.i0
            let size := Machine.sizeOf y.areg.esize.toNat
            let va := fun (j : Nat) => y.areg.base.toNat + (g.offsetAt (first + j / size)).toNat * size
            let n := min (128 / size) (g.total - first) * size
            (∀ l, y.areg.check = 2 → s.launch? s.warp.launch = some l →
              z.1 = lanesFrom ((List.range n).map fun j => constantAt s l (va j + j % size)))
            ∧ (y.areg.check ≠ 2 → ∀ at_ : Nat → Phys, (∀ j < n, s.translate s.warp.pcn .read (va j) = .ok (at_ j)) →
              z.1 = lanesFrom ((List.range n).map fun j => s.agentByte (at_ j).key ((at_ j).pa + j % size)))))

/-! ## Barriers -/

namespace Sys2Proof.Claims

/-- Of barriers one alone has changed, and of the rest of the machine the current warp and its L1. -/
def OnlyBarrier (u t : State) (gang : Bool) (id : BitVec 4) (b : Barrier) : Prop :=
  t.barrierOf gang id = b ∧ (∀ g i, (g, i) ≠ (gang, id) → t.barrierOf g i = u.barrierOf g i)
    ∧ t = { u with warp := t.warp, cores := t.cores, gangs := t.gangs } ∧ ∀ c, { t.core c with l1 := [] } = { u.core c with l1 := [] }

/-- The current warp stands in a block of a gang the machine knows. -/
def housed (s : State) : Prop :=
  (s.gang? s.warp.launch s.warp.gang).isSome = true ∧ (s.blockAt? s.warp.launch s.warp.gang s.warp.block).isSome = true

end Sys2Proof.Claims

/-- R253, R254, R288, R289: a warp that arrives at a barrier last completes the phase and goes on with the barrier's status; one that is
not last waits (`bar`, `gbar`) or goes on (`bara`), having arrived. While its gang is being halted no phase of a `gbar` completes (R290). -/
def Sys2Proof.Claims.BarrierResults : Prop :=
  ∀ (s : State) (d : BitVec 7) (id : BitVec 4) (gang : Bool), s.warp.index ≠ none → s.warp.active = 0xFFFFFFFF#32 → s.warp.departed = false →
    let u := s.drain
    let me := 32 * s.warp.pcn + s.warp.cw
    let b := u.barrierOf gang id
    let parts := u.participants s.warp.launch s.warp.gang (if gang then none else some s.warp.block)
    housed u → me ∉ b.arrived → me ∉ b.again →
    (gang = true → s.gangHalting s.warp.launch s.warp.gang = true → ∃ t, exec (.gbar d id) s = .next t
      ∧ OnlyBarrier u t true id ⟨b.arrived ++ [me], b.again, b.phase⟩ ∧ t.warp.status = .waiting ∧ t.warp.wait = some (.gbar d id b.phase)
      ∧ t.warp.pc = s.warp.pc ∧ t.warp.settled = u.warp.settled)
    ∧ ((gang = true → s.gangHalting s.warp.launch s.warp.gang = false) →
    ((∀ p ∈ parts, p = me ∨ p ∈ b.arrived) →
      let done : Barrier := ⟨b.again, [], b.phase + 1⟩
      (∃ t, exec (if gang then .gbar d id else .bar d id) s = .next t ∧ Retired s t ∧ OnlyBarrier u t gang id done
        ∧ t.readS d = (if sIdx d = 0 then 0 else u.abandonedStatus gang) ∧ t.shadowS d = (if sIdx d = 0 then .bounded 0 0 else .bounded 0 1)
        ∧ (∀ r, sIdx r ≠ sIdx d → t.readS r = s.readS r ∧ t.shadowS r = s.shadowS r)
        ∧ t.warp.settled = { u.warp.settled with sreg := t.warp.sreg, sshd := t.warp.sshd, ahead := [], distrust := [] }
        ∧ ∀ pa w, u.orderly = true → t.l1Word? s.warp.pcn pa = some w → w.owned = true)
      ∧ (gang = false → ∃ t, exec (.bara id) s = .next t ∧ Retired s t ∧ OnlyBarrier u t false id done ∧ t.warp.settled = u.warp.settled))
    ∧ ((∃ p ∈ parts, p ≠ me ∧ p ∉ b.arrived) →
      let joined : Barrier := ⟨b.arrived ++ [me], b.again, b.phase⟩
      (∃ t, exec (if gang then .gbar d id else .bar d id) s = .next t ∧ OnlyBarrier u t gang id joined
        ∧ t.warp.status = .waiting ∧ t.warp.wait = some (if gang then .gbar d id b.phase else .bar d id b.phase) ∧ t.warp.pc = s.warp.pc
        ∧ t.warp.settled = u.warp.settled)
      ∧ (gang = false → ∃ t, exec (.bara id) s = .next t ∧ Retired s t ∧ OnlyBarrier u t false id joined
        ∧ t.warp.settled = u.warp.settled)))

/-- R254, R289: a spawned warp at a barrier faults ILLEGAL_IN_MODE, a warp with a lane inactive MASK_INCOMPLETE. -/
def Sys2Proof.Claims.BarrierFaults : Prop :=
  ∀ (s : State) (d : BitVec 7) (id : BitVec 4), ∀ i ∈ [Instr.bar d id, .bara id, .gbar d id],
    (s.warp.index = none → exec i s = .next (s.fault .scalar inMode))
    ∧ (s.warp.index ≠ none → s.warp.active ≠ 0xFFFFFFFF#32 → exec i s = .next (s.fault .scalar maskIncomplete))

/-! ## The matrix grid -/

namespace Sys2Proof.Claims

/-- R205: cell (i, j) of an F32 tile. -/
def cell32 (s : State) (k i j : Nat) : Word := lane (s.readV (BitVec.ofNat 7 (32 * k + i))) j

/-- R206: cell (i, j) of tile tq: limb m is lane j of v[4i + m]. -/
def cell128 (s : State) (i j : Nat) : BitVec 128 :=
  let limb := fun (m : Nat) => lane (s.readV (BitVec.ofNat 7 (4 * i + m))) j
  limb 3 ++ limb 2 ++ limb 1 ++ limb 0

/-- Cell (i, j) of a tile of the kind MODE.ACC names, as a number of bits. -/
def cellOf (s : State) (acc : Bool) (k i j : Nat) : BitVec 128 := if acc then cell128 s i j else (cell32 s k i j).setWidth 128

/-- R214: a matrix instruction may work on tile `k`: it is pinned, of MODE.ACC's kind, and the effective mask is full. -/
def ready (s : State) (k : BitVec 2) : Prop :=
  s.warp.pin.getLsbD k.toNat = true ∧ s.warp.tileAcc = s.acc ∧ s.effMask = 0xFFFFFFFF#32

/-- The cells of a tile become what a function says, and no other register changes; XS, flags, checksums apart, nothing else does. -/
structure TileBecomes (s t : State) (acc : Bool) (k : Nat) (f : Nat → Nat → BitVec 128) : Prop where
  retired : Retired s t
  cells : ∀ i j, i < 32 → j < 32 → cellOf t acc k i j = f i j
  others : ∀ r : BitVec 7, acc = false → r.toNat / 32 ≠ k → t.readV r = s.readV r
  shadows : t.warp.vshd = s.warp.vshd

/-- Only the current warp has changed, by its tiles, checksums, flags, XS. -/
def OnlyTile (s t : State) : Prop :=
  t.warp.settled = { s.warp.settled with vreg := t.warp.vreg, sums := t.warp.sums, flg := t.warp.flg, xs0 := t.warp.xs0, xs1 := t.warp.xs1 }
    ∧ OnlyWarp s t ∧ SameMemory s t

/-- R225, R226: a pinned tile agrees with its checksums. -/
def agrees (s : State) (k : Nat) : Prop := compare s.warp.tileAcc (tileCells s.warp s.warp.tileAcc k) (s.sumsOf k) = .passes

/-- Its compare ends in a GRID_FAULT (R227). -/
def disagrees (s : State) (k : Nat) : Prop := compare s.warp.tileAcc (tileCells s.warp s.warp.tileAcc k) (s.sumsOf k) = .fails

end Sys2Proof.Claims

/-- R211, R212, R218, R228: `mxon` pins the tiles of its mask, contents unchanged, shadows unbounded; `mxoff` compares and unpins them;
`tzero` clears one; `mchk` compares one; a tile that fails its checksums raises GRID_FAULT and stays pinned. -/
def Sys2Proof.Claims.MatrixModeResults : Prop :=
  ∀ (s : State) (m : BitVec 4) (k : BitVec 2),
    (s.warp.pin = 0 → (s.acc = false → ∀ j < 4, m.getLsbD j = true → 32 * j + 31 < s.warp.varch) → (s.acc = true → m = 1 ∧ s.warp.varch = 128) →
      (formatK s.fa).isSome = true → formatK s.fa = formatK s.fb → s.effMask = 0xFFFFFFFF#32 →
      ∃ t, exec (.mxon m) s = .next t ∧ Retired s t ∧ t.warp.pin = m ∧ t.warp.tileAcc = s.acc ∧ t.warp.vreg = s.warp.vreg
        ∧ (∀ r, t.shadowV r = if s.acc = true ∨ m.getLsbD (r.toNat / 32) = true then .unbounded else s.shadowV r)
        ∧ t.warp.settled = { s.warp.settled with pin := m, tileAcc := s.acc, vshd := t.warp.vshd, sums := t.warp.sums }
        ∧ OnlyWarp s t ∧ SameMemory s t)
    ∧ (s.warp.pin ≠ 0 → s.effMask = 0xFFFFFFFF#32 →
      ((∀ j < 4, s.warp.pin.getLsbD j = true → agrees s j) →
        ∃ t, exec .mxoff s = .next t ∧ Retired s t
          ∧ t.warp.settled = { s.warp.settled with pin := 0, tileAcc := false, sums := [] } ∧ OnlyWarp s t ∧ SameMemory s t)
      ∧ (∀ j < 4, s.warp.pin.getLsbD j = true → disagrees s j → (∀ i < j, s.warp.pin.getLsbD i = true → agrees s i) →
        exec .mxoff s = .next (s.fault .lanes ⟨cGRID, 0, 0⟩)))
    ∧ (s.warp.pin = 0 → exec .mxoff s = .next (s.fault .lanes inMode))
    ∧ (ready s k →
      (∃ t, exec (.tzero k) s = .next t ∧ TileBecomes s t s.acc k.toNat (fun _ _ => 0) ∧ OnlyTile s t ∧ t.warp.flg = s.warp.flg
          ∧ (t.warp.xs0, t.warp.xs1) = (s.warp.xs0, s.warp.xs1))
      ∧ (agrees s k.toNat → ∃ t, exec (.mchk k) s = .next t ∧ Retired s t
          ∧ t.warp.settled = { s.warp.settled with sums := t.warp.sums } ∧ OnlyWarp s t ∧ SameMemory s t)
      ∧ (disagrees s k.toNat → exec (.mchk k) s = .next (s.fault .lanes ⟨cGRID, 0, 0⟩))
      ∧ (∀ i j x, compare s.acc (tileCells s.warp s.acc k.toNat) (s.sumsOf k.toNat) = .corrects i j x →
          ∃ t, exec (.mchk k) s = .next t ∧ t.warp.flg = s.warp.flg ||| fAC
            ∧ t.warp.settled = { s.warp.settled with vreg := t.warp.vreg, sums := t.warp.sums, flg := t.warp.flg }
            ∧ t.others = s.others ∧ t.homes = s.homes ∧ TileBecomes s t s.acc k.toNat fun p q =>
            if p = i ∧ q = j then (if s.acc then x else (x.setWidth 32).setWidth 128) else cellOf s s.acc k.toNat p q))

/-- R215, R111, R114: `mop` adds to every cell of its tile, at once and exactly, the k products of its row of A and its column of B, and
`mopn` subtracts them: an F32 cell is rounded once under RM, a Q128 cell is exact in units of 2^QW. -/
def Obligations.MopResults : Prop :=
  ∀ (s : State) (k : BitVec 2) (a b : BitVec 1) (negative : Bool), ready s k → (formatK s.fa).isSome = true → formatK s.fa = formatK s.fb →
    (s.acc = false → s.rm < 6) → s.myCore.dupn = 0 → s.myPart.stuck = [] →
    let f := s.feeds a b
    let products := fun (i j : Nat) => (List.range f.k).map fun q =>
      ((feedAt f.a q i).mul (feedAt f.b q j)).map fun x => if negative then x.neg else x
    let f32 := fun (i j : Nat) => cellF32 s.rm (randAt s.draw (32 * i + j)) s.dz (cell32 s k.toNat i j).toNat (products i j)
    let q128 := fun (i j : Nat) => cellQ s.qw (cell128 s i j).toInt (products i j)
    ∃ t, exec (if negative then .mopn k a b else .mop k a b) s = .next t
      ∧ TileBecomes s t s.acc k.toNat (fun i j => if s.acc then BitVec.ofInt 128 (q128 i j).1 else (BitVec.ofNat 32 (f32 i j).1).setWidth 128)
      ∧ (∀ n, t.warp.flg.getLsbD n = true ↔ s.warp.flg.getLsbD n = true
          ∨ ∃ i < 32, ∃ j < 32, (if s.acc then (q128 i j).2 else (f32 i j).2).getLsbD n = true)
      ∧ (t.warp.xs0, t.warp.xs1) = (if s.acc then (s.warp.xs0, s.warp.xs1) else (s.advanceXs.warp.xs0, s.advanceXs.warp.xs1))
      ∧ OnlyTile s t

/-- R214, R31: `mop` and `mopn` of a tile that is not pinned, or of another kind, under formats of no one k, or under a reserved RM
fault ILLEGAL_IN_MODE, and else MASK_INCOMPLETE under a partial mask, like `tzero` and `mchk`. -/
def Sys2Proof.Claims.MatrixFaults : Prop :=
  ∀ (s : State) (k : BitVec 2) (a b : BitVec 1),
    (∀ i ∈ [Instr.mop k a b, .mopn k a b, .tzero k, .mchk k], (s.warp.pin.getLsbD k.toNat = false ∨ s.warp.tileAcc ≠ s.acc) →
      exec i s = .next (s.fault .lanes inMode))
    ∧ (∀ i ∈ [Instr.mop k a b, .mopn k a b], (6 ≤ s.fa ∨ 6 ≤ s.fb ∨ formatK s.fa ≠ formatK s.fb ∨ (s.acc = false ∧ 6 ≤ s.rm)) →
      exec i s = .next (s.fault .lanes inMode))
    ∧ (∀ i ∈ [Instr.tzero k, .mchk k], s.warp.pin.getLsbD k.toNat = true → s.warp.tileAcc = s.acc → s.effMask ≠ 0xFFFFFFFF#32 →
      exec i s = .next (s.fault .lanes maskIncomplete))
    ∧ (∀ i ∈ [Instr.mop k a b, .mopn k a b], s.warp.pin.getLsbD k.toNat = true → s.warp.tileAcc = s.acc → s.effMask ≠ 0xFFFFFFFF#32 →
      (formatK s.fa).isSome = true → formatK s.fa = formatK s.fb → (s.acc = false → s.rm < 6) →
      exec i s = .next (s.fault .lanes maskIncomplete))

namespace Sys2Proof.Claims

/-- The feed `f` holds `x`, the others what they held, and nothing else of the warp has changed but its array registers. -/
def FeedBecomes (s t : State) (f : BitVec 2) (x : Lanes) : Prop :=
  Retired s t ∧ t.readF f = x ∧ (∀ g, g ≠ f → t.readF g = s.readF g)
    ∧ t.warp.settled = { s.warp.settled with feeds := t.warp.feeds, areg := t.warp.areg }

/-- R192, R28: array register `k` has counted `n` more violations. -/
def Counted (s t : State) (k : BitVec 4) (n : Nat) : Prop :=
  (t.readA k).vcount.toNat = min 65535 ((s.readA k).vcount.toNat + n)
    ∧ ((s.readA k).tgen = s.myCore.tgen → t.readA k = { s.readA k with vcount := (t.readA k).vcount })
    ∧ ∀ q, q ≠ k → t.readA q = s.readA q

/-- Nothing has changed from `u` but the current warp and footprint counts. -/
def OnlyAccess (u t : State) : Prop :=
  t = { u with warp := t.warp, cores := t.cores } ∧ ∀ pcn, { t.core pcn with footprint := [] } = { u.core pcn with footprint := [] }

end Sys2Proof.Claims

/-- R217, R219: `fmov` copies a register image to a feed, `flds` loads 128 bytes of the scratchpad, `fld` 128 bytes through an array
register, zeros when it is suppressed. -/
def Sys2Proof.Claims.FeedResults : Prop :=
  ∀ (s : State) (f : BitVec 2) (a x m : BitVec 7) (k : BitVec 4), s.effMask = 0xFFFFFFFF#32 →
    (s.beyondVarch [a] = false → ∃ t, exec (.fmov f a) s = .next t ∧ FeedBecomes s t f (s.readV a) ∧ t.warp.areg = s.warp.areg ∧ OnlyWarp s t ∧ SameMemory s t)
    ∧ (let addr : Int := (s.readS x).toNat + 16 * m.toInt
       let u := settledAt s 128 16 addr
       ∀ p, s.scratchAccess addr 128 16 = .ok p → u.scratchPoisoned p.1 p.2 128 = false →
      ∃ t, exec (.flds f x m) s = .next t ∧ FeedBecomes u t f (lanesFrom (u.scratchBytes p.1 p.2 128)) ∧ t.warp.areg = s.warp.areg
          ∧ OnlyWarp u t ∧ SameMemory u t)
    ∧ ((s.readA k).esize.toNat < 5 →
      (s.transfer .read k x m.toInt 128 16 = .suppressed →
        ∃ t, exec (.fld f k x m) s = .next t ∧ FeedBecomes s t f (Vector.replicate 32 0) ∧ Counted s t k 1 ∧ OnlyAccess s t)
      ∧ (∀ e, s.transfer .read k x m.toInt 128 16 = .fails e → exec (.fld f k x m) s = .next (s.fault (.mk (k.setWidth 8) false true) e))
      ∧ (∀ l, s.transfer .read k x m.toInt 128 16 = .pieces l →
        let u := (s.reachWhole k x m.toInt 128).fillPieces (s.readA k) l
        Brought s u ∧ (u.firstPoison (s.readA k) l = none →
        ∃ t, exec (.fld f k x m) s = .next t ∧ FeedBecomes u t f (lanesFrom (u.pieceBytes (s.readA k) l)) ∧ Counted s t k 0 ∧ OnlyAccess u t)))

/-- R116, R223, R224: `tsld` reads a row or a column of an F32 tile into a register, `tsst` writes one from a register, `tcvt` rounds a
row of the Q128 tile to F32 under RM, XS advancing under stochastic rounding (R103); and when `tsld` and `tsst` fault. -/
def Sys2Proof.Claims.SliceResults : Prop :=
  ∀ (s : State) (v : BitVec 7) (k : BitVec 2) (r : BitVec 1) (x : BitVec 6) (n : BitVec 5),
    let c := ((s.readS (x.setWidth 7)).toNat + n.toNat) % 32
    (s.beyondVarch [v] = false → ready s k → s.acc = false → s.pinned v = false →
      ∃ t, exec (.tsld v k r x n) s = .next t ∧ Retired s t
        ∧ (∀ l : Fin 32, (t.readV v).get l = if r = 0 then cell32 s k.toNat c l else cell32 s k.toNat l c)
        ∧ t.shadowV v = .unbounded ∧ (∀ q, q ≠ v → t.readV q = s.readV q ∧ t.shadowV q = s.shadowV q)
        ∧ t.warp.settled = { s.warp.settled with vreg := t.warp.vreg, vshd := t.warp.vshd } ∧ OnlyWarp s t ∧ SameMemory s t)
    ∧ (s.beyondVarch [v] = false → ready s k → s.acc = false →
      ∃ t, exec (.tsst v k r x n) s = .next t ∧ OnlyTile s t ∧ t.warp.flg = s.warp.flg
        ∧ (t.warp.xs0, t.warp.xs1) = (s.warp.xs0, s.warp.xs1) ∧ TileBecomes s t false k.toNat fun i j =>
        (if r = 0 ∧ i = c then lane (s.readV v) j else if r ≠ 0 ∧ j = c then lane (s.readV v) i else cell32 s k.toNat i j).setWidth 128)
    ∧ (s.beyondVarch [v] = false → s.effMask = 0xFFFFFFFF#32 → s.acc = true → s.rm < 6 → 4 * (v.toNat / 4) + 3 < s.warp.varch →
        s.pinned v = false →
      let i := v.toNat / 4
      let rounded := fun (l : Nat) =>
        let N := (cell128 s i l).toInt
        if N = 0 then (0, 0) else F32.round s.rm (randAt s.draw (32 * i + l)) s.dz (decide (N < 0)) N.natAbs s.qw false
      ∃ t, exec (.tcvt v 0) s = .next t ∧ Retired s t ∧ (∀ l : Fin 32, (t.readV v).get l = BitVec.ofNat 32 (rounded l).1)
        ∧ t.shadowV v = .unbounded ∧ (∀ q, q ≠ v → t.readV q = s.readV q ∧ t.shadowV q = s.shadowV q)
        ∧ (∀ b, t.warp.flg.getLsbD b = true ↔ s.warp.flg.getLsbD b = true ∨ ∃ l < 32, ((rounded l).2 : BitVec 8).getLsbD b = true)
        ∧ (t.warp.xs0, t.warp.xs1) = (if s.rm = 5 then (s.advanceXs.warp.xs0, s.advanceXs.warp.xs1) else (s.warp.xs0, s.warp.xs1))
        ∧ t.warp.settled = { s.warp.settled with vreg := t.warp.vreg, vshd := t.warp.vshd, flg := t.warp.flg, xs0 := t.warp.xs0, xs1 := t.warp.xs1 }
        ∧ OnlyWarp s t ∧ SameMemory s t)
    ∧ (∀ i ∈ [Instr.tsld v k r x n, .tsst v k r x n],
        (128 ≤ s.warp.varch → (s.acc = true ∨ s.warp.pin.getLsbD k.toNat = false ∨ s.warp.tileAcc ≠ s.acc) → exec i s = .next (s.fault .lanes inMode))
        ∧ (s.beyondVarch [v] = true → exec i s = .next (s.fault .lanes illegal))
        ∧ (s.beyondVarch [v] = false → s.pinned v = false → s.acc = false → s.warp.pin.getLsbD k.toNat = true → s.warp.tileAcc = s.acc →
            s.effMask ≠ 0xFFFFFFFF#32 → exec i s = .next (s.fault .lanes maskIncomplete)))
    ∧ (s.beyondVarch [v] = false → s.pinned v = true → exec (.tsld v k r x n) s = .next (s.fault .lanes inMode))

namespace Sys2Proof.Claims

/-- R219: the image of a tile: its cells in row order, little-endian. -/
def image (s : State) (acc : Bool) (k : Nat) : List Byte :=
  (List.range 1024).flatMap fun c => bytesOf (if acc then 16 else 4) (cellOf s acc k (c / 32) (c % 32)).toNat

/-- The cell of an image. -/
def imageCell (bs : List Byte) (acc : Bool) (i j : Nat) : BitVec 128 :=
  let w := if acc then 16 else 4
  BitVec.ofNat 128 (ofBytes ((bs.drop (w * (32 * i + j))).take w))

/-- Where the bytes of an image at an offset of a transfer lie: the cells it stores. -/
def imageCells (l : List Piece) (bs : List Byte) : List Host.Cell := l.flatMap fun p => cellsFrom p.pa ((bs.drop p.off).take p.len)

/-- The word at the first piece of a transfer as stores in memory leave it (R221). -/
def versionAt (u : State) (p : Phys) : Nat := ofBytes ((List.range 8).map fun j => u.homeByte 0 (p.pa + j))

end Sys2Proof.Claims

/-- R219, R220, R221, R222: `tld` loads a tile's image, `tst` stores it; `tst.a` claims an even version word, stores the image after it,
and TST_A_VERSION_STORE then stores the version plus 2; `tldv` loads the image when the version is even, returning 0, and tries again
while it is odd. -/
def Sys2Proof.Claims.TileTransferResults : Prop :=
  ∀ (s : State) (k : BitVec 2) (a : BitVec 4) (x m : BitVec 7) (y : BitVec 6), ready s k → (s.readA a).esize.toNat < 5 →
    let n := if s.acc then 16384 else 4096
    (∀ l, s.transfer .read a x m.toInt n 64 = .pieces l →
      let u := (s.reachWhole a x m.toInt n).fillPieces (s.readA a) l
      Brought s u ∧ (u.firstPoison (s.readA a) l = none →
      ∃ t, exec (.tld k a x m) s = .next t ∧ TileBecomes s t s.acc k.toNat (imageCell (u.pieceBytes (s.readA a) l) s.acc) ∧ Counted s t a 0
        ∧ t.warp.settled = { u.warp.settled with vreg := t.warp.vreg, sums := t.warp.sums, areg := t.warp.areg } ∧ OnlyAccess u t))
    ∧ (s.transfer .read a x m.toInt n 64 = .suppressed →
      ∃ t, exec (.tld k a x m) s = .next t ∧ TileBecomes s t s.acc k.toNat (fun _ _ => 0) ∧ Counted s t a 1 ∧ OnlyAccess s t)
    ∧ (∀ l, s.transfer .write a x m.toInt n 64 = .pieces l →
      let v := s.reachWhole a x m.toInt n
      v.warp = s.warp ∧ (Plain s → BytesKept s v)
      ∧ ∃ t, exec (.tst k a x m) s = .next t ∧ Retired s t ∧ StoresPushed v t none (imageCells l (image s s.acc k.toNat)) ∧ Counted s t a 0
        ∧ t.warp.settled = { s.warp.settled with stores := t.warp.stores, areg := t.warp.areg, ahead := t.warp.ahead }
        ∧ (∀ e ∈ t.warp.ahead, e ∈ s.warp.ahead) ∧ OnlyAccess v t)
    ∧ (s.transfer .write a x m.toInt n 64 = .suppressed →
      ∃ t, exec (.tst k a x m) s = .next t ∧ Retired s t ∧ Counted s t a 1 ∧ t.warp.stores = s.warp.stores ∧ OnlyAccess s t)
    ∧ (∀ l, s.transfer .write a x m.toInt (n + 64) 64 = .pieces l → s.warp.stores = [] →
      let p := State.firstPlace l
      let u := s.reachWhole a x m.toInt (n + 64)
      Calm u p 8 → (∀ j < 8, u.agentPoison (p.pa + j) = false) →
      let v := versionAt u p
      (v % 2 = 0 → ∃ t, exec (.tstA k a x m) s = .next t ∧ t.warp.status = .ready
          ∧ t.warp.wait = some (.tstA k a x m (some ⟨p.pa, p.key, p.unc, BitVec.ofNat 64 v⟩)) ∧ versionAt t p = v + 1
          ∧ (∀ b, t.forwarded none b = lastCell (imageCells (State.imagePart l) (image s s.acc k.toNat)) b)
          ∧ t.warp.settled = { s.warp.settled with stores := t.warp.stores, ahead := t.warp.ahead } ∧ (∀ e ∈ t.warp.ahead, e ∈ s.warp.ahead))
      ∧ (v % 2 = 1 → ∃ t, exec (.tstA k a x m) s = .next t ∧ Waits u t (.tstA k a x m none)))
    ∧ (∀ l, s.transfer .read a x 0 (n + 64) 64 = .pieces l →
      let ar := s.readA a
      let u := ((s.reachWhole a x 0 (n + 64)).readAnew (State.versionPart l)).fillPieces ar (State.versionPart l)
      Brought s u ∧ (u.firstPoison ar (State.versionPart l) = none →
      let odd := ((u.pieceBytes ar (State.versionPart l)).headD 0).getLsbD 0
      (odd = false →
        let w := u.acquire.fillPieces ar (State.imagePart l)
        w.firstPoison ar (State.imagePart l) = none →
        ∃ t, exec (.tldv k a x y) s = .next t ∧ TileBecomes s t s.acc k.toNat (imageCell (w.pieceBytes ar (State.imagePart l)) s.acc)
          ∧ t.readS (y.setWidth 7) = 0 ∧ Counted s t a 0 ∧ OnlyAccess w t)
      ∧ (odd = true → ∃ t, exec (.tldv k a x y) s = .next t ∧ t.warp.status = .ready ∧ t.warp.wait = some (.tldv k a x y 1)
          ∧ t.warp.settled = u.warp.settled)))
    ∧ (s.transfer .read a x 0 (n + 64) 64 = .suppressed →
      ∃ t, exec (.tldv k a x y) s = .next t ∧ Retired s t ∧ t.warp.vreg = s.warp.vreg ∧ Counted s t a 1
        ∧ t.readS (y.setWidth 7) = (if sIdx (y.setWidth 7) = 0 then 0 else 2) ∧ OnlyAccess s t)
    ∧ (s.transfer .write a x m.toInt (n + 64) 64 = .suppressed →
      ∃ t, exec (.tstA k a x m) s = .next t ∧ Retired s t ∧ Counted s t a 1 ∧ t.warp.stores = s.warp.stores ∧ OnlyAccess s t)
    ∧ (∀ e, (s.transfer .read a x m.toInt n 64 = .fails e → exec (.tld k a x m) s = .next (s.fault (.mk (a.setWidth 8) false true) e))
        ∧ (s.transfer .write a x m.toInt n 64 = .fails e → exec (.tst k a x m) s = .next (s.fault (.mk (a.setWidth 8) true true) e))
        ∧ (s.transfer .write a x m.toInt (n + 64) 64 = .fails e → exec (.tstA k a x m) s = .next (s.fault (.mk (a.setWidth 8) true true) e))
        ∧ (s.transfer .read a x 0 (n + 64) 64 = .fails e → exec (.tldv k a x y) s = .next (s.fault (.mk (a.setWidth 8) false true) e)))

/-- R219's table: the checks of a transfer of `n` bytes in their order, each over the whole transfer: the alignment; the array, which a
discharged access leaves out, suppressed under SUPPRESS; a store through a read-only or CONST register; the leases; the translations; the
permissions; and the pieces it then names, whose bytes are those of the image. -/
def Sys2Proof.Claims.TransferChecks : Prop :=
  ∀ (s : State) (kind : Access) (k : BitVec 4) (x : BitVec 7) (imm : Int) (n align : Nat), 0 < n → 0 < align → kind = .read ∨ kind = .write →
    let a := s.readA k
    let size := Machine.sizeOf a.esize.toNat
    let e := (s.readS x).toInt + imm
    let start : Int := a.base.toNat + e * size
    let limit := a.extent.toNat * size
    let proved := ∃ lo hi, s.shadowS x = .bounded lo hi ∧ 0 ≤ lo + imm ∧ (hi + imm) * size + n ≤ limit
    let outcome := s.transfer kind k x imm n align
    let addr := fun (v : Int) => BitVec.ofInt 64 v
    (start % align ≠ 0 → outcome = .fails ⟨cMISALIGN, align, addr start⟩)
    ∧ (start % align = 0 → ¬ proved → e < 0 → outcome = if a.check = 0 then .suppressed else .fails ⟨cBOUNDS, 0, addr start⟩)
    ∧ (start % align = 0 → ¬ proved → 0 ≤ e → (limit : Int) < e * size + n →
        outcome = if a.check = 0 then .suppressed
          else .fails ⟨cBOUNDS, 1, addr (if start < a.base.toNat + limit then a.base.toNat + limit else start)⟩)
    ∧ (start % align = 0 → 0 ≤ e → (proved ∨ e * size + n ≤ (limit : Int)) →
        let lo := start.toNat
        (kind = .write → (a.ro = true ∨ a.check = 2) → outcome = .fails ⟨cPERMISSION, 0, addr start⟩)
        ∧ (¬ (kind = .write ∧ (a.ro = true ∨ a.check = 2)) →
          (a.check = 2 → outcome = .pieces [⟨0, lo, n, 0, false⟩])
          ∧ (a.check ≠ 2 → ∀ l, s.launch? s.warp.launch = some l →
            let out := fun (va : Nat) => lo ≤ va ∧ va < lo + n ∧ ∀ r ∈ l.lease, va / 4096 < r.1 ∨ r.1 + r.2 ≤ va / 4096
            let leaf := fun (va : Nat) => if 2 ^ 48 ≤ va then .error 5 else s.leafFor s.warp.pcn va
            let lost := fun (va level : Nat) => lo ≤ va ∧ va < lo + n ∧ leaf va = .error level
            let barred := fun (va d : Nat) => lo ≤ va ∧ va < lo + n ∧ ∃ f, leaf va = .ok f ∧ forbids s.myCore.keyid kind f.2 = some d
            (∀ va, out va → (∀ y, out y → va ≤ y) → outcome = .fails ⟨cLEASE, 0, BitVec.ofNat 64 va⟩)
            ∧ ((∀ va, ¬ out va) → TlbsTrue s s.warp.pcn →
              (∀ va d, lost va d → (∀ y b, lost y b → va ≤ y) → outcome = .fails ⟨cTRANSLATION, d, BitVec.ofNat 64 va⟩)
              ∧ ((∀ va d, ¬ lost va d) →
                (∀ va d, barred va d → (∀ y b, barred y b → va ≤ y) → outcome = .fails ⟨cPERMISSION, d, BitVec.ofNat 64 va⟩)
                ∧ ((∀ va d, ¬ barred va d) → ∃ ps, outcome = .pieces ps ∧ ps.Pairwise (fun p q => p.off + p.len ≤ q.off)
                    ∧ ∀ j < n, ∃ p ∈ ps, p.off ≤ j ∧ j < p.off + p.len
                        ∧ s.translate s.warp.pcn kind (lo + j) = .ok ⟨p.pa + (j - p.off), p.key, p.unc⟩))))))

/-- R221, R222, R229: the steps that end a claimed `tst.a`, try `tldv` again and vote on a selected `mop`, of a warp that waits for
them. -/
def Sys2Proof.Claims.MatrixStepResults : Prop :=
  ∀ (s : State) (k : BitVec 2) (a : BitVec 4) (x m : BitVec 7) (y : BitVec 6), s.subject.pcn = s.warp.pcn → s.subject.cw = s.warp.cw →
    State.tries s.warp = true → s.myCore.sampleDue = false →
    (s.warp.wait = some (.tstA k a x m none) → ∃ t, exec .tstATry s = .next t ∧ exec (.tstA k a x m) s = .next t)
    ∧ (s.warp.wait = some (.tldv k a x y 0) → ∃ t, exec .tldvTry s = .next t ∧ exec (.tldv k a x y) s = .next t)
    ∧ (∀ c, s.warp.wait = some (.tstA k a x m (some c)) → Plain s → s.warp.stores = [] → c.pa / 192 = (c.pa + 7) / 192 →
      ∃ t, exec .tstAVersionStore s = .next t ∧ Retired s t ∧ Counted s t a 0
        ∧ t.warp.settled = { s.warp.settled with areg := t.warp.areg, ahead := t.warp.ahead } ∧ (∀ e ∈ t.warp.ahead, e ∈ s.warp.ahead)
        ∧ CellsWritten s t (cellsFrom c.pa (bytesOf 8 (c.version + 2).toNat)))
    ∧ (∀ p q neg, s.warp.wait = some (.dup k p q neg) → s.myPart.stuck = [] → ready s k → s.formatsBad = false →
        (s.acc = false → s.rm < 6) →
      ∀ i ∈ [Instr.rotatedDuplicate, .duplicatePipeHold], ∃ t u, exec i s = .next t
        ∧ exec (if neg then .mopn k p q else .mop k p q) (s.modifyCore s.warp.pcn fun c => { c with dupn := 0 }) = .next u
        ∧ t.warp = u.warp ∧ t.myPart.rotation = s.myPart.rotation % 31 + 1 ∧ t = { s with warp := t.warp, cores := t.cores })

/-! ## Residency -/

namespace Sys2Proof.Claims

/-- R258: the FREE slots of a partition of a core, ascending. -/
def freeOf (s : State) (pcn p : Nat) : List Nat :=
  ((List.range 8).map (8 * p + ·)).filter fun cw => (s.warpAt? pcn cw).isNone

/-- R41: the physical vector registers that the warps of a partition hold. -/
def allottedOf (s : State) (pcn p : Nat) : Nat :=
  ((s.warps.filter fun w => w.pcn == pcn && w.cw / 8 == p).map fun w => w.varch + w.vren).sum

/-- R258: a partition accepts a warp of `need` registers. -/
def Accepts (s : State) (pcn p need : Nat) : Prop :=
  p < 4 ∧ freeOf s pcn p ≠ [] ∧ need + allottedOf s pcn p ≤ 1024 ∧ s.withdrawn pcn p = false

/-- R258: the accepting partition with the most FREE slots, the lowest among equals. -/
def Takes (s : State) (pcn p need : Nat) : Prop :=
  Accepts s pcn p need ∧ ∀ q, Accepts s pcn q need →
    (freeOf s pcn q).length < (freeOf s pcn p).length ∨ ((freeOf s pcn q).length = (freeOf s pcn p).length ∧ p ≤ q)

/-- R378: a record stands at the head of a cluster's ring, when the recorder was not frozen and had made none in this cycle. (Of the record
of a warp placed or exited it is the model's reading that the ordinal, which the spec does not give, is all ones: log 16.) -/
def Recorded (s t : State) (cl : Nat) (event who xinfo : BitVec 8) (ordinal : Word) (detail : DWord) : Prop :=
  (s.cluster cl).left ≠ some 0 → (s.cluster cl).thisCycle.1 ≠ s.clock →
    (t.cluster cl).ring.head? = some ⟨s.clock % 2 ^ 40, event, who, xinfo, ordinal, detail⟩

/-- R49, R259, R260: the child of the current warp in a slot, with its record area and where its two ends lie. -/
def Child (s : State) (c : Warp) (cw hdr va : Nat) (pa : Phys × Phys) (h : KernelHeader) : Prop :=
  let w := s.warp
  { c with sreg := Warp.start.sreg, sshd := Warp.start.sshd } = { Warp.start with
      pcn := w.pcn, cw := cw, status := .ready, launch := w.launch, gang := w.gang, block := w.block, index := none,
      rid := s.myCore.rid, khdr := hdr, varch := h.varch, vren := h.vren, trapvec := h.trapvec, recVa := va, recAt := some pa,
      pc := BitVec.ofNat 48 (hdr + 64), xs0 := BitVec.ofNat 64 (32 * w.pcn + cw + 1) }
    ∧ ∀ i : Fin 64, c.sreg.get i = (if 1 ≤ i.val ∧ i.val ≤ 8 then w.sreg.get i else 0)
        ∧ c.sshd.get i = (if 1 ≤ i.val ∧ i.val ≤ 8 then w.sshd.get i else .bounded 0 0)

/-- `t` is `s` after a `spawn` to sd that has created a warp in partition p: the parent's stores have performed (R261), its SHARED copies
are gone for the child's acquire, a record area is taken, the child stands in the partition's lowest FREE slot, Luna has its record (R378), and sd is 1. -/
def Spawned (s t : State) (d : BitVec 7) (p hdr va : Nat) (pa : Phys × Phys) (h : KernelHeader) : Prop :=
  let u := (s.drain.dropShared s.warp.pcn).takeArea s.warp.rid va 1024
  ∃ c, Child s c ((freeOf s s.warp.pcn p).headD 0) hdr va pa h
    ∧ t = { u with warp := t.warp, others := u.others ++ [c], clusters := t.clusters }
    ∧ Recorded u t (s.warp.pcn / 4) 0x10 (BitVec.ofNat 8 (32 * (s.warp.pcn % 4) + c.cw)) 0 0xFFFFFFFF#32 (BitVec.ofNat 64 s.warp.gang)
    ∧ Retired s t ∧ t.readS d = (if sIdx d = 0 then 0 else 1) ∧ t.shadowS d = (if sIdx d = 0 then .bounded 0 0 else .bounded 0 1)
    ∧ (∀ q, sIdx q ≠ sIdx d → t.readS q = s.readS q ∧ t.shadowS q = s.shadowS q)
    ∧ t.warp.settled = { u.warp.settled with sreg := t.warp.sreg, sshd := t.warp.sshd }

end Sys2Proof.Claims

/-- R259, R260, R261, R258, R49: `spawn` and `spawn.w` read the header as code is read (R80, R293), and place a child, with s1-s8 of the parent, on the accepting partition with the most
FREE slots, and answer 1; without room, budget or record area `spawn` answers 0, a release all the same (R315), and `spawn.w` waits; a
header that is no multiple of 64 faults MISALIGN, one that is malformed ILLEGAL with DETAIL 1. -/
def Sys2Proof.Claims.SpawnResults : Prop :=
  ∀ (s : State) (d a : BitVec 7), s.warp.status = .ready →
    let w := s.warp
    let hdr := (s.readS a).toNat
    let v := s.bringHeader hdr
    v.warp = s.warp ∧ v.others = s.others ∧ (Plain s → BytesKept s v)
    ∧ (∀ h p va pa, hdr % 64 = 0 → v.readHeader hdr = .ok h → Takes v w.pcn p (h.varch + h.vren) → v.recordArea w.rid = some va →
      v.areaPlace w.rid va = some pa → v.withinBudgets w.rid [] (h.varch + h.vren) 0 = true →
      (∃ t, exec (.spawn d a) s = .next t ∧ Spawned v t d p hdr va pa h)
      ∧ (∃ t, exec (.spawnW d a) s = .next t ∧ Spawned v t d p hdr va pa h))
    ∧ (∀ h, hdr % 64 = 0 → v.readHeader hdr = .ok h →
      ((∀ p, ¬ Accepts v w.pcn p (h.varch + h.vren)) ∨ v.recordArea w.rid = none ∨ v.withinBudgets w.rid [] (h.varch + h.vren) 0 = false) →
      (∃ t, exec (.spawn d a) s = .next t ∧ ScalarWritten v.drain t d 0 (.bounded 0 1) 0)
      ∧ (∃ t, exec (.spawnW d a) s = .next t ∧ Waits v t (.spawnW d hdr)))
    ∧ (∀ i ∈ [Instr.spawn d a, .spawnW d a],
        (hdr % 64 ≠ 0 → exec i s = .next (s.fault .scalar ⟨cMISALIGN, 64, s.readS a⟩))
        ∧ (hdr % 64 = 0 → ∀ x, v.readHeader hdr = .error x → exec i s = .next (v.fault .scalar x)))

/-- R133, R213, R262, R263: `exit` frees the warp's slot and queues once its copies have ended and gives its record area back; each block
of its gang that no warp holds then retires, its barriers reset and its window freed with its contents, and so does the gang with the last of
them, its image given back (that a window reads 0 as soon as it is freed is the model's choice, log 80); with a tile pinned it faults ILLEGAL_IN_MODE, else with a stack that is not empty DIVERGENCE_DEPTH. -/
def Sys2Proof.Claims.ExitResults : Prop :=
  ∀ s : State,
    let w := s.warp
    (w.pin ≠ 0 → exec .exit s = .next (s.fault .scalar inMode))
    ∧ (w.pin = 0 → w.stack ≠ [] → exec .exit s = .next (s.fault .scalar depthFault))
    ∧ (w.pin = 0 → w.stack = [] → (∀ c ∈ s.myCore.copies, c.cw ≠ w.cw) →
      ∃ t, exec .exit s = .next t
        ∧ (∀ q, (s.queueOf w.pcn q).owner = some w.cw → t.queueOf w.pcn q = Queue.empty)
        ∧ ((∃ v ∈ s.others, v.launch = w.launch ∧ v.gang = w.gang ∧ v.block = w.block) →
            (∀ g, s.gang? w.launch w.gang = some g → (∀ x ∈ g.blocks, x.index ≠ w.block → x.retired = true) → g.state = .placed →
              t.warp = { Warp.start with pcn := w.pcn, cw := w.cw } ∧ t.others = s.others
                ∧ ∃ g', t.gang? w.launch w.gang = some g' ∧ g'.blocks.map Block.retired = g.blocks.map Block.retired))
        ∧ (∀ g, s.canonical = true → s.gang? w.launch w.gang = some g → g.state = .placed → (g.blocks.map Block.index).Nodup →
            (∀ v ∈ s.others, v.stores = [] ∧ (v.launch = w.launch → v.gang = w.gang → v.wait = none)) →
            (∀ c ∈ s.cores, c.copies = [] ∧ ∀ q : Fin 4, (c.queues.get q).remain = 0) →
            let left := fun (x : Block) => x.retired || !s.others.any fun v => v.launch == w.launch && v.gang == w.gang && v.block == x.index
            t.warp = { Warp.start with pcn := w.pcn, cw := w.cw } ∧ t.others = s.others
            ∧ (∃ g', t.gang? w.launch w.gang = some g'
              ∧ g'.blocks.map (fun x => (x.index, x.retired)) = g.blocks.map (fun x => (x.index, left x))
              ∧ (∀ x' ∈ g'.blocks, ∀ x ∈ g.blocks, x'.index = x.index → x.retired = false → left x = true →
                  (∀ i : Fin 16, x'.barriers.get i = ⟨[], [], 0⟩)
                  ∧ ∀ p, x.unit * 32768 ≤ p → p < (x.unit + x.scratch) * 32768 → srams t x.pcn p = 0)
              ∧ (g.blocks.all left = true → g'.state = .retired ∧ g'.image = none ∧ g'.victim = false)
              ∧ (g.blocks.all left = false → g'.state = .placed ∧ g'.image = g.image ∧ g'.victim = g.victim))
            ∧ ∀ r, s.region? w.rid = some r → g.rid = w.rid → ∃ r', t.region? w.rid = some r'
              ∧ ∀ x, x ∈ r'.chryUsed ↔ x ∈ r.chryUsed ∧ ¬ (r.chrybase + x.1 = w.recVa ∧ x.2 = 1024)
                  ∧ ¬ (g.blocks.all left = true ∧ g.image = some x))
        ∧ (∀ g, s.canonical = true → s.gang? w.launch w.gang = some g → g.state = .placed → (g.blocks.map Block.index).Nodup →
            (∀ v ∈ s.others, v.stores = [] ∧ ¬ (v.launch = w.launch ∧ v.gang = w.gang)) →
            (∀ c ∈ s.cores, c.copies = []) →
            ∃ g', t.gang? w.launch w.gang = some g' ∧ g'.state = .retired ∧ (∀ x ∈ g'.blocks, x.retired = true)
              ∧ ∀ x ∈ g.blocks, x.retired = false → ∀ p, x.unit * 32768 ≤ p → p < (x.unit + x.scratch) * 32768 → srams t x.pcn p = 0))

/-- R333, R334: `launch` reads its record as global loads do, releases, lets earlier requests be served, and answers 1 when the region's
queue is full, else 2 when the record is malformed, else 3 when the queue's next entry cannot be written, and else appends it: the record lies in that entry, LQTAIL has advanced there and in the control block, and the answer
is 0; a record that is not on a 64-byte boundary faults MISALIGN, and each half faults as a load of it does. (That earlier requests are served
first, that a poisoned word of the entry meets an error, and the report's code, are the model's, logs 29, 72 and 54.) -/
def Obligations.LaunchResults : Prop :=
  ∀ (s : State) (d a : BitVec 7),
    let va := s.readS a
    (va.toNat % 64 ≠ 0 → exec (.launch d a) s = .next (s.fault .scalar ⟨cMISALIGN, 64, va⟩))
    ∧ (va.toNat % 64 = 0 → ∀ x, s.recordPlaces va.toNat = .error x → exec (.launch d a) s = .next (s.fault .scalar x))
    ∧ (∀ p q, va.toNat % 64 = 0 → s.recordPlaces va.toNat = .ok (p, q) →
      let u := (((s.cacheLeaf s.warp.pcn va.toNat).cacheLeaf s.warp.pcn (va.toNat + 64)).fillFor p 64).fillFor q 64
      (u.loadPoisoned p 64 = true → exec (.launch d a) s = .next (u.fault .scalar ⟨cUE, 0, va⟩))
      ∧ (u.loadPoisoned p 64 = false → u.loadPoisoned q 64 = true → exec (.launch d a) s = .next (u.fault .scalar ⟨cUE, 0, va + 64⟩)))
    ∧ (∀ p q r, va.toNat % 64 = 0 → s.recordPlaces va.toNat = .ok (p, q) →
      let u := (((s.cacheLeaf s.warp.pcn va.toNat).cacheLeaf s.warp.pcn (va.toNat + 64)).fillFor p 64).fillFor q 64
      let v := u.drain.serveAppends u.warp.rid
      u.loadPoisoned p 64 = false → u.loadPoisoned q 64 = false → v.region? u.warp.rid = some r →
      let bs := u.loadBytes p 64 ++ u.loadBytes q 64
      let full := (r.lqtail - r.lqhead).toNat = 2 ^ r.lqorder
      let good := ofBytes (bs.take 4) = 0x4C4E4348 ∧ (∀ b ∈ (bs.drop 8).take 6, b = 0) ∧ ∀ b ∈ bs.drop 112, b = 0
      (full → ∃ t, exec (.launch d a) s = .next t ∧ ScalarWritten v t d 1 (.bounded 0 3) 0)
      ∧ (¬ full → ¬ good → ∃ t, exec (.launch d a) s = .next t ∧ ScalarWritten v t d 2 (.bounded 0 3) 0)
      ∧ (¬ full → good → let z := v.monarchWritable r (r.lqbase + 128 * (r.lqtail.toNat % 2 ^ r.lqorder))
          (z = none ∨ ∃ y, z = some y ∧ ∃ j < 128, v.agentPoison (y.pa + j) = true) →
          ∃ t, exec (.launch d a) s = .next t ∧ ScalarWritten (v.report 0x333 [u.warp.rid, 3]) t d 3 (.bounded 0 3) 0)
      ∧ (¬ full → good → ∀ z, v.monarchWritable r (r.lqbase + 128 * (r.lqtail.toNat % 2 ^ r.lqorder)) = some z →
          (∀ j < 128, v.agentPoison (z.pa + j) = false) → Plain v →
          ∃ t, exec (.launch d a) s = .next t ∧ Retired v t ∧ t.readS d = 0 ∧ t.shadowS d = (if sIdx d = 0 then .bounded 0 0 else .bounded 0 3)
            ∧ (∀ x, sIdx x ≠ sIdx d → t.readS x = s.readS x ∧ t.shadowS x = s.shadowS x)
            ∧ t.warp.settled = { v.warp.settled with sreg := t.warp.sreg, sshd := t.warp.sshd }
            ∧ (∃ r', t.region? u.warp.rid = some r' ∧ r' = { r with lqtail := r.lqtail + 1 })
            ∧ CellsWritten v t (cellsFrom z.pa bs ++ cellsFrom (r.addr + 108) (bytesOf 4 (r.lqtail + 1).toNat))))

/-! ## The end of a wait -/

namespace Sys2Proof.Claims

/-- The step without a word is about the current warp, which waits for `w`, WAITING or READY; its core owes no sample (R380). -/
def WaitsHere (s : State) (w : Wait) : Prop :=
  s.subject.pcn = s.warp.pcn ∧ s.subject.cw = s.warp.cw ∧ (s.warp.status = .waiting ∨ s.warp.status = .ready) ∧ s.warp.wait = some w
    ∧ s.myCore.sampleDue = false

/-- R263: no block of the current warp's gang has been waiting for this warp to retire: each has retired or has a warp, and one has not
retired. -/
def BlocksHeld (s : State) : Prop :=
  ∀ g, s.gang? s.warp.launch s.warp.gang = some g → (∃ x ∈ g.blocks, x.retired = false) ∧
    ∀ x ∈ g.blocks, x.retired = true ∨ ∃ v ∈ s.warps, v.launch = s.warp.launch ∧ v.gang = s.warp.gang ∧ v.block = x.index

/-- Of barriers one alone has completed its phase, and of the rest only the current warp, which was the one to wait there, and its L1
have changed. -/
def PhaseEnds (s t : State) (gang : Bool) (d : BitVec 7) (id : BitVec 4) (b : Barrier) : Prop :=
  OnlyBarrier s t gang id ⟨b.again, [], b.phase + 1⟩ ∧ Retired s t
    ∧ t.readS d = (if sIdx d = 0 then 0 else s.abandonedStatus gang) ∧ t.shadowS d = (if sIdx d = 0 then .bounded 0 0 else .bounded 0 1)
    ∧ (∀ r, sIdx r ≠ sIdx d → t.readS r = s.readS r ∧ t.shadowS r = s.shadowS r)
    ∧ t.warp.settled = { s.warp.settled with sreg := t.warp.sreg, sshd := t.warp.sshd, ahead := [], distrust := [] }

end Sys2Proof.Claims

/-- R257, R264: a wait that is over ends as its instruction would if it were issued now, when no block was waiting for it to retire: a
copy's slot, a batch number, the copies of batches, a generation, a word of a scratchpad or of memory, an entry of a queue, room for a
warp; and a warp that waits at a barrier whose phase completes goes on with its status (R253, R288). (The ordinal of all ones in
a placed warp's record is the model's choice, log 16.) -/
def Obligations.WaitsEnd : Prop :=
  ∀ (s : State) (d a : BitVec 7) (k id : BitVec 4) (q : BitVec 2),
    (∀ row ∈ copies k a, WaitsHere s (.copySlot row.2 k a) → s.drain.myCore.copies.length < 64 →
      ∃ t, exec .copySlotGrant s = .next t ∧ exec row.1 s = .next t ∧ t.warp.wait = none)
    ∧ (WaitsHere s (.cseal d) → ((s.myCore.copies.filter fun c => c.cw == s.warp.cw).filterMap Copy.batch).eraseDups.length < 16 →
      ∃ t, exec .csealUnblock s = .next t ∧ exec (.cseal d) s = .next t ∧ Retired s t)
    ∧ (WaitsHere s (.cwait ((s.readS a).setWidth 32)) → (s.warp.lastSeal - (s.readS a).setWidth 32).toNat < 2 ^ 31 →
      (∀ c ∈ s.myCore.copies, c.cw = s.warp.cw → ∀ m, c.batch = some m → 2 ^ 31 ≤ ((s.readS a).setWidth 32 - m).toNat) →
      ∃ t, exec .cwaitSatisfied s = .next t ∧ exec (.cwait a) s = .next t ∧ Retired s t ∧ OnlyWarp s t ∧ Distrusts s t)
    ∧ (∀ p, WaitsHere s (.waitg (s.readS d).toNat ((s.readS a).setWidth 16)) → s.scratchAccess ((s.readS d).toNat : Int) 16 16 = .ok p →
      BlocksHeld s →
      let u := settledAt s 16 16 (s.readS d).toNat
      u.scratchPoisoned p.1 p.2 16 = false →
      (BitVec.ofNat 16 (ofBytes (((u.scratchBytes p.1 p.2 16).drop 12).take 2)) - (s.readS a).setWidth 16).toNat < 32768 →
      ∃ t, exec .waitgSatisfied s = .next t ∧ exec (.waitg d a) s = .next t ∧ Retired u t ∧ Distrusts u t)
    ∧ (∀ p, WaitsHere s (.waitw (s.readS d).toNat ((s.readS a).setWidth 32)) → s.scratchAccess ((s.readS d).toNat : Int) 4 4 = .ok p →
      BlocksHeld s →
      let u := settledAt s 4 4 (s.readS d).toNat
      u.scratchPoisoned p.1 p.2 4 = false →
      BitVec.ofNat 32 (ofBytes (u.scratchBytes p.1 p.2 4)) ≠ (s.readS a).setWidth 32 →
      ∃ t, exec .waitwSatisfied s = .next t ∧ exec (.waitw d a) s = .next t ∧ Retired u t)
    ∧ (∀ p, WaitsHere s (.waitwG (s.readS d).toNat (s.readS a)) → Plain s → s.warp.stores = [] → (s.readS d).toNat % 8 = 0 →
      s.translate s.warp.pcn .read (s.readS d).toNat = .ok p → p.pa / 192 = (p.pa + 7) / 192 →
      (∀ j < 8, ((s.cacheLeaf s.warp.pcn (s.readS d).toNat).atHomes p.key p.pa 8).agentPoison (p.pa + j) = false) →
      BitVec.ofNat 64 (ofBytes ((List.range 8).map fun j => s.agentByte p.key (p.pa + j))) ≠ s.readS a →
      ∃ t, exec .waitwGSatisfied s = .next t ∧ exec (.waitwG d a) s = .next t ∧ Retired s t)
    ∧ (∀ v rest, WaitsHere s (.qpop d q) → s.beyondVarch [d] = false → s.pinned d = false → s.effMask ≠ 0 →
      (s.queueOf s.warp.pcn q).owner = some s.warp.cw → (s.queueOf s.warp.pcn q).entries = (v, false) :: rest →
      ∃ t, exec .qpopEntryReady s = .next t ∧ exec (.qpop d q) s = .next t ∧ Retired s t)
    ∧ (∀ h p va pa, WaitsHere s (.spawnW d (s.readS a).toNat) → (s.readS a).toNat % 64 = 0 → let v := s.bringHeader (s.readS a).toNat
      v.readHeader (s.readS a).toNat = .ok h →
      Takes v s.warp.pcn p (h.varch + h.vren) → v.recordArea s.warp.rid = some va → v.areaPlace s.warp.rid va = some pa →
      v.withinBudgets s.warp.rid [] (h.varch + h.vren) 0 = true →
      ∃ t, exec .spawnWRetry s = .next t ∧ Spawned v t d p (s.readS a).toNat va pa h)
    ∧ (∀ gang, WaitsHere s (if gang then .gbar d id (s.barrierOf gang id).phase else .bar d id (s.barrierOf gang id).phase) → housed s → s.warp.status = .waiting →
      s.subject.launch = s.warp.launch → s.subject.gang = s.warp.gang → s.subject.block = s.warp.block → s.subject.id = id.toNat →
      s.warp.index ≠ none → (∀ v ∈ s.others, v.wait = none ∧ ¬ (v.pcn = s.warp.pcn ∧ v.cw = s.warp.cw)) →
      (gang = true → s.gangHalting s.warp.launch s.warp.gang = false) →
      (∀ p ∈ s.participants s.warp.launch s.warp.gang (if gang then none else some s.warp.block), p ∈ (s.barrierOf gang id).arrived) →
      (∃ p ∈ s.participants s.warp.launch s.warp.gang (if gang then none else some s.warp.block), p ∉ (s.barrierOf gang id).again) →
      ∃ t, exec (if gang then .gangBarrierPhaseComplete else .barrierPhaseComplete) s = .next t
        ∧ PhaseEnds s t gang d id (s.barrierOf gang id))

/-! ## Memory's own steps -/

namespace Sys2Proof.Claims

/-- The step without a word is about the current warp, which is resident. -/
def AtWarp (s : State) : Prop := s.subject.pcn = s.warp.pcn ∧ s.subject.cw = s.warp.cw ∧ s.warp.status ≠ .free

/-- Bytes as any agent reads them under a key, as a number. -/
def agentNumber (s : State) (key : BitVec 6) (pa n : Nat) : Nat := ofBytes ((List.range n).map fun j => s.agentByte key (pa + j))

/-- Nothing but the homes and the cores' L1s has changed. -/
def OnlyMemory (s t : State) : Prop :=
  t = { s with homes := t.homes, cores := t.cores, regions := t.regions, launches := t.launches, monarch := t.monarch }
    ∧ (∀ c, { t.core c with l1 := [] } = { s.core c with l1 := [] })

/-- R293: whether a slice holds a sector whole, and whether it holds any byte of it that is not yet written back. -/
def SliceHas (s : State) (sec : Nat) : Prop := ∃ l, s.sliceLine? (sec / 4) = some l ∧ l.valid.getLsbD (sec % 4) = true

/-- R308, R364, R369: of the sectors that `hit` names what the controller stores is poisoned; a sector that a slice holds keeps its values,
and so do words of another whose bytes the slice has not written back; no other sector's poison changes. -/
def StoredPoisoned (s t : State) (hit : Nat → Prop) : Prop :=
  ∀ sec, (hit sec → poisonSet t.homes.stored sec = 0xFFF#12) ∧ (¬ hit sec → poisonSet t.homes.stored sec = poisonSet s.homes.stored sec)
    ∧ ∀ i, i < 12 → ((poisonSet t.homes.poison sec).getLsbD i = true ↔ (poisonSet s.homes.poison sec).getLsbD i = true
        ∨ (hit sec ∧ ¬ SliceHas s sec ∧ ∃ j < 4, ∀ c ∈ s.homes.fresh, c.1 ≠ 48 * sec + 4 * i + j))

/-- R362: the tag a request for a tier address leaves: U = (PA − base) / 2 KiB, set U mod S, alias U / S, with S = C / 8 KiB sets a die. -/
def Tagged (s t : State) (die pa : Nat) (write : Bool) : Prop :=
  let u := (pa - 1024 * gib - die * (256 * gib)) / 2048
  let sets := s.monarch.carve * 64 * gib / 8192
  ∃ x ∈ t.homes.msc, x.die = die ∧ x.set = u % sets ∧ x.alias_ = u / sets ∧ (write = true → x.dirty = true)

end Sys2Proof.Claims

/-- R44, R295, R296, R310, R350, R362, R369: a squashed misprediction changes nothing; a line fill puts the words of a sector into an L1
and changes no byte; a store registered performs and leaves the buffer; a controller's write, a memory-side cache request and a patrol
move bytes and change none; a constant fill takes in a line of the segment of a launch that has not ended, from the frames its pages had when the launch was placed
(R18), or makes it the most recently used. (Why a controller's poisoning leaves a slice's copy alone: R369.) A core is one of 256 (R8). -/
def Sys2Proof.Claims.MemoryEventResults : Prop :=
  ∀ s : State,
    let x := s.subject
    (∃ t, exec .branchMispredict s = .next t ∧ t = s)
    ∧ (256 ≤ x.pcn → exec .lineFill s = .next s ∧ exec .constantCacheFill s = .next s)
    ∧ (Plain s → x.pcn < 256 → ∃ t, exec .lineFill s = .next t ∧ BytesKept s t ∧ OnlyMemory s t
        ∧ ∀ i, i < 12 → ∃ w, t.l1Word? x.pcn (48 * x.n + 4 * i) = some w
            ∧ (w.owned = false → w.value.toNat = agentNumber s (BitVec.ofNat 6 x.id) (48 * x.n + 4 * i) 4))
    ∧ (Plain s → ∃ t, exec .controllerWrite s = .next t ∧ BytesKept s t ∧ OnlyMemory s t ∧ ∀ c ∈ t.homes.fresh, lineOf c.1 ≠ x.n)
    ∧ (Plain s → let n := max 1 (min x.len (192 - x.addr % 192))
        ∃ t, exec .mscRequest s = .next t ∧ BytesKept s t ∧ OnlyMemory s t
        ∧ ∀ die, ∀ a ∈ [x.addr, x.addr + n - 1], placeOf s.monarch a = .tier die → Tagged s t die a x.flag)
    ∧ (∀ p, Plain s → AtWarp s → s.warp.stores[x.n]? = some p → (∀ c ∈ p.cells, lineOf c.1 = p.line) → p.cells ≠ [] →
        sortedFrom 0 p.cells = true →
        (∀ q ∈ s.warp.stores.take x.n, q.scratch ≠ p.scratch ∨ (p.scratch = none ∧ ∀ c ∈ q.cells, ∀ d ∈ p.cells, c.1 ≠ d.1)) →
        ∃ t, exec .storeRegistration s = .next t ∧ t.warp = { s.warp with stores := s.warp.stores.eraseIdx x.n }
          ∧ (p.scratch = none → CellsWritten s t p.cells ∧ ∀ c a, srams t c a = srams s c a)
          ∧ (∀ pcn, p.scratch = some pcn → BytesKept s t
              ∧ ∀ c a, srams t c a = if c = pcn then (lastCell p.cells a).getD (srams s c a) else srams s c a))
    ∧ (Plain s → ∃ t, exec .scrubPatrol s = .next t ∧ BytesKept s t
        ∧ StoredPoisoned s t fun sec => sec / 4 = x.n ∧ sec % 4 ∈ x.list)
    ∧ (∀ l, s.launch? x.launch = some l → l.state = .done → exec .constantCacheFill s = .next s)
    ∧ (∀ l, s.launch? x.launch = some l → l.state ≠ .done → x.pcn < 256 →
        (∃ w ∈ (s.core x.pcn).ccache, w.launch = x.launch ∧ w.idx / 48 = x.n) →
        ∃ t, exec .constantCacheFill s = .next t ∧ t = { s with cores := t.cores }
          ∧ (∀ c, { t.core c with ccache := [] } = { s.core c with ccache := [] }) ∧ (∀ c, c ≠ x.pcn → t.core c = s.core c)
          ∧ ∃ a b, (t.core x.pcn).ccache = a ++ b ∧ (∀ w, w ∈ a ↔ w ∈ (s.core x.pcn).ccache ∧ w.launch = x.launch ∧ w.idx / 48 = x.n)
            ∧ ∀ w, w ∈ b ↔ w ∈ (s.core x.pcn).ccache ∧ ¬ (w.launch = x.launch ∧ w.idx / 48 = x.n))
    ∧ (∀ l, s.launch? x.launch = some l → l.state ≠ .done → Plain s → x.pcn < 256 →
        (∀ w ∈ (s.core x.pcn).ccache, ¬ (w.launch = x.launch ∧ w.idx / 48 = x.n)) →
        ∃ t, exec .constantCacheFill s = .next t ∧ BytesKept s t
          ∧ t = { s with homes := t.homes, cores := t.cores, regions := t.regions, launches := t.launches, monarch := t.monarch }
          ∧ (∀ c, { t.core c with l1 := [], ccache := [] } = { s.core c with l1 := [], ccache := [] })
          ∧ ∀ i, i < 48 → ∃ w ∈ (t.core x.pcn).ccache, w.launch = x.launch ∧ w.idx = 48 * x.n + i
            ∧ w.value = BitVec.ofNat 32 (ofBytes ((List.range 4).map fun j => constantAt s l (192 * x.n + 4 * i + j))))

/-- R308, R364, R378, R230: an error that cannot be corrected poisons what held it: a sector, in its slice where the slice holds any of it,
else as its controller stores it; the line of a tag, whose ownership ends; the sector of a dirty owned word, whose dirty words are written back, clean and
poisoned; a word of a scratchpad; the LPDDR copies that the tier has of a set of the memory-side cache, whose tag goes. A corrected
error changes nothing a program sees. (The unit and ordinal of the records and whose recorder takes them, what an owner keeps of a poisoned
word, and the codes of reports, are the model's choices, logs 16, 96, 93 and 54.) A column's third fault brings the spare in, and a later one withdraws the partition. -/
def Sys2Proof.Claims.ErrorEventResults : Prop :=
  ∀ s : State,
    let x := s.subject
    let cl := x.pcn / 4
    (256 ≤ x.pcn → exec .correctedError s = .next s ∧ exec .uncorrectableError s = .next s)
    ∧ (x.pcn < 256 → ∃ t, exec .correctedError s = .next t ∧ t = { s with monarch := t.monarch, clusters := t.clusters }
      ∧ t.monarch = { s.monarch with log := s.monarch.log ++ [⟨0x308, [x.pcn, x.id, x.n]⟩] }
      ∧ Recorded s t cl 0x30 0 0 0xFFFFFFFF#32 (BitVec.ofNat 64 x.id))
    ∧ (x.id = 0 → x.pcn < 256 → let held := SliceHas s x.n ∨ ∃ c ∈ s.homes.fresh, sectorOf c.1 = x.n
      ∃ t, exec .uncorrectableError s = .next t ∧ Recorded s t cl 0x31 0 0 0xFFFFFFFF#32 0
        ∧ t = { s with homes := t.homes, clusters := t.clusters }
        ∧ t.homes = { s.homes with poison := t.homes.poison, stored := t.homes.stored }
        ∧ ∀ sec, (poisonSet t.homes.poison sec = if sec = x.n then 0xFFF#12 else poisonSet s.homes.poison sec)
          ∧ (sec = x.n → ¬ held → poisonSet t.homes.stored sec = 0xFFF#12)
          ∧ (sec ≠ x.n ∨ held → poisonSet t.homes.stored sec = poisonSet s.homes.stored sec))
    ∧ (x.id = 1 → x.pcn < 256 → s.orderly = true → ∃ t, exec .uncorrectableError s = .next t ∧ (∀ r ∈ t.homes.owners, r.line ≠ x.n)
        ∧ (∀ sec, poisonSet t.homes.poison sec = if sec / 4 = x.n then 0xFFF#12 else poisonSet s.homes.poison sec)
        ∧ (∀ r ∈ s.homes.owners, r.line ≠ x.n → r ∈ t.homes.owners) ∧ t.homes.mem = s.homes.mem ∧ t.homes.fresh = s.homes.fresh)
    ∧ (x.id = 2 → x.pcn < 256 → Plain s → ∃ t, exec .uncorrectableError s = .next t ∧ BytesKept s t ∧ (∀ pa, t.ownerOf pa = s.ownerOf pa)
        ∧ (∀ i, i < 12 → ∀ w, s.l1Word? x.pcn (48 * x.n + 4 * i) = some w →
            t.l1Word? x.pcn (48 * x.n + 4 * i) = some (if w.owned && w.dirty then { w with dirty := false, poison := true } else w))
        ∧ (∀ i, i < 12 → ∀ w, s.l1Word? x.pcn (48 * x.n + 4 * i) = some w → w.owned = true → w.dirty = true →
            poisonSet t.homes.poison x.n = 0xFFF#12))
    ∧ (x.id = 3 → x.pcn < 256 → ∃ t, exec .uncorrectableError s = .next t ∧ (t.core x.pcn).sram = (s.core x.pcn).sram
        ∧ ∀ w, w ∈ (t.core x.pcn).sramPoison ↔ w = x.n ∨ w ∈ (s.core x.pcn).sramPoison)
    ∧ (4 ≤ x.id → x.pcn < 256 → ∃ t, exec .uncorrectableError s = .next t ∧ (∀ g ∈ t.homes.msc, ¬ (g.die = x.pcn ∧ g.set = x.n))
        ∧ (∀ g ∈ s.homes.msc, ¬ (g.die = x.pcn ∧ g.set = x.n) → g ∈ t.homes.msc)
        ∧ StoredPoisoned s t fun sec => ∃ a < 8, ∃ o < 2048,
            let at_ := (a * (s.monarch.carve * 64 * gib / 8192) + x.n) * 2048
            at_ < tierBytes s.monarch.carve ∧ sec = (1024 * gib + x.pcn * (256 * gib) + at_ + o) / 48)
    ∧ (let k := x.n % 4
       let p := s.partOf
       (∀ c r m, p.spare = none → (∀ w ∈ s.warps, ¬ (w.pcn = x.pcn ∧ w.cw / 8 = k)) → p.faults = [(c, r, m)] → 3 ≤ m → c < 32 →
         ∃ t, exec .spareColumnRemap s = .next t ∧ t.partOf = { p with spare := some c } ∧ t = { s with cores := t.cores, monarch := t.monarch }
           ∧ ∀ q, q ≠ x.pcn → t.core q = s.core q)
       ∧ (∀ l c r m, p.spare = some l → p.faults = [(c, r, m)] → 3 ≤ m → c ≠ l →
         ∃ t, exec .partitionWithdrawal s = .next t ∧ t.partOf = { p with withdrawn := true } ∧ t = { s with cores := t.cores, monarch := t.monarch }
           ∧ ∀ q, q ≠ x.pcn → t.core q = s.core q))

/-! ## Controllers (R358, R360) -/

namespace Sys2Proof.Claims

/-- Of channels the subject's alone has changed, to `c`. -/
def ChannelBecomes (s t : State) (c : Channel) : Prop :=
  t = { s with homes := t.homes } ∧ { t.homes with channels := [] } = { s.homes with channels := [] }
    ∧ t.channel s.subject.n s.subject.id = c
    ∧ ∀ k h, (k, h) ≠ (s.subject.n, s.subject.id) → t.channel k h = s.channel k h

end Sys2Proof.Claims

/-- R358, R360: a channel counts the energies of the two inversions over its bursts; at the end of a window it compares them and owes a
switch when the other one is at least 6 % cheaper (a window counts its own bursts: log 69); the switch happens at a refresh and restarts
the counters; an idle channel enters self-refresh, unless a request came in the same cycle, and a request brings it out. The steps act
on one of 8 stacks of 32 channels. -/
def Sys2Proof.Claims.ChannelResults : Prop :=
  ∀ s : State,
    let c := s.channel s.subject.n s.subject.id
    let at_ := fun (i : Nat) => s.subject.list.getD i 0
    let dc := c.counters.1 + (s.monarch.dbiw.1 * at_ 0 + s.monarch.dbiw.2 * at_ 1)
    let ac := c.counters.2 + (s.monarch.dbiw.1 * at_ 2 + s.monarch.dbiw.2 * at_ 3)
    let mine := if c.dbiAc then ac else dc
    let other := if c.dbiAc then dc else ac
    (c.stack = s.subject.n ∧ c.ch = s.subject.id)
    ∧ (s.subject.n < 8 → s.subject.id < 32 →
      (∃ t, exec .dbiWindowEnd s = .next t ∧ ChannelBecomes s t
          { c with counters := (0, 0), estimates := (dc, ac), switching := decide (100 * other ≤ 94 * mine ∧ other < mine) })
      ∧ (c.switching = true → ∃ t, exec .dbiModeSwitch s = .next t
          ∧ ChannelBecomes s t { c with dbiAc := !c.dbiAc, switching := false, counters := (0, 0) })
      ∧ (c.switching = false → ∃ t, exec .dbiModeSwitch s = .next t ∧ ChannelBecomes s t { c with counters := (dc, ac) })
      ∧ (s.subject.flag = false → ∃ t, exec .selfRefreshEntry s = .next t ∧ ChannelBecomes s t { c with selfRefresh := true })
      ∧ (s.subject.flag = true → exec .selfRefreshEntry s = .next s)
      ∧ (∃ t, exec .selfRefreshExit s = .next t ∧ ChannelBecomes s t { c with selfRefresh := false }))
    ∧ (∀ line stack, placeOf s.monarch (servedByte s.monarch line) = .direct stack →
        ((s.wake line).channel stack (lineIndex s.monarch line % 32)).selfRefresh = false)
    ∧ (¬ (s.subject.n < 8 ∧ s.subject.id < 32) → ∀ i ∈ [Instr.dbiWindowEnd, .dbiModeSwitch, .selfRefreshEntry, .selfRefreshExit],
        exec i s = .next s)

/-! ## Deliveries, answers and halts -/

namespace Sys2Proof.Claims

/-- READY or RUN (R377): the Monarch takes commands. -/
def Up (s : State) : Prop := s.monarch.power = .ready ∨ s.monarch.power = .run

/-- R372: what has not been acted on yet: it has no number, or one that is new. -/
def NewNumber (s : State) : Prop := ∀ n, s.subject.seq = some n → n ∉ s.monarch.seen

/-- R372, R377: a command that the Monarch takes. -/
def FreshCommand (s : State) : Prop := Up s ∧ NewNumber s

/-- The state with the command at hand counted as acted on. -/
def counted (s : State) : State :=
  match s.subject.seq with
  | none => s
  | some n => { s with monarch := { s.monarch with seen := n :: s.monarch.seen } }

/-- `t` is `s` with the current warp `w`, its permit returned, nothing else changed. -/
def Answered (s t : State) (w : Warp) : Prop :=
  t.warp = { w with permit := false } ∧ t = { s with warp := t.warp, cores := t.cores }
    ∧ t.core s.warp.pcn = { s.myCore with permits := s.myCore.permits + (if s.warp.permit then 1 else 0), coalesced := (t.core s.warp.pcn).coalesced }
    ∧ ∀ c, c ≠ s.warp.pcn → t.core c = s.core c

/-- R271: the warp that a handler's answer leaves, first record `r`, all its records `rs`: 0 RETRY, 1 SKIP, 2 EXCLUDE; `n`: the repetitions of
its `rep`. -/
def resumed (w : Warp) (r : FaultRec) (rs : List FaultRec) (n how : Nat) : Warp :=
  let ready := { w with status := .ready, wait := none, rep := none, pending := [] }
  let skipped :=
    if r.inRep then (if w.xrep.toNat + 1 = n then { ready with xrep := 0, pc := w.pc + 8 } else { ready with xrep := w.xrep + 1 })
    else { ready with pc := w.pc + 4 }
  if how = 0 then ready
  else if how = 2 ∧ laneCause r.cause = true ∧ r.whole = false then
    { ready with exclude := rs.foldl (fun m r => m ||| r.lanes) 0, rerun := true }
  else skipped

/-- R274, R332: a halt of the current warp's gang has been asked for, with the record `r`, and the launch has failed. -/
def HaltAsked (s t : State) (r : Option FaultRec) (dump : Bool) : Prop :=
  t.warp.status = .draining
    ∧ (∀ g, s.gang? s.warp.launch s.warp.gang = some g → g.asked = false → g.state = .placed →
        t.gang? s.warp.launch s.warp.gang = some { g with asked := true, halt := r, haltBy := (s.warp.pcn, s.warp.cw), haltAt := s.gtime, dumpDue := dump })
    ∧ (∀ l, s.launch? s.warp.launch = some l → ∃ l', t.launch? s.warp.launch = some l' ∧ l'.failed = true)

/-- R344, R346: under JOURNAL-RELAUNCH the launch's run ends, by a warp halt when `relaunches`, and every placed gang of it is to be halted. -/
def LaunchHalting (s t : State) (relaunches : Bool) : Prop :=
  (∀ l, s.launch? s.warp.launch = some l → ∃ l', t.launch? s.warp.launch = some l' ∧ l'.failed = true
      ∧ l'.ending = some (l.ending.getD relaunches))
    ∧ ∀ g ∈ t.gangs, g.launch = s.warp.launch → g.state = .placed → g.asked = true

end Sys2Proof.Claims

/-- R196, R269, R270, R271: a pending fault of a warp enters its own handler or is delivered beyond it; a back-off that is over lets the
instruction dispatch again; the handler's RETRY, SKIP and EXCLUDE resume the warp and return its permit, HALT asks for a gang halt; an
answer with a number that has been acted on does nothing (R372), nor does one while the Monarch takes no commands (R377). A warp that
drains has had its delivery (R280). (That a warp a debugger holds is answered by RETRY alone is the model's
reading, log 35.) -/
def Obligations.DeliveryAndAnswers : Prop :=
  ∀ s : State, AtWarp s →
    let w := s.warp
    (∀ r rest, w.pending = r :: rest → inWarpCause r.cause = true → w.trapvec ≠ 0 → w.xcause = 0 →
      ∃ t, exec .trapEntry s = .next t ∧ t.warp = enteredWarp w r (r :: rest) ∧ t.others = s.others)
    ∧ (w.status = .draining ∨ w.status = .halted → exec .trapDelivery s = .next s)
    ∧ (∀ r rest, w.pending = r :: rest → (inWarpCause r.cause = false ∨ w.trapvec = 0 ∨ w.xcause ≠ 0) → r.cause ≠ cUE → r.cause ≠ cGRID →
      w.status ≠ .draining → w.status ≠ .halted →
      ∃ t, exec .trapDelivery s = .next t ∧ t.warp.records = r :: rest ∧ t.warp.pc = w.pc ∧ t.others = s.others
        ∧ (s.policyOf w.rid = 0 ∨ s.policyOf w.rid = 2 → HaltAsked s t (some r) (s.policyOf w.rid == 2))
        ∧ (s.policyOf w.rid = 3 → HaltAsked s t (some r) false ∧ LaunchHalting s t false)
        ∧ (s.policyOf w.rid = 1 → (s.trapmodeOf w.rid).getLsbD 0 = false → s.myCore.coalesce = false → s.myCore.permits ≠ 0 →
            t.warp.status = .trapped ∧ t.warp.permit = true ∧ (t.core w.pcn).permits + 1 = s.myCore.permits))
    ∧ (w.status = .backoff → w.waitSince ≤ s.clock → exec .backoffExpiry s = .next { s with warp := { w with status := .ready } })
    ∧ (w.status = .backoff → s.clock < w.waitSince → exec .backoffExpiry s = .next s)
    ∧ (¬ FreshCommand s → ∀ i ∈ [Instr.retry, .skip, .exclude, .halt], exec i s = .next s)
    ∧ (FreshCommand s → w.status = .trapped →
      let u := counted s
      (∀ r rest, State.debugHeld w = false → w.records = r :: rest →
        (∃ t, exec .retry s = .next t ∧ Answered u t (resumed w r (r :: rest) (s.repCountAt w.pc.toNat) 0))
        ∧ (∃ t, exec .skip s = .next t ∧ Answered u t (resumed w r (r :: rest) (s.repCountAt w.pc.toNat) 1))
        ∧ (∃ t, exec .exclude s = .next t ∧ Answered u t (resumed w r (r :: rest) (s.repCountAt w.pc.toNat) 2))
        ∧ (∃ t, exec .halt s = .next t ∧ t.others = s.others ∧ HaltAsked s t (some r) (s.policyOf w.rid == 2)))
      ∧ (State.debugHeld w = true →
        exec .retry s = .next { u with warp := { w with
          status := .ready, wait := none, rep := none, resumed := true, resumedRep := w.rep.isSome } }
        ∧ exec .skip s = .next u ∧ exec .exclude s = .next u ∧ exec .halt s = .next u))

/-- R272: once a record of the coalescer has been open for 1 µs, or all 16 are open, the records are drained, and each warp of a record
is answered with the record's command; younger ones stay while fewer are open. R395: when the host goes, every delivery it was to answer
is answered HALT. R269: the trap mode of a core. -/
def Sys2Proof.Claims.CoalescerAndHost : Prop :=
  ∀ s : State,
    let c := s.core s.subject.pcn
    (c.coalesced.length < 16 → (∀ r ∈ c.coalesced, s.gtime < r.gtime + 1000) → exec .coalescerDrain s = .next s)
    ∧ ((16 ≤ c.coalesced.length ∨ ∃ r ∈ c.coalesced, r.gtime + 1000 ≤ s.gtime) →
      (s.warps.map fun w => (w.pcn, w.cw)).Nodup →
      (∀ (i j : Nat) (x y : Coalesced), c.coalesced[i]? = some x → c.coalesced[j]? = some y → i ≠ j → x.warps &&& y.warps = 0) →
      ∃ t, exec .coalescerDrain s = .next t ∧ (t.core s.subject.pcn).coalesced = []
        ∧ (∀ i r w x rest, c.coalesced[i]? = some r → w ∈ s.warps → w.pcn = s.subject.pcn → w.cw < 32 → r.warps.getLsbD w.cw = true →
            w.status = .trapped → State.debugHeld w = false → w.records = x :: rest →
            let how := s.subject.list.getD i s.subject.value
            (how < 3 → t.warpAt? w.pcn w.cw = some { resumed w x (x :: rest) (({ s with warp := w } : State).repCountAt w.pc.toNat) how with
              permit := false })
            ∧ (3 ≤ how → ∃ v, t.warpAt? w.pcn w.cw = some v ∧ v.status = .draining))
        ∧ (∀ w ∈ s.warps, (w.pcn ≠ s.subject.pcn ∨ ∀ r ∈ c.coalesced, r.warps.getLsbD w.cw = false) → w ∈ t.warps))
    ∧ (s.subject.pcn < 256 → ∃ t, exec .trapModeSet s = .next t ∧ t = { s with cores := t.cores } ∧ t.core c.pcn = { c with coalesce := s.subject.flag }
      ∧ ∀ q, q ≠ c.pcn → t.core q = s.core q)
    ∧ (256 ≤ s.subject.pcn → exec .trapModeSet s = .next s)
    ∧ ((∀ w ∈ s.warps, w.status ≠ .trapped) → exec .hostLinkLost s = .next { s with monarch := { s.monarch with hostAttached := false } })
    ∧ (∀ r rest, s.warp.status = .trapped → State.debugHeld s.warp = false → s.warp.records = r :: rest →
      (s.trapmodeOf s.warp.rid).getLsbD 0 = true → (∀ w ∈ s.others, w.status ≠ .trapped) →
      ∃ t, exec .hostLinkLost s = .next t ∧ t.monarch.hostAttached = false ∧ t.others = s.others
        ∧ HaltAsked s t (some r) (s.policyOf s.warp.rid == 2))
    ∧ exec .hostAttach s = .next { s with monarch := { s.monarch with hostAttached := true } }

/-- R273, R274, R277, R280, R344, R346: a warp halt marks its warp HALTED, no participant of its barriers any more, and its home block
abandoned; under DUMP it leaves a dump owed, under JOURNAL-RELAUNCH it ends the launch's run, under HANDLER its notice carries the warp's
records, and but under DUMP its slot is freed; a gang halt goes to every core of the gang, any eviction of it abandoned; each core drains
the gang's warps and, once their copies are complete, marks them HALTED, the fault of one that was HALTED before kept for the dump; after
the last core the gang's dump is owed, or its slots are freed. A dump is written for the oldest owed, and a reset of the area starts it
anew. (That only a placed gang is halted is the model's reading, log 36; in which order dumps come and what time they name, logs 89 and
90; the codes of reports, log 54.) -/
def Sys2Proof.Claims.HaltResults : Prop :=
  ∀ s : State,
    let x := s.subject
    (∀ r rest, AtWarp s → s.warp.status = .draining → s.warp.pending = r :: rest → (r.cause = cUE ∨ r.cause = cGRID) →
      s.warp.wait = none → (∀ c ∈ s.myCore.copies, c.cw ≠ s.warp.cw) → housed s →
      ∃ t b g, exec .warpHalt s = .next t ∧ t.blockAt? s.warp.launch s.warp.gang s.warp.block = some b ∧ b.abandoned = true
        ∧ t.gang? s.warp.launch s.warp.gang = some g ∧ g.abandoned = true
        ∧ (s.policyOf s.warp.rid ≠ 2 → ∀ w ∈ t.warps, w ∈ s.others ∨ ∃ v ∈ s.others, w = { v with stores := w.stores })
        ∧ (∀ l, s.launch? s.warp.launch = some l → ∃ l', t.launch? s.warp.launch = some l' ∧ l'.failed = true)
        ∧ (s.policyOf s.warp.rid = 3 → LaunchHalting s t true)
        ∧ (s.policyOf s.warp.rid = 1 → ⟨0x269, s.warp.pcn :: s.warp.cw :: r.cause.toNat ::
            (s.warp.records.flatMap FaultRec.bytes).map BitVec.toNat⟩ ∈ t.monarch.log)
        ∧ (s.policyOf s.warp.rid = 2 → t.warp.status = .halted ∧ t.warp.departed = true ∧ t.warp.haltCause = r.cause ∧ t.others = s.others
            ∧ ∀ y, s.region? s.warp.rid = some y → ∃ z j, t.region? s.warp.rid = some z ∧ z.dumps = y.dumps ++ [j]
              ∧ j.launch = s.warp.launch ∧ j.gang = s.warp.gang ∧ j.warp = some (s.warp.pcn, s.warp.cw) ∧ j.first = some r))
    ∧ (∀ g, s.gang? x.launch x.gang = some g → g.asked = true → g.state = .placed →
      ∃ t, exec .gangHalt s = .next t ∧ t = { s with gangs := t.gangs, regions := t.regions }
        ∧ (∀ r, s.region? g.rid = some r → t.region? g.rid = some { r with chryUsed := r.chryUsed.filter fun p => decide (g.image ≠ some p) })
        ∧ t.gang? x.launch x.gang = some { g with
            state := .halting, asked := false, victim := false, image := none, toHalt := (g.blocks.filter fun b => !b.retired).map Block.pcn })
    ∧ (¬ FreshCommand s → exec .monarchGangHalt s = .next s ∧ exec .dumpAreaReset s = .next s)
    ∧ (∀ g, FreshCommand s → s.gang? x.launch x.gang = some g → g.asked = false → g.state = .placed →
      ∃ t, exec .monarchGangHalt s = .next t ∧ t.warp = s.warp ∧ t.others = s.others
        ∧ t.gang? x.launch x.gang = some { g with
            asked := true, halt := none, haltBy := (0, 0), haltAt := s.gtime, dumpDue := s.policyOf g.rid == 2 }
        ∧ ∀ l, s.launch? x.launch = some l → ∃ l', t.launch? x.launch = some l' ∧ l'.failed = true)
    ∧ (∀ g, s.gang? x.launch x.gang = some g → g.state = .halting → x.pcn ∈ g.toHalt → (s.warps.map fun w => (w.pcn, w.cw)).Nodup →
      ∃ t, exec .gangHaltReceipt s = .next t
        ∧ ∀ w ∈ t.warps, w.launch = x.launch → w.gang = x.gang → w.pcn = x.pcn → w.status = .draining ∨ w.status = .halted)
    ∧ (∀ g, s.gang? x.launch x.gang = some g → g.state = .halting → x.pcn ∈ g.toHalt → s.cores.all (fun c => c.copies.isEmpty) = true →
      (s.warps.map fun w => (w.pcn, w.cw)).Nodup →
      let mine := fun (w : Warp) => w.launch = x.launch ∧ w.gang = x.gang ∧ w.pcn = x.pcn
      ∃ t, exec .gangHaltReceipt s = .next t
        ∧ (∀ w ∈ s.warps, mine w → w.status = .halted → ∀ r rest, w.records = r :: rest →
            ∃ h, t.gang? x.launch x.gang = some h ∧ r ∈ h.second)
        ∧ ((∃ p ∈ g.toHalt, p ≠ x.pcn) → (∃ h, t.gang? x.launch x.gang = some h ∧ h.toHalt = g.toHalt.filter (· != x.pcn) ∧ h.state = .halting)
            ∧ (∀ w ∈ t.warps, mine w → w.status = .halted) ∧ ∀ w ∈ s.others, ¬ mine w → w ∈ t.others)
        ∧ ((∀ p ∈ g.toHalt, p = x.pcn) → g.dumpDue = true → ∀ y, s.region? g.rid = some y →
            (∀ w ∈ t.warps, mine w → w.status = .halted)
            ∧ ∃ z j, t.region? g.rid = some z ∧ z.dumps.getLast? = some j ∧ j.launch = x.launch ∧ j.gang = x.gang ∧ j.warp = none ∧ j.first = g.halt)
        ∧ ((∀ p ∈ g.toHalt, p = x.pcn) → g.dumpDue = false → ∀ w ∈ t.warps, ¬ (w.launch = x.launch ∧ w.gang = x.gang)))
    ∧ (∀ y j rest g, s.region? x.rid = some y → y.dumps = j :: rest → s.gang? j.launch j.gang = some g → (s.warps.map fun w => (w.pcn, w.cw)).Nodup →
      ∃ t z, exec .dump s = .next t ∧ t.region? x.rid = some z ∧ z.dumps = rest ∧ z.dumpSeq = y.dumpSeq + 1
        ∧ (y.dumpPtr ≤ z.dumpPtr ∧ (z.dumpPtr - y.dumpPtr) % 4096 = 0)
        ∧ (y.dumpbase + y.dumplen < y.dumpPtr + 256 → z.dumpPtr = y.dumpPtr
            ∧ ⟨0x277, [x.rid, y.dumpSeq + 1, ((j.first.map FaultRec.cause).getD 0).toNat,
                if j.warp = none then ((g.second.head?.map FaultRec.cause).getD 0).toNat else 0]⟩ ∈ t.monarch.log)
        ∧ (j.warp = none → ∀ w ∈ t.warps, ¬ (w.launch = j.launch ∧ w.gang = j.gang)))
    ∧ (FreshCommand s → ∀ y, s.region? x.rid = some y →
      ∃ t, exec .dumpAreaReset s = .next t ∧ t = { counted s with regions := t.regions }
        ∧ t.region? x.rid = some { y with dumpPtr := y.dumpbase, dumpSeq := 0 })

namespace Sys2Proof.Claims

/-- R276: the fields of a dump header: offset, bytes, value. -/
def dumpFields (j : DumpJob) (nblock seq length sections next flags : Nat) (place : Nat × Nat) (second : Option FaultRec) (extra : Nat) :
    List (Nat × Nat × Nat) :=
  let cause := fun (r : Option FaultRec) => (r.elim 0 FaultRec.cause).toNat
  let record := fun (r : Option FaultRec) => r.elim 0 fun r => ofBytes r.bytes
  [(0, 4, 0x504D5544), (4, 4, 0), (8, 2, 1), (10, 2, flags), (12, 2, cause j.first), (14, 2, cause second), (16, 8, length), (24, 8, j.gtime),
   (32, 32, record j.first), (64, 32, record second), (96, 4, sections), (100, 2, place.1), (102, 1, place.2), (103, 1, nblock), (104, 4, extra),
   (108, 4, j.gang), (112, 8, next), (120, 4, seq), (124, 132, 0)]

/-- R275: a section of a dump: KIND, BLOCK, WARP and its body. -/
structure DumpPart where
  kind : Nat
  block : Nat
  warp : Nat
  body : List Byte

/-- R275: the fields of its header, with the body bytes written. -/
def sectionFields (x : DumpPart) (status n : Nat) : List (Nat × Nat × Nat) :=
  [(0, 1, x.kind), (1, 1, x.block), (2, 1, x.warp), (3, 1, status), (4, 4, (crc32c (x.body.take n)).toNat), (8, 8, n), (16, 16, 0)]

/-- R275: where each section of a dump begins: at the next multiple of 64 bytes. -/
def sectionStarts : Nat → List DumpPart → List Nat
  | _, [] => []
  | last, x :: xs => (last + 63) / 64 * 64 :: sectionStarts ((last + 63) / 64 * 64 + 32 + x.body.length) xs

/-- R275: the sections that a block gives: its warps' register sections by warp index, then those whose home block it is by core warp number; its
window; its block header. -/
def sectionsOf (s : State) (launch gang : Nat) (b : Block) (header : List Byte) (mine : Warp → Bool) : List DumpPart :=
  let ws := s.warps.filter fun w => w.launch == launch && w.gang == gang && w.block == b.index && mine w
  let registers := fun (w : Warp) => (⟨1, b.index, w.index.getD (0x20 + w.cw), (s.warpImage w 3).bytes⟩ : DumpPart)
  ((List.range 16).flatMap fun i => (ws.filter fun w => w.index == some i).map registers)
    ++ ((List.range 32).flatMap fun i => (ws.filter fun w => w.index == none && w.cw == i).map registers)
    ++ [⟨2, b.index, 0xFF, (List.range (b.scratch * 32768)).map fun o => srams s b.pcn (b.unit * 32768 + o)⟩, ⟨3, b.index, 0xFF, header⟩]

/-- The bytes of the table entries that the walk of an address reads. -/
def entriesOf (s : State) (va : Nat) : Nat → Nat → Nat → List Nat
  | 0, _, _ => []
  | fuel + 1, level, table =>
    let e := s.tableEntry table level va
    (List.range 8).map (table + 8 * tableIndex level va + ·)
      ++ if pteLeaf e || !pteValid e then [] else entriesOf s va fuel (level + 1) (ptePa e)

/-- n bytes of a region's addresses can be written: each has a place of its own that is no part of the tables that lead to them, and is
not poisoned. -/
def Writable (s : State) (r : Region) (va n : Nat) (at_ : Nat → Phys) : Prop :=
  (∀ k < n, s.dumpPlace r (va + k) = .ok (at_ k) ∧ s.agentPoison (at_ k).pa = false)
    ∧ (∀ k < n, ∀ m < n, k ≠ m → (at_ k).pa ≠ (at_ m).pa)
    ∧ ∀ k < n, ∀ m < n, (at_ k).pa ∉ entriesOf s (va + m) 5 0 r.ptroot

/-- The fields stand in memory from offset `o` of those places on. -/
def FieldsStand (t : State) (at_ : Nat → Phys) (o : Nat) (fs : List (Nat × Nat × Nat)) : Prop :=
  ∀ f ∈ fs, ofBytes ((List.range f.2.1).map fun k => t.agentByte (at_ (o + f.1 + k)).key (at_ (o + f.1 + k)).pa) = f.2.2 % 256 ^ f.2.1

/-- The first `n` bytes of a body stand there. -/
def BodyStands (t : State) (at_ : Nat → Phys) (o : Nat) (body : List Byte) (n : Nat) : Prop :=
  ∀ k < n, t.agentByte (at_ (o + k)).key (at_ (o + k)).pa = body.getD k 0

end Sys2Proof.Claims

/-- R275, R276, R278, R281: what a dump holds: its header; the sections of the block of the warp that caused the halt, then those of the
others in the order of their index (a warp halt's: its own register section and its block's other two); each section with its header, its
length and its CRC. A scratchpad word that is poisoned stops the dump with TRUNCATED in the sector that holds it, the end of the area stops
it with FULL; the section then has STATUS 1 and its length and CRC are those of what was written, and no other follows. (Of a halt without a
fault the block that comes first is the model's choice, log 34; so is the address in the record of a read of the scratchpad, log 15.) -/
def Sys2Proof.Claims.DumpContents : Prop :=
  ∀ (s : State) (y : Region) (j : DumpJob) (rest : List DumpJob) (g : Gang), s.region? s.subject.rid = some y → y.dumps = j :: rest →
    s.gang? j.launch j.gang = some g → (s.warps.map fun w => (w.pcn, w.cw)).Nodup → s.subject.flag = false → Plain s →
    (g.blocks.map Block.index).Pairwise (· < ·) → (g.blocks.map Block.pcn).Nodup → (∀ c ∈ s.cores, c.copies = []) →
    (∀ v ∈ s.warps, v.stores = []) → (j.warp = none → g.halt ≠ none) →
    let place := j.warp.getD g.haltBy
    let live : List Block := g.blocks.filter fun b => !b.retired
    let blocks : List Block := match j.warp with
      | some p => live.filter fun (b : Block) => decide (∃ w ∈ s.warps, (w.pcn, w.cw) = p ∧ w.block = b.index)
      | none => (live.filter fun (b : Block) => b.pcn == place.1) ++ live.filter fun (b : Block) => b.pcn != place.1
    let headers := j.headers ++ g.headers
    let xs := blocks.flatMap fun b => sectionsOf s j.launch j.gang b ((headers.lookup b.index).getD (s.blockHeader j.launch j.gang b))
      fun w => j.warp.all fun p => (w.pcn, w.cw) == p
    let starts := sectionStarts 256 xs
    let total := (starts.getLastD 0) + ((xs.getLast?.map fun x => 32 + x.body.length).getD 256)
    let poisoned := fun (b : Block) (w : Nat) => b.unit * 8192 ≤ w ∧ w < (b.unit + b.scratch) * 8192 ∧ w ∈ (s.core b.pcn).sramPoison
    let seconds := if j.warp.isSome then [] else g.second
    let header := fun (length sections flags : Nat) (second : Option FaultRec) (extra : Nat) =>
      dumpFields j g.blocks.length (y.dumpSeq + 1) length sections ((length + 4095) / 4096 * 4096) flags place second (min (2 ^ 32 - 1) extra)
    let whole := fun (t : State) (at_ : Nat → Phys) (n : Nat) => ∀ i x o, i < n → xs[i]? = some x → starts[i]? = some o →
      FieldsStand t at_ o (sectionFields x 0 x.body.length) ∧ BodyStands t at_ (o + 32) x.body x.body.length
    (∀ at_, y.dumpPtr + total ≤ y.dumpbase + y.dumplen → Writable s y y.dumpPtr total at_ → (∀ b ∈ blocks, ∀ w, ¬ poisoned b w) →
      ∃ t, exec .dump s = .next t ∧ FieldsStand t at_ 0 (header total xs.length 1 seconds.head? (seconds.length - 1)) ∧ whole t at_ xs.length
        ∧ (∀ z, t.region? s.subject.rid = some z → z.dumpPtr = y.dumpPtr + (total + 4095) / 4096 * 4096)
        ∧ ∀ key pa, (∀ k < total, pa ≠ (at_ k).pa) → t.agentByte key pa = s.agentByte key pa)
    ∧ (∀ at_ i x o b w, y.dumpPtr + total ≤ y.dumpbase + y.dumplen → Writable s y y.dumpPtr total at_ → xs[i]? = some x → starts[i]? = some o →
      x.kind = 2 → b ∈ blocks → x.block = b.index → poisoned b w → (∀ v < w, ¬ poisoned b v) →
      (∀ k < i, ∀ z, xs[k]? = some z → z.kind = 2 → ∀ c ∈ blocks, z.block = c.index → ∀ v, ¬ poisoned c v) →
      let at4 := 4 * (w - b.unit * 8192)
      ∃ t n, exec .dump s = .next t ∧ n ≤ at4 ∧ at4 < n + 48 ∧ whole t at_ i
        ∧ FieldsStand t at_ o (sectionFields x 1 n) ∧ BodyStands t at_ (o + 32) x.body n
        ∧ FieldsStand t at_ 0 (header (o + 32 + n) (i + 1) 2
            (some (dumpRecord ⟨cUE, 0, BitVec.ofNat 64 (b.pcn % 4 * 2 ^ 19 + at4)⟩)) seconds.length))
    ∧ (∀ at_ i x o, let room := y.dumpbase + y.dumplen - y.dumpPtr
      Writable s y y.dumpPtr room at_ → xs[i]? = some x → starts[i]? = some o → o + 32 ≤ room → room < o + 32 + x.body.length →
      (∀ b ∈ blocks, ∀ w, ¬ poisoned b w) →
      ∃ t n, exec .dump s = .next t ∧ n ≤ room - (o + 32) ∧ room - (o + 32) < n + 48 ∧ whole t at_ i
        ∧ FieldsStand t at_ o (sectionFields x 1 n) ∧ BodyStands t at_ (o + 32) x.body n
        ∧ FieldsStand t at_ 0 (header (o + 32 + n) (i + 1) 4 seconds.head? (seconds.length - 1)))

/-! ## Regions and launches -/

namespace Sys2Proof.Claims

/-- Of regions that of `rid`, and it alone, has become `r`. -/
def RegionBecomes (s t : State) (rid : Nat) (r : Region) : Prop :=
  t.region? rid = some r ∧ ∀ k, k ≠ rid → t.region? k = s.region? k

/-- R330: the fields of a region that a reread does not take from the block. -/
def reread (old new : Region) (stopped : Bool) : Region :=
  { new with
    tgen := old.tgen, firstChild := old.firstChild, nextSib := old.nextSib, appends := old.appends, doorbell := old.doorbell,
    stopped := stopped, dumpPtr := old.dumpPtr, dumpSeq := old.dumpSeq, chryUsed := old.chryUsed, jrn := old.jrn, dumps := old.dumps,
    breakpoints := old.breakpoints, migrating := old.migrating, copied := old.copied, sentTo := old.sentTo, gtimeOff := old.gtimeOff }

/-- R332: the completion word as a number. -/
def completionNumber (tag : Word) (relaunches : Nat) (cause : BitVec 16) (reason status : Nat) : Nat :=
  status + 2 ^ 8 * reason + 2 ^ 16 * (cause.toNat % 256) + 2 ^ 24 * (relaunches % 256) + 2 ^ 32 * tag.toNat

/-- R332: the launch has ended with a word, which stands at its place; nothing else of memory has changed. -/
def Completed (s t : State) (l : Launch) (cause : BitVec 16) (reason status : Nat) : Prop :=
  (∃ l', t.launch? l.id = some l' ∧ l'.state = .done ∧ l'.pinned = false ∧ l'.referral = none ∧ l'.ending = none)
    ∧ (∀ c ∈ t.cores, ∀ w ∈ c.ccache, w.launch ≠ l.id)
    ∧ ∀ p, Plain s → l.compl % 8 = 0 → s.regionPhys l.rid l.compl = some p →
        CellsWritten s t (cellsFrom p.pa (bytesOf 8 (completionNumber l.tag l.relaunches cause reason status)))

/-- The bytes of the entry of a region's queue that is taken next (R333). -/
def nextRecord (s : State) (r : Region) : List Byte :=
  (s.readRegion r.rid (r.lqbase + 128 * (r.lqhead.toNat % 2 ^ r.lqorder)) 128).bytes

/-- The field of n bytes at an offset. -/
def byteField (bs : List Byte) (o n : Nat) : Nat := ofBytes ((bs.drop o).take n)

end Sys2Proof.Claims

/-- R328, R330, R333: a control block that fails a check, or that names a region there is, is refused and reported; one that passes
makes a region, and a reread one takes its fields but for TGEN and the links; a doorbell keeps a request, which is answered in turn: 1,
2, 3 where the queue's next entry cannot be written, or 0. (Where a new region is linked in the tree, that a block is read as plaintext,
that a reread lifts a stop, that a poisoned word of an entry meets an error, that a region sent away is answered no more, and the codes of
reports, are the model's, logs 21, 82, 84, 72, 100 and 54.) -/
def Sys2Proof.Claims.RegionEventResults : Prop :=
  ∀ s : State,
    let x := s.subject
    let bs := s.agentRead 0 x.addr 256
    let r := regionOf x.addr bs
    let monarchs := ∀ o, o ∈ [40, 44, 48, 52, 104, 108] → byteField bs o 4 = 0
    (FreshCommand s →
      ((blockOk bs = false ∨ ¬ monarchs ∨ byteField bs 76 2 ≠ 0 ∨ ∃ q ∈ s.regions, q.rid = r.rid) →
        exec .regionCreate s = .next ((counted s).report 0x328 [x.addr]))
      ∧ (blockOk bs = true → monarchs → byteField bs 76 2 = 0 → (∀ q ∈ s.regions, q.rid ≠ r.rid) → r.parent = 0 →
        exec .regionCreate s = .next { counted s with regions := s.regions ++ [r] })
      ∧ (∀ old, s.region? x.rid = some old →
          let found := s.agentRead 0 old.addr 256
          let new := regionOf old.addr found
          ((blockOk found = false ∨ new.rid ≠ old.rid) → exec .regionReread s = .next ((counted s).report 0x329 [old.rid]))
          ∧ (blockOk found = true → new.rid = old.rid → (new.lqtail - new.lqhead).toNat ≤ 2 ^ new.lqorder →
              ∃ t, exec .regionReread s = .next t ∧ t = { counted s with regions := t.regions }
                ∧ RegionBecomes s t x.rid (reread old new old.migrating))))
    ∧ (∀ old, s.monarch.hostAttached = true → Up s → s.region? x.rid = some old →
      ∃ t, exec .appendDoorbell s = .next t ∧ t = { s with regions := t.regions }
        ∧ RegionBecomes s t x.rid { old with appends := old.appends ++ [(x.addr, true)] })
    ∧ (∀ old, s.region? x.rid = some old → old.copied = true → exec .appendRequest s = .next s)
    ∧ (∀ old a rest, Up s → s.region? x.rid = some old → old.appends = a :: rest → old.copied = false →
      let bs := s.agentRead 0 a.1 128
      let full := (old.lqtail - old.lqhead).toNat = 2 ^ old.lqorder
      let good := byteField bs 0 4 = 0x4C4E4348 ∧ (∀ b ∈ (bs.drop 8).take 6, b = 0) ∧ ∀ b ∈ bs.drop 112, b = 0
      (full → ∃ t, exec .appendRequest s = .next t ∧ t = { s with regions := t.regions } ∧ RegionBecomes s t x.rid { old with appends := rest, doorbell := 1 })
      ∧ (¬ full → ¬ good →
          ∃ t, exec .appendRequest s = .next t ∧ t = { s with regions := t.regions } ∧ RegionBecomes s t x.rid { old with appends := rest, doorbell := 2 })
      ∧ (¬ full → good → let z := s.monarchWritable old (old.lqbase + 128 * (old.lqtail.toNat % 2 ^ old.lqorder))
          (z = none ∨ ∃ y, z = some y ∧ ∃ j < 128, s.agentPoison (y.pa + j) = true) →
          ∃ t, exec .appendRequest s = .next t ∧ t = { s with regions := t.regions, monarch := t.monarch }
            ∧ t.monarch = { s.monarch with log := s.monarch.log ++ [⟨0x333, [x.rid, 3]⟩] }
            ∧ RegionBecomes s t x.rid { old with appends := rest, doorbell := 3 })
      ∧ (¬ full → good → ∀ z, s.monarchWritable old (old.lqbase + 128 * (old.lqtail.toNat % 2 ^ old.lqorder)) = some z →
          (∀ j < 128, s.agentPoison (z.pa + j) = false) → Plain s →
          ∃ t, exec .appendRequest s = .next t ∧ RegionBecomes s t x.rid { old with appends := rest, doorbell := 0, lqtail := old.lqtail + 1 }
            ∧ CellsWritten s t (cellsFrom z.pa bs ++ cellsFrom (old.addr + 108) (bytesOf 4 (old.lqtail + 1).toNat))))

/-- R331, R332, R336, R383: taking a record advances LQHEAD; a record whose COMPL lies in none of its leases is reported, one with a
field out of range ends with REASON 1, one that could never be held REASON 5, one without a loadable kernel REASON 2 (with a report of
the read that failed, where one did), one of another shape REASON 3; and any other becomes a launch whose first gang is ready. (In which
order REASON 5 comes, and the codes of reports, are the model's, logs 95 and 54.) -/
def Sys2Proof.Claims.LaunchTakeResults : Prop :=
  ∀ (s : State) (r : Region), s.region? s.subject.rid = some r → Up s → r.stopped = false →
    r.lqtail ≠ r.lqhead → Plain s →
    let bs := nextRecord s r
    let f := byteField bs
    let leases := leasesOf bs
    let compl := f 104 8
    let taken := fun (t : State) => (∃ q, RegionBecomes s t r.rid q ∧ q = { r with lqhead := r.lqhead + 1 })
    let headCells := cellsFrom (r.addr + 104) (bytesOf 4 (r.lqhead + 1).toNat)
    let u := (s.putBlock r.addr 104 (bytesOf 4 (r.lqhead + 1).toNat)).modifyRegion r.rid fun r => { r with lqhead := r.lqhead + 1 }
    let rejected := fun (reason : Nat) => ∀ p, u.regionPhys r.rid compl = some p → compl % 8 = 0 →
      ∃ t, exec .launchTake s = .next t ∧ taken t ∧ t.launches = s.launches ∧ t.gangs = s.gangs
        ∧ CellsWritten s t (headCells ++ cellsFrom p.pa (bytesOf 8 (completionNumber (BitVec.ofNat 32 (f 4 4)) 0 0 reason 3)))
    let bad := f 20 4 = 0 ∨ 2 ^ 24 < f 20 4 ∨ f 14 1 = 0 ∨ 4 < f 14 1 ∨ f 15 1 = 0 ∨ 16 < f 15 1
    let never := u.leasesFit r.rid (leases.map fun x => 4096 * x.2).sum false = false ∨ r.chrylen < 1024 * f 14 1 * f 15 1
    (complOk leases compl = false → ∃ t, exec .launchTake s = .next t ∧ taken t ∧ t.launches = s.launches ∧ t.gangs = s.gangs
      ∧ CellsWritten s t headCells ∧ ⟨0x332, [r.rid, f 4 4]⟩ ∈ t.monarch.log)
    ∧ (complOk leases compl = true → bad → rejected 1)
    ∧ (complOk leases compl = true → ¬ bad → never → rejected 5)
    ∧ (complOk leases compl = true → ¬ bad → ¬ never → (∀ k, u.selectKernel r.rid (f 24 8) (f 16 4) ≠ .ok k) → rejected 2)
    ∧ (∀ c a, complOk leases compl = true → ¬ bad → ¬ never → u.selectKernel r.rid (f 24 8) (f 16 4) = .error (some (c, a)) →
        ∃ t, exec .launchTake s = .next t ∧ ⟨0x383, [r.rid, c, a]⟩ ∈ t.monarch.log)
    ∧ (∀ k, complOk leases compl = true → ¬ bad → ¬ never → u.selectKernel r.rid (f 24 8) (f 16 4) = .ok k →
        (k.header.gang ≠ f 14 1 ∨ k.header.block ≠ f 15 1) → rejected 3)
    ∧ (∀ k, complOk leases compl = true → ¬ bad → ¬ never → u.selectKernel r.rid (f 24 8) (f 16 4) = .ok k →
        k.header.gang = f 14 1 → k.header.block = f 15 1 → u.gangNeverFits r.rid (f 14 1) (f 15 1) k.header = false →
        ∃ t l g, exec .launchTake s = .next t ∧ taken t ∧ t.launches = s.launches ++ [l] ∧ t.gangs = s.gangs ++ [g] ∧ CellsWritten s t headCells
          ∧ (l.id = s.monarch.nextLaunch ∧ t.monarch.nextLaunch = l.id + 1 ∧ l.rid = r.rid ∧ l.state = .taken ∧ l.tag.toNat = f 4 4
            ∧ l.compl = compl ∧ l.lease = leases ∧ l.arg.toNat = f 32 8 ∧ l.code = f 24 8 ∧ l.gangs = f 20 4 ∧ l.kernel = f 16 4
            ∧ l.nblock = f 14 1 ∧ l.nwarp = f 15 1 ∧ l.khdr = k.khdr ∧ l.varch = k.header.varch ∧ l.vren = k.header.vren
            ∧ l.scratch = k.header.scratch ∧ l.trapvec = k.header.trapvec ∧ l.constVa = k.constVa ∧ l.constLen = k.constLen ∧ l.given = l.stamp
            ∧ (s.policyOf r.rid ≠ 3 → l.stamp = 0) ∧ (l.stamp ≠ 0 → (∀ o ∈ s.launches, o.state ≠ .done → o.stamp ≠ l.stamp ∧ o.given ≠ l.stamp)
                ∧ ∀ m ∈ s.homes.marks, m.stamp ≠ l.stamp) ∧ l.relaunches = 0 ∧ l.pinned = false ∧ l.cause = 0)
          ∧ (g.launch = l.id ∧ g.index = 0 ∧ g.rid = r.rid ∧ g.state = .ready ∧ g.blocks = []))

/-- R332, R335, R345, R346, R394: a launch completes once every gang has retired, with STATUS 1, or 2 when it failed; a launch that a
halt has ended runs again up to three times when its region journals (first the homes elsewhere of pool rows it has added to are asked
to restore them, and one that is lost ends it with CAUSE REMOTE), and else ends with STATUS 2; a launch is pinned when its leases fit
and translate, and referred to the handler otherwise, whose refusal ends it with REASON 4; one that is over is not ended again. (That a
relaunch clears CAUSE is the model's choice, log 33.) -/
def Sys2Proof.Claims.LaunchEndResults : Prop :=
  ∀ (s : State) (l : Launch), s.launch? s.subject.launch = some l →
    let id := s.subject.launch
    let mine := s.gangs.filter fun g => g.launch == id
    (l.state = .placing → l.ending = none → l.gangs ≤ l.nextGang → (∀ g ∈ mine, g.state = .retired) →
      ∃ t, exec .launchCompletion s = .next t ∧ Completed s t l l.cause 0 (if l.failed then 2 else 1)
        ∧ (∀ g ∈ t.gangs, g.launch ≠ id) ∧ t.warp = s.warp ∧ t.others = s.others)
    ∧ (s.subject.flag = false → s.subject.flag2 = false → (l.state = .done ∨ l.ending = none ∨ ∃ g ∈ mine, g.state = .placed ∨ g.state = .halting) →
      exec .relaunch s = .next s)
    ∧ (∀ again, s.subject.flag = false → s.subject.flag2 = false → l.ending = some again → l.state ≠ .done →
      (∀ g ∈ mine, g.state ≠ .placed ∧ g.state ≠ .halting) → l.stamp = 0 →
      ∃ t, exec .relaunch s = .next t ∧ Completed s t l l.cause 0 2 ∧ ∀ g ∈ t.gangs, g.launch ≠ id)
    ∧ (s.subject.flag = false → s.subject.flag2 = false → l.ending = some true → l.state ≠ .done → (∀ g ∈ mine, g.state ≠ .placed ∧ g.state ≠ .halting) →
      l.stamp ≠ 0 → l.relaunches < 3 → (∀ p ∈ l.poolHomes, p = Config.moduleNumber) →
      ∃ t l', exec .relaunch s = .next t ∧ t.launch? id = some l' ∧ l'.relaunches = l.relaunches + 1 ∧ l'.ending = none ∧ l'.failed = false
        ∧ l'.cause = 0 ∧ l'.nextGang = 1
        ∧ (∃ g, t.gangs.filter (fun g => g.launch == id) = [g] ∧ g.index = 0 ∧ g.state = .ready ∧ g.blocks = []))
    ∧ (∀ again, s.subject.flag = false → s.subject.flag2 = false → l.ending = some again → l.state ≠ .done → (∀ g ∈ mine, g.state ≠ .placed ∧ g.state ≠ .halting) →
      l.stamp ≠ 0 → (again = false ∨ 3 ≤ l.relaunches) → (∀ p ∈ l.poolHomes, p = Config.moduleNumber) →
      ∃ t l', exec .relaunch s = .next t ∧ t.launch? id = some l' ∧ l'.state = .done ∧ l'.ending = none ∧ l'.relaunches = l.relaunches
        ∧ l'.cause = l.cause ∧ l'.pinned = false ∧ (∀ g ∈ t.gangs, g.launch ≠ id)
        ∧ ∀ p, let u := s.undo l
          u.monarch.encryption = false → u.monarch.integrity = false → Tidy u → u.regionPhys l.rid l.compl = some p → l.compl % 8 = 0 →
          (∃ x ∈ u.homes.lines, x.line = lineOf p.pa ∧ x.stamp = 0 ∧ x.key = p.key) → (∀ r ∈ u.homes.owners, r.line ≠ lineOf p.pa) →
          CellsWritten u t (cellsFrom p.pa (bytesOf 8 (completionNumber l.tag l.relaunches l.cause 0 2))))
    ∧ (s.subject.flag = false → s.subject.flag2 = false → l.ending.isSome = true → l.state ≠ .done → (∀ g ∈ mine, g.state ≠ .placed ∧ g.state ≠ .halting) →
      l.stamp ≠ 0 → (∃ p ∈ l.poolHomes, p ≠ Config.moduleNumber) →
      ((∀ p ∈ l.poolHomes, p ≠ Config.moduleNumber → s.isLost p = false) →
        ∃ t, exec .relaunch s = .next t ∧ t = { s with fabric := t.fabric }
          ∧ ∀ p ∈ l.poolHomes, p ≠ Config.moduleNumber → (p, l.stamp) ∈ t.fabric.restores)
      ∧ ((∃ p ∈ l.poolHomes, p ≠ Config.moduleNumber ∧ s.isLost p = true) →
        ∃ t l', exec .relaunch s = .next t ∧ t.launch? id = some l' ∧ l'.state = .done ∧ l'.cause = cREMOTE ∧ ∀ g ∈ t.gangs, g.launch ≠ id))
    ∧ (∀ r, s.region? l.rid = some r → l.state = .taken → l.referral = none →
      (∀ q ∈ s.launches, q.id ≠ id → q.rid = l.rid → q.state ≠ .taken) →
      s.leasesFit l.rid (l.lease.foldl (fun n x => n + 4096 * x.2) 0) true = true →
      ((∀ x ∈ l.lease, ∀ p, x.1 ≤ p → p < x.1 + x.2 → (s.regionPhys l.rid (4096 * p)).isSome = true ∧ s.inTier r.ptroot (4096 * p) = false) →
        ∃ t, exec .leasePin s = .next t ∧ t = { s with launches := t.launches } ∧ t.launch? id = some { l with pinned := true, state := .placing })
      ∧ ((∃ x ∈ l.lease, ∃ p, x.1 ≤ p ∧ p < x.1 + x.2 ∧ s.regionPhys l.rid (4096 * p) = none) →
        ∃ t va, exec .leasePin s = .next t ∧ t.launch? id = some { l with referral := some va } ∧ s.regionPhys l.rid va = none ∧ va % 4096 = 0
          ∧ t = { s with launches := t.launches, monarch := t.monarch }))
    ∧ (¬ FreshCommand s → exec .leaseReferralAnswer s = .next s)
    ∧ (∀ va, FreshCommand s → l.referral = some va → s.subject.flag = true →
      ∃ t, exec .leaseReferralAnswer s = .next t ∧ t = { counted s with launches := t.launches } ∧ t.launch? id = some { l with referral := none })
    ∧ (∀ va, FreshCommand s → l.referral = some va → s.subject.flag = false →
      ∃ t, exec .leaseReferralAnswer s = .next t ∧ Completed s t l l.cause 4 3 ∧ ∀ g ∈ t.gangs, g.launch ≠ id)

namespace Sys2Proof.Claims

/-- R345: the journal entry of a line: its address, its stored bytes, the poison bits of its sectors, their poisoned words, zeros. (A line has
four sectors and the entry bits for three: log 1.) -/
def entryBytes (s : State) (line : Nat) : List Byte :=
  let words := fun (k : Nat) => (poisonSet s.homes.stored (4 * line + k)).toNat
  let bit := fun (k : Nat) => if words k = 0 then 0 else 2 ^ k
  bytesOf 8 (192 * line) ++ (List.range 192).map (fun o => s.homes.mem.get (192 * line + o)) ++ bytesOf 1 (bit 0 + bit 1 + bit 2)
    ++ bytesOf 5 (words 0 + 2 ^ 12 * words 1 + 2 ^ 24 * words 2) ++ List.replicate 50 0

/-- n bytes of direct space, where nothing is encrypted and no line has a tag. -/
def Direct (s : State) (pa n : Nat) : Prop :=
  s.monarch.encryption = false ∧ s.monarch.integrity = false ∧ ∀ o < n, ∃ k, placeOf s.monarch (pa + o) = .direct k

end Sys2Proof.Claims

/-- R345, R370: the first write of a journaled launch to a line appends an entry with what was stored there before it lands, and the line then
records the stamp; a line that records it already makes none; when the journal is full the launch writes unjournaled from then on. R346,
R394: a relaunch puts every logged line back as its oldest entry holds it, whatever has been written since, poison with it (of the first
three sectors, log 1), and leaves every other byte; the journal forgets the launch. (That writes no controller has seen reach theirs first is the
model's reading, log 76.) -/
def Sys2Proof.Claims.JournalResults : Prop :=
  ∀ s : State,
    (∀ ls l r p, let line := s.subject.n
      Tidy s → (s.launches.map Launch.id).Nodup → s.sliceLine? line = some ls → ls.stamp ≠ 0 → s.stamped? ls.stamp = some l → s.region? l.rid = some r →
      (∃ c ∈ s.homes.fresh, lineOf c.1 = line) → s.monarchPlace r.ptroot (r.jrnbase + 256 * r.jrn.length) = some p →
      Direct s (192 * line) 192 → Direct s p.1 256 → (∀ o < 256, lineOf (p.1 + o) ≠ line) →
      ((s.mark line).stamp = ls.stamp → ∃ t, exec .controllerWrite s = .next t ∧ t.regions = s.regions ∧ t.launches = s.launches)
      ∧ ((s.mark line).stamp ≠ ls.stamp → 256 * r.jrn.length + 256 ≤ r.jrnlen →
          ∃ t, exec .controllerWrite s = .next t ∧ (t.mark line).stamp = ls.stamp ∧ t.launches = s.launches
            ∧ t.region? r.rid = some { r with jrn := r.jrn ++ [l.id] }
            ∧ ∀ o < 256, t.homes.mem.get (p.1 + o) = (entryBytes s line).getD o 0)
      ∧ ((s.mark line).stamp ≠ ls.stamp → r.jrnlen < 256 * r.jrn.length + 256 →
          ∃ t, exec .controllerWrite s = .next t ∧ t.regions = s.regions ∧ t.launch? l.id = some { l with stamp := 0 }))
    ∧ (∀ l again r, s.subject.flag = false → s.subject.flag2 = false → s.launch? s.subject.launch = some l → l.ending = some again →
      l.state ≠ .done → (∀ g ∈ s.gangs, g.launch = l.id → g.state ≠ .placed ∧ g.state ≠ .halting) → l.stamp ≠ 0 →
      (∀ p ∈ l.poolHomes, p = Config.moduleNumber) → again = true → l.relaunches < 3 → l.id ≠ 0 →
      let u := s.flushStamped l.stamp
      u.region? l.rid = some r → u.monarch.encryption = false → u.monarch.integrity = false → Tidy u →
      let mine := fun (n : Nat) => r.jrn[n]? = some l.id
      let entry := fun (n : Nat) => (u.readRegion l.rid (r.jrnbase + 256 * n) 256).bytes
      let line := fun (n : Nat) => byteField (entry n) 0 8 / 192
      let bad := fun (n k : Nat) => BitVec.ofNat 12 (byteField (entry n) 201 5 / 2 ^ (12 * k))
      (∀ n m o, mine n → mine m → o < 256 → (∃ p, u.regionPhys l.rid (r.jrnbase + 256 * m + o) = some p ∧ lineOf p.pa ≠ line n)
        ∧ ∀ b ∈ entriesOf u (r.jrnbase + 256 * m + o) 5 0 r.ptroot, lineOf b ≠ line n) →
      (∀ n, mine n → byteField (entry n) 0 8 % 192 = 0) →
      ∃ t q, exec .relaunch s = .next t ∧ t.region? l.rid = some q ∧ (∀ x ∈ q.jrn, x ≠ l.id)
        ∧ (∀ n, mine n → (∀ m < n, mine m → line m ≠ line n) →
            (∀ key o, o < 192 → t.agentByte key (192 * line n + o) = (entry n).getD (8 + o) 0)
            ∧ (∀ k < 3, poisonSet t.homes.poison (4 * line n + k) = bad n k ∧ poisonSet t.homes.stored (4 * line n + k) = bad n k)
            ∧ (t.mark (line n)).stamp = 0)
        ∧ ∀ key pa, (∀ n, mine n → line n ≠ lineOf pa) → t.agentByte key pa = u.agentByte key pa)

/-! ## Gangs placed, evicted and restored -/

namespace Sys2Proof.Claims

/-- Whether a warp is of a gang. -/
def OfGang (g : Gang) (w : Warp) : Prop := w.launch = g.launch ∧ w.gang = g.index

/-- The bytes of a block's window in its core's SRAM read as `f` gives them. -/
def WindowReads (t : State) (b : Block) (f : Nat → Byte) : Prop :=
  ∀ p, p < b.scratch * 32768 → srams t b.pcn (b.unit * 32768 + p) = f p

/-- R49: a warp of a launch as it starts, but for where it stands and its record area. -/
def startsAs (l : Launch) (g : Gang) (b i : Nat) (w : Warp) : Prop :=
  { w with pcn := 0, cw := 0, recVa := 0, recAt := none, xs0 := 1 } =
    { Warp.start with
      status := .ready, launch := g.launch, gang := g.index, block := b, index := some i, rid := g.rid, khdr := l.khdr, varch := l.varch,
      vren := l.vren, trapvec := l.trapvec, pc := BitVec.ofNat 48 (l.khdr + 64), sreg := Warp.start.sreg.set 1 l.arg,
      sshd := Warp.start.sshd.set 1 .unbounded }
    ∧ w.xs0 = BitVec.ofNat 64 (32 * w.pcn + w.cw + 1)

end Sys2Proof.Claims

/-- R336, R337, R258, R232, R49: the first ready gang, when it fits and the budgets allow it, is placed: each block on the core the
placer chose, its window zero, and each of its warps in a FREE slot as R49 says; and the launch's next gang is ready, since the launch
was taken. With its first gang a launch's constant segment is bound to the frames its pages have then (R18). -/
def Sys2Proof.Claims.GangPlacement : Prop :=
  ∀ (s : State) (g : Gang) (rest : List Gang) (l : Launch) (r : Region) (cores : List Nat), s.canonical = true →
    Up s → (∀ v ∈ s.gangs, v.victim = false) → s.readyGangs = g :: rest → g.state = .ready →
    s.gang? g.launch g.index = some g → g.blocks = [] → s.launch? g.launch = some l → s.region? g.rid = some r → 0 < l.nblock →
    s.bestFit g.rid (State.freshShape l) = some cores → s.budgetsAllow g.rid cores (State.freshShape l) (l.nblock * l.nwarp) = true →
    ∃ t h news, exec .gangPlace s = .next t ∧ t.warp = s.warp ∧ t.others = s.others ++ news ∧ t.monarch.power = .run
      ∧ t.gang? g.launch g.index = some h ∧ h.state = .placed ∧ h.placedAt = s.gtime ∧ h.aging = 0 ∧ h.blocks.map Block.pcn = cores
      ∧ (∀ b ∈ h.blocks, b.scratch = l.scratch ∧ b.retired = false ∧ WindowReads t b fun _ => 0)
      ∧ news.length = l.nblock * l.nwarp ∧ (news.map fun w => (w.pcn, w.cw)).Nodup
      ∧ (∀ w ∈ news, s.warpAt? w.pcn w.cw = none ∧ ∃ b i, b < l.nblock ∧ i < l.nwarp ∧ startsAs l g b i w ∧ cores[b]? = some w.pcn)
      ∧ (∀ b i, b < l.nblock → i < l.nwarp → ∃ w ∈ news, w.block = b ∧ w.index = some i)
      ∧ (l.nextGang < l.gangs → ∃ n, t.gangs.getLast? = some n ∧ n.launch = l.id ∧ n.index = l.nextGang ∧ n.state = .ready ∧ n.readyAt = l.readyAt)
      ∧ (g.index = 0 → ∃ l', t.launch? g.launch = some l' ∧ ∀ k, k < l.constLen → l'.constMap[(l.constVa + k) / 4096 - l.constVa / 4096]? =
          some ((s.regionPhys l.rid ((l.constVa + k) / 4096 * 4096)).map fun p => (p.pa, p.key)))

/-- R264, R265, R342: the warps of a victim drain, and dispatch nothing more until it is saved; one whose warps hold no copies and no tiles is
evicted: its warps have left their slots, and the image R265 lays out of them as the drain leaves them has been written to the Chrysalis
area (that its windows are cleared then is the model's choice, log 80, and that a retired block has no part in the image, log 92); one whose
image does not fit is a victim no more, nor is then a gang favoured for it (R341). R268, R284: an evicted gang, when it fits and none that is tried earlier does, is placed again on one cluster, where
its blocks were within theirs: its warps have the registers and its windows the bytes that the image holds, and the image is given up. -/
def Sys2Proof.Claims.EvictionAndRestore : Prop :=
  ∀ (s : State) (g : Gang) (r : Region), s.canonical = true → s.gang? s.subject.launch s.subject.gang = some g → s.region? g.rid = some r →
    (s.warps.map fun w => (w.pcn, w.cw)).Nodup →
    (g.state = .placed → g.victim = true → g.asked = false → s.cores.all (fun c => c.copies.isEmpty) = true →
      (∀ w ∈ s.warps, OfGang g w → w.pin = 0 ∧ w.status ≠ .draining ∧ w.status ≠ .halted ∧ w.stack.length ≤ 32
        ∧ (∀ k a x m c, w.wait ≠ some (.tstA k a x m (some c))) ∧ (∀ k a b n, w.wait ≠ some (.dup k a b n))
        ∧ ∀ r ∈ w.pending, r.cause ≠ cUE ∧ r.cause ≠ cGRID) →
      (∀ c ∈ s.cores, ∀ q : Fin 4, (c.queues.get q).entries.length ≤ 16) → g.image = none →
      ∀ o, fitArea r.chryUsed r.chrybase r.chrylen 64 (s.gangImageLen g) = some o →
      ∃ t h, exec .gangEvict s = .next t ∧ t.gang? g.launch g.index = some h ∧ h.state = .evicted ∧ h.victim = false ∧ h.readyAt = s.gtime ∧ h.aging = 0
        ∧ h.image = some (o, s.gangImageLen g) ∧ o + s.gangImageLen g ≤ r.chrylen
        ∧ h.places = (g.blocks.filter fun b => !b.retired).map (fun b => b.pcn % 4)
        ∧ (∀ w ∈ t.warps, ¬ OfGang g w) ∧ (∀ w ∈ s.others, ¬ OfGang g w → w ∈ t.others)
        ∧ (∃ (u : State) (v : Gang) (k : Nat), u.gang? g.launch g.index = some v ∧ v.blocks.map (fun b => (b.index, b.pcn, b.unit, b.scratch, b.retired))
              = g.blocks.map (fun b => (b.index, b.pcn, b.unit, b.scratch, b.retired))
            ∧ t.homes = (u.writeRegion g.rid (r.chrybase + o) (u.gangImage v k State.savedState)).homes
            ∧ (u.gangImage v k State.savedState).bytes.length = s.gangImageLen g
            ∧ ∀ w ∈ s.warps, OfGang g w → w.wait = none →
                { w with permit := false, stores := [], pending := [], status := .draining } ∈ u.warps)
        ∧ ∀ b ∈ g.blocks, b.retired = false → WindowReads t b fun _ => 0)
    ∧ (g.state = .placed → g.victim = true → g.asked = false → (g.image = none → fitArea r.chryUsed r.chrybase r.chrylen 64 (s.gangImageLen g) ≠ none) →
      ∃ t, exec .gangEvict s = .next t ∧ ∀ w ∈ t.warps, OfGang g w → w.status = .draining ∨ w.status = .halted)
    ∧ (g.state = .placed → g.victim = true → g.asked = false → g.image = none → fitArea r.chryUsed r.chrybase r.chrylen 64 (s.gangImageLen g) = none →
      ∃ t h, exec .gangEvict s = .next t ∧ t = { s with gangs := t.gangs } ∧ t.gang? g.launch g.index = some h ∧ h.victim = false ∧ h.state = .placed
        ∧ ((∀ x ∈ s.gangs, x.rid = g.rid → x.victim = true → (x.launch, x.index) = (g.launch, g.index)) → (s.gangs.map fun x => (x.launch, x.index)).Nodup →
            ∀ x ∈ t.gangs, x.rid = g.rid → x.favoured = false))
    ∧ (∀ cores pre rest, g.state = .evicted → Up s → (∀ v ∈ s.gangs, v.victim = false) →
      (∀ q ∈ s.regions, q.migrating = false) → s.readyGangs = pre ++ g :: rest →
      (∀ h ∈ pre, (h.launch, h.index) ≠ (g.launch, g.index) ∧ s.tryPlace h false = none) →
      let bs := s.savedGang g
      let shape := State.savedShape bs g.places
      bs ≠ [] → bs.length = g.places.length → g.places.Nodup → (bs.map SavedBlock.index).Nodup → (∀ b ∈ bs, b.window.bytes.length = b.scratch * 32768) →
      s.bestFit g.rid shape = some cores → s.budgetsAllow g.rid cores shape 0 = true → (∀ w ∈ s.warps, ¬ OfGang g w) → (∀ b ∈ g.blocks, b.retired = false) →
      (∀ b ∈ bs, ∀ x ∈ b.warps, x.queues = []) →
      ∃ t h, exec .gangRestore s = .next t ∧ t.gang? g.launch g.index = some h ∧ h.state = .placed ∧ h.image = none ∧ h.blocks.map Block.pcn = cores
        ∧ (∃ cl, cores = g.places.map (4 * cl + ·))
        ∧ (∀ x ∈ h.blocks.zip bs, x.1.index = x.2.index ∧ x.1.abandoned = x.2.abandoned ∧ WindowReads t x.1 fun p => x.2.window.bytes.getD p 0)
        ∧ ∀ b ∈ bs, ∀ x ∈ b.warps, ∃ w ∈ t.warps, w.pc = x.warp.pc ∧ (x.state ≠ 1 → w.status = .ready ∧ w.wait = none) ∧ w.sreg = x.warp.sreg ∧ w.sshd = x.warp.sshd ∧ w.vreg = x.warp.vreg
            ∧ w.vshd = x.warp.vshd ∧ w.preg = x.warp.preg ∧ w.mode = x.warp.mode ∧ w.flg = x.warp.flg ∧ w.stack = x.warp.stack
            ∧ w.active = x.warp.active ∧ w.xs0 = x.warp.xs0 ∧ w.xs1 = x.warp.xs1 ∧ w.xcause = x.warp.xcause ∧ w.feeds = x.warp.feeds
            ∧ BitVec.ofNat 64 t.clock + w.clkOff = x.warp.clkOff
            ∧ ∀ k : Fin 16, (w.areg.get k).base = (x.warp.areg.get k).base ∧ (w.areg.get k).vcount = (x.warp.areg.get k).vcount)

namespace Sys2Proof.Claims

/-- The fields stand in a byte string: offset, bytes, value. -/
def Laid (bs : List Byte) (fs : List (Nat × Nat × Nat)) : Prop := ∀ f ∈ fs, byteField bs f.1 f.2.1 = f.2.2 % 256 ^ f.2.1

/-- A signed number as 32 bits. -/
def signed32 (x : Int) : Nat := (BitVec.ofInt 32 x).toNat

/-- R267: the header of a warp image. -/
def warpFields (s : State) (w : Warp) (state : Nat) : List (Nat × Nat × Nat) :=
  let owned := ((List.range 4).filter fun q => (s.queueOf w.pcn (BitVec.ofNat 2 q)).owner = some w.cw).map fun q => 2 ^ q
  [(0, 8, w.pc.toNat), (8, 8, w.mode.toNat), (16, 8, w.xs0.toNat), (24, 8, w.xs1.toNat), (32, 8, w.xpc.toNat), (40, 4, w.xmask.toNat),
   (44, 2, w.xcause.toNat), (46, 2, 0), (48, 8, w.xrec.toNat), (56, 4, w.active.toNat), (60, 1, w.flg.toNat), (61, 1, w.xrep.toNat),
   (62, 1, w.stack.length), (63, 1, w.tdepth + if w.repip then 128 else 0), (64, 1, w.pin.toNat + if w.tileAcc then 16 else 0),
   (65, 1, owned.sum), (66, 1, w.varch / 16), (67, 1, w.vren / 16), (68, 1, w.index.getD 0xFF), (69, 1, w.block), (70, 1, w.cw), (71, 1, state),
   (72, 4, 0), (76, 4, w.lastSeal.toNat), (80, 8, w.khdr), (88, 8, w.recVa), (96, 8, (BitVec.ofNat 64 s.clock + w.clkOff).toNat), (104, 152, 0)]

/-- R39: a reconvergence entry at an offset. -/
def entryFields (o : Nat) (e : StackEntry) : List (Nat × Nat × Nat) :=
  [(o, 8, e.mode.toNat), (o + 8, 4, e.jmask.toNat), (o + 12, 4, e.pmask.toNat), (o + 16, 6, e.ppc.toNat), (o + 22, 6, e.jpc.toNat), (o + 28, 4, 0)]

/-- R180, R266: an array register at an offset. -/
def arrayFields (o : Nat) (a : ArrayReg) : List (Nat × Nat × Nat) :=
  [(o, 8, a.base.toNat), (o + 8, 4, a.extent.toNat), (o + 12, 1, a.esize.toNat + 16 * a.check.toNat + if a.ro then 64 else 0),
   (o + 13, 2, a.vcount.toNat), (o + 15, 2, a.tgen.toNat), (o + 17, 15, 0)]

/-- 32 lanes at an offset. -/
def laneFields (o : Nat) (x : Lanes) : List (Nat × Nat × Nat) := (List.range 32).map fun i => (o + 4 * i, 4, (lane x i).toNat)

/-- R189: the record of a vector register at an offset, but for its CHECK. -/
def vectorFields (o : Nat) (x : Lanes) (sh : Shadow) : List (Nat × Nat × Nat) :=
  let ends := match sh with | .bounded lo hi => (signed32 lo, signed32 hi, 0) | .unbounded => (0, 0, 1)
  laneFields o x ++ [(o + 128, 4, ends.1), (o + 132, 4, ends.2.1), (o + 136, 1, 1), (o + 137, 1, ends.2.2), (o + 138, 2, 0)]

/-- R189: the record of a scalar register at an offset. -/
def scalarFields (o : Nat) (x : DWord) (sh : Shadow) : List (Nat × Nat × Nat) :=
  let ends := match sh with | .bounded lo hi => (signed32 lo, signed32 hi) | .unbounded => (0x7FFFFFFF, 0x80000000)
  [(o, 8, x.toNat), (o + 8, 4, ends.1), (o + 12, 4, ends.2)]

/-- R266: the record of an owned queue at an offset, but for the program. -/
def queueFields (o : Nat) (q : Queue) : List (Nat × Nat × Nat) :=
  [(o + 64, 4, q.i0), (o + 68, 4, q.i1), (o + 72, 4, q.i2), (o + 76, 4, q.entries.length), (o + 80, 48, 0), (o + 2176, 128, 0)]
    ++ (List.range 16).flatMap fun k => laneFields (o + 128 + 128 * k) ((q.entries.getD k (Vector.replicate 32 0, false)).1)

/-- R265: where each part of an image begins: at the next multiple of 64 bytes. -/
def partStarts : Nat → List (List Byte) → List Nat
  | _, [] => []
  | o, p :: ps => o :: partStarts ((o + p.length + 63) / 64 * 64) ps

/-- R265: the fields of a block header. -/
def blockFields (s : State) (launch gang : Nat) (b : Block) : List (Nat × Nat × Nat) :=
  let part := fun (p : Nat → Bool) => (((List.range 16).filter fun i => s.warps.any fun w => w.launch == launch && w.gang == gang && w.block == b.index
    && w.index == some i && w.status != .halted && p (32 * w.pcn + w.cw)).map fun i => 2 ^ i).sum
  [(0, 1, b.index), (1, 1, b.nwarp), (2, 1, b.scratch), (3, 1, if b.abandoned then 1 else 0), (4, 2, part fun _ => true), (6, 58, 0)]
    ++ (List.finRange 16).flatMap fun k => [(64 + 8 * k.val, 2, part (b.barriers.get k).arrived.contains), (66 + 8 * k.val, 2, (b.barriers.get k).phase),
        (68 + 8 * k.val, 4, 0)]

end Sys2Proof.Claims

/-- R39, R180, R189, R265, R266, R267: where every byte of a warp image, of a block header and of a gang's image stands. (A retired block has no
part in the image: log 92.) -/
def Sys2Proof.Claims.ImageLayouts : Prop :=
  ∀ s : State,
    (∀ (w : Warp) (state : Nat), w.stack.length ≤ 32 → w.varch ≤ 128 →
      let bs := (s.warpImage w state).bytes
      let qs := (List.range 4).filter fun q => (s.queueOf w.pcn (BitVec.ofNat 2 q)).owner = some w.cw
      (∀ q : Fin 4, ((s.core w.pcn).queues.get q).entries.length ≤ 16 ∧ ((s.core w.pcn).queues.get q).prog.length ≤ 64) →
      bs.length = 3456 + 144 * w.varch + 2304 * qs.length
      ∧ Laid bs (warpFields s w state)
      ∧ (∀ i : Fin 64, Laid bs (scalarFields (256 + 16 * i.val) (w.sreg.get i) (w.sshd.get i)))
      ∧ (∀ i : Fin 8, i.val < 7 → Laid bs [(1280 + 4 * i.val, 4, (w.preg.get i).toNat)]) ∧ Laid bs [(1308, 36, 0)]
      ∧ (∀ i : Fin 16, Laid bs (arrayFields (1344 + 32 * i.val) (w.areg.get i)))
      ∧ (∀ i : Fin 4, Laid bs (laneFields (1856 + 128 * i.val) (w.feeds.get i)))
      ∧ (∀ i e, w.stack.reverse[i]? = some e → Laid bs (entryFields (2368 + 32 * i) e))
      ∧ Laid bs [(2368 + 32 * w.stack.length, 32 * (32 - w.stack.length), 0), (3392, 64, 0)]
      ∧ (∀ i : Fin 128, i.val < w.varch → Laid bs (vectorFields (3456 + 144 * i.val) (w.vreg.get i) (w.vshd.get i))
          ∧ byteField bs (3456 + 144 * i.val + 140) 4 = (crc32c ((bs.drop (3456 + 144 * i.val)).take 140)).toNat)
      ∧ ∀ i q, qs[i]? = some q → let o := 3456 + 144 * w.varch + 2304 * i
        let y := s.queueOf w.pcn (BitVec.ofNat 2 q)
        Laid bs (queueFields o y) ∧ (bs.drop o).take 64 = y.prog ++ List.replicate (64 - y.prog.length) 0)
    ∧ (∀ launch gang b, ((s.warps.filter fun w => w.launch == launch && w.gang == gang && w.block == b.index).filterMap Warp.index).Nodup →
      (s.blockHeader launch gang b).length = 192 ∧ ((∀ w ∈ s.warps, ∀ i, w.index = some i → i < 16) → Laid (s.blockHeader launch gang b) (blockFields s launch gang b)))
    ∧ ∀ (g : Gang) (khdr : Nat) (state : Warp → Nat),
      let mine := s.warps.filter fun w => w.launch == g.launch && w.gang == g.index
      let live := g.blocks.filter fun b => !b.retired
      let header := fun (bs : List Byte) => bs.length = 192 ∧ Laid bs [(0, 1, live.length), (1, 1, (mine.filter fun w => w.index == none).length),
        (2, 2, 0), (4, 4, g.index), (8, 8, khdr), (16, 8, s.gtime), (24, 168, 0)]
      let ofBlock := fun (b : Block) =>
        let ws := mine.filter fun w => w.block == b.index
        s.blockHeader g.launch g.index b :: (List.range (b.scratch * 32768)).map (fun o => srams s b.pcn (b.unit * 32768 + o))
          :: ((List.range 16).flatMap fun i => ws.filter fun w => w.index == some i).map (fun w => (s.warpImage w (state w)).bytes)
          ++ ((List.range 32).flatMap fun i => ws.filter fun w => w.index == none && w.cw == i).map fun w => (s.warpImage w (state w)).bytes
      ∃ h, header h ∧ let parts : List (List Byte) := h :: live.flatMap ofBlock
        let bs := (s.gangImage g khdr state).bytes
        ∀ (i : Nat) (p : List Byte) (o : Nat), parts[i]? = some p → (partStarts 0 parts)[i]? = some o → (bs.drop o).take p.length = p

/-- R265, R266, R267, R268, R190: a warp image is 3,456 + 144 × VARCH bytes, and read back it gives every register, shadow, stack entry
and status of the warp; reserved bits of MODE and XREC read as zero (R6), and a register of a pinned tile has no bound (R207). -/
def Sys2Proof.Claims.WarpImagesHoldTheWarp : Prop :=
  ∀ (s : State) (w : Warp) (state launch gang rid trapvec : Nat), s.ownedQueues w = [] → w.varch % 16 = 0 → 16 ≤ w.varch → w.varch ≤ 128 →
    w.vren % 16 = 0 → w.vren ≤ 128 → w.stack.length ≤ 32 → w.tdepth ≤ 32 → w.block < 4 → (∀ i, w.index = some i → i < 16) →
    w.khdr < 2 ^ 48 → w.recVa < 2 ^ 48 → state < 256 →
    (∀ i : Fin 64, (w.sshd.get i).encloses (w.sreg.get i).toInt) → (∀ i : Fin 128, ∀ j : Fin 32, (w.vshd.get i).encloses ((w.vreg.get i).get j).toInt) →
    let bs := (s.warpImage w state).bytes
    let x := savedWarp bs [] launch gang rid trapvec
    let v := x.warp
    bs.length = 3456 + 144 * w.varch ∧ x.state = state ∧ x.queues = []
    ∧ (v.pc = w.pc ∧ v.mode = definedMode w.mode ∧ v.xs0 = w.xs0 ∧ v.xs1 = w.xs1 ∧ v.xpc = w.xpc ∧ v.xmask = w.xmask ∧ v.xcause = w.xcause ∧ v.xrec = definedXrec w.xrec
      ∧ v.active = w.active ∧ v.flg = w.flg ∧ v.xrep = w.xrep ∧ v.tdepth = w.tdepth ∧ v.repip = w.repip ∧ v.pin = w.pin ∧ v.tileAcc = w.tileAcc
      ∧ v.varch = w.varch ∧ v.vren = w.vren ∧ v.index = w.index ∧ v.block = w.block ∧ v.lastSeal = w.lastSeal ∧ v.khdr = w.khdr ∧ v.recVa = w.recVa
      ∧ v.stack = (w.stack.map fun e => { e with mode := definedMode e.mode }) ∧ v.feeds = w.feeds ∧ v.clkOff = BitVec.ofNat 64 s.clock + w.clkOff)
    ∧ (∀ i : Fin 64, i.val ≠ 0 → v.sreg.get i = w.sreg.get i ∧ v.sshd.get i = w.sshd.get i)
    ∧ (∀ i : Fin 128, i.val < w.varch → v.vreg.get i = w.vreg.get i
        ∧ v.vshd.get i = if inTile w.tileAcc w.pin i.val then .unbounded else w.vshd.get i)
    ∧ (∀ i : Fin 8, i.val ≠ 7 → v.preg.get i = w.preg.get i)
    ∧ ∀ i : Fin 16, v.areg.get i = { w.areg.get i with frame := 0, limit := 0, fw := false, key := 0, unc := false }

namespace Sys2Proof.Claims

/-- Of gangs one alone has changed, and it to `h`. -/
def GangBecomes (s t : State) (h : Gang) : Prop :=
  t = { s with gangs := t.gangs } ∧ t.gang? h.launch h.index = some h
    ∧ ∀ l i, (l, i) ≠ (h.launch, h.index) → t.gang? l i = s.gang? l i

/-- R329: the quantum of a region in nanoseconds. -/
def quantum (s : State) (r : Region) : Nat := 1000 * s.effective 4 Region.quantum r s.regions.length

end Sys2Proof.Claims

/-- R338, R340, R341: a quantum that has passed since the placement has expired; a gang that waits gains a level for each quantum, three
at most; a gang whose warps have all waited a quantum for words makes way for an evicted gang of its region, for which no other has made
way. -/
def Sys2Proof.Claims.PlacementTimeResults : Prop :=
  ∀ (s : State) (g : Gang) (r : Region), s.gang? s.subject.launch s.subject.gang = some g → s.region? g.rid = some r →
    (g.state = .placed → g.placedAt + quantum s r ≤ s.gtime → ∃ t, exec .quantumExpiry s = .next t ∧ GangBecomes s t { g with expired := true })
    ∧ (g.state = .placed → s.gtime < g.placedAt + quantum s r → ∃ t, exec .quantumExpiry s = .next t ∧ GangBecomes s t g)
    ∧ ((g.state = .ready ∨ g.state = .evicted) → g.aging < 3 → g.readyAt + (g.aging + 1) * quantum s r ≤ s.gtime →
      ∃ t, exec .priorityAging s = .next t ∧ GangBecomes s t { g with aging := g.aging + 1 })
    ∧ ((g.state = .ready ∨ g.state = .evicted) → (3 ≤ g.aging ∨ s.gtime < g.readyAt + (g.aging + 1) * quantum s r) →
      ∃ t, exec .priorityAging s = .next t ∧ GangBecomes s t g)
    ∧ (∀ h, s.evictedHead g.rid = some h → h.favoured = true → exec .waiterYield s = .next s)
    ∧ (∀ h, g.state = .placed → g.asked = false → g.victim = false → s.imageFits g = true → s.evictedHead g.rid = some h → h.favoured = false →
      s.gang? h.launch h.index = some h → (h.launch, h.index) ≠ (g.launch, g.index) →
      (∃ w ∈ s.warps, OfGang g w ∧ w.status ≠ .halted) →
      (∀ w ∈ s.warps, OfGang g w → w.status ≠ .halted → w.status = .waiting ∧ w.waitSince + quantum s r / 1000 * s.monarch.clockMHz ≤ s.clock
        ∧ ((∃ a b, w.wait = some (.waitw a b)) ∨ ∃ a b, w.wait = some (.waitwG a b))) →
      ∃ t, exec .waiterYield s = .next t ∧ t = { s with gangs := t.gangs } ∧ t.gang? g.launch g.index = some { g with victim := true }
        ∧ t.gang? h.launch h.index = some { h with favoured := true })

/-- R355, R365, R366: an invalidation advances TGEN in the region and its cores and drops the translations of its range; reading the
footprints clears their counts and credits their pages; a page moves to a frame of the stack with more free frames (the lower on a tie)
of the die for which the whole page scores best, with its bytes, its leaf names the frame, and TGEN advances. (That a count is divided by
the pages and rounded down, the lowest die on a tie, and the codes of reports are the model's, logs 84 and 54.) -/
def Obligations.TranslationMaintenance : Prop :=
  ∀ (s : State) (r : Region), s.region? s.subject.rid = some r → Plain s → (∀ w ∈ s.warps, w.stores = []) →
    (s.warps.map fun w => (w.pcn, w.cw)).Nodup → s.cores.all (fun c => c.copies.isEmpty) = true →
    let x := s.subject
    let advanced := fun (t : State) => t.region? r.rid = some { r with tgen := r.tgen + 1 }
      ∧ ∀ c ∈ t.cores, c.rid = r.rid → c.tgen = r.tgen + 1
    (FreshCommand s → ∃ t, exec .invalidate s = .next t ∧ advanced t
      ∧ CellsWritten s t (cellsFrom (r.addr + 76) (bytesOf 2 (r.tgen + 1).toNat))
      ∧ (∀ c ∈ t.cores, c.rid = r.rid → ∀ e ∈ c.tlb, State.tlbOverlaps r.rid x.addr x.len e = false)
      ∧ (∀ c ∈ s.cores, c.rid = r.rid → ∀ k ∈ t.clusters, k.id = c.pcn / 4 → ∀ e ∈ k.tlb, State.tlbOverlaps r.rid x.addr x.len e = false)
      ∧ (∀ w ∈ t.warps, w.rid = r.rid → ∀ k : Fin 16, (w.areg.get k).tgen = r.tgen + 1 → (w.areg.get k).frame = 0)
      ∧ ⟨0x355, [r.rid, (r.tgen + 1).toNat]⟩ ∈ t.monarch.log)
    ∧ (∀ level e at_ k k2, s.leafAt x.addr 5 0 r.ptroot = some (level, e, at_) →
      let size := 2 ^ leafBits level
      let page := r.rid * 2 ^ 36 + (x.addr - x.addr % size) / 4096
      let die := s.bestDie page (size / 4096)
      placeOf s.monarch (ptePa e) = .direct k → placeOf s.monarch x.value = .direct k2 → pteFix e = false →
      s.pinsPage r (x.addr - x.addr % size) size = false → s.holdsTables (ptePa e) size = false → k / 2 ≠ die →
      k2 = (if x.list.getD 0 0 < x.list.getD 1 0 then 2 * die + 1 else 2 * die) →
      2 * s.scoreOf page (size / 4096) (k / 2) ≤ s.scoreOf page (size / 4096) die → x.value % size = 0 → mappable s.monarch x.value size = true → s.homes.poison = [] →
      (∀ p, (at_ ≤ p ∧ p < at_ + 8) ∨ (r.addr + 76 ≤ p ∧ p < r.addr + 78) → ¬ (x.value ≤ p ∧ p < x.value + size)) →
      ∃ t, exec .pageMove s = .next t ∧ advanced t
        ∧ (∀ j, j < size → t.agentByte (pteKey e) (x.value + j) = s.agentByte (pteKey e) (ptePa e + j))
        ∧ (r.addr + 78 ≤ at_ ∨ at_ + 8 ≤ r.addr + 76 → ptePa (BitVec.ofNat 64 (agentNumber t 0 at_ 8)) = x.value))
    ∧ (∃ t, exec .footprintRead s = .next t ∧ t = { s with cores := t.cores, monarch := t.monarch }
      ∧ (∀ c ∈ t.cores, ∀ f ∈ c.footprint, f.count = 0)
      ∧ ∀ c f, s.cores = [c] → c.footprint = [f] → 0 < f.bytes → s.monarch.scores = [] →
          let first := f.base / 4096
          let pages := (f.base + f.bytes - 1) / 4096 + 1 - first
          ∀ p, first ≤ p → p < first + pages → t.scoreOf (f.rid * 2 ^ 36 + p) 1 (c.pcn / 64) = f.count / pages)

/-! ## The Monarch -/

namespace Sys2Proof.Claims

/-- R373, R374: what a boot leaves of `s`: READY as the image in flash configures it, when every step passes, and else RECOVERY. -/
def Booted (s t : State) : Prop :=
  let bs := s.monarch.image
  let f := byteField bs
  let whole := bs.take (f 12 4)
  let passes := imageOk bs = true ∧ signatureOk Config.rootKey (whole.take (whole.length - 96)) (whole.drop (whole.length - 96)) = true
    ∧ s.monarch.svn ≤ f 8 4 ∧ ofBytes (sha384 s.monarch.firmware) = f 1236 48
    ∧ Config.trainingOk s.clock = true
  t.warp = s.warp ∧ t.others = s.others ∧ t.regions = s.regions ∧ t.monarch.image = bs ∧ t.monarch.firmware = s.monarch.firmware
    ∧ (¬ passes → t.monarch.power = .recovery ∧ t.homes = s.homes ∧ t.cores = s.cores)
    ∧ (passes → t.monarch.power = .ready ∧ t.monarch.svn = f 8 4 ∧ t.monarch.carve = f 64 1 ∧ t.monarch.integrity = (f 65 1 % 2 == 1)
        ∧ t.monarch.encryption = (f 65 1 / 2 % 2 == 1) ∧ t.monarch.heap = f 1132 8 ∧ t.monarch.dbiw = (f 1128 2, f 1130 2)
        ∧ t.homes.msc = [] ∧ t.homes.mem = s.homes.mem
        ∧ ∀ pcn, pcn < 256 → (t.core pcn).enabled = (whole.getD (72 + pcn / 8) 0).getLsbD (pcn % 8)
            ∧ ∀ k : Fin 4, ((t.core pcn).parts.get k).spare = (let v := (whole.getD (104 + 4 * pcn + k.val) 0).toNat; if v = 255 then none else some v))

end Sys2Proof.Claims

/-- R372, R373, R377: power-on and a reboot in RECOVERY boot the module; RECOVERY takes a new image; power loss leaves flash alone; the
standby takes control, and with the failure of die C3 then the module stops for good; a command the Monarch has acted on is not acted on
again, and none is while it is neither READY nor RUN. -/
def Sys2Proof.Claims.PowerResults : Prop :=
  ∀ s : State,
    let x := s.subject
    (s.monarch.power = .off → ∃ t, exec .powerOn s = .next t ∧ Booted s t)
    ∧ (s.monarch.power ≠ .off → exec .powerOn s = .next s)
    ∧ (s.monarch.power = .recovery → NewNumber s →
        exec .recoveryImageWrite s = .next { counted s with monarch := { (counted s).monarch with image := x.bytes, firmware := x.more } }
        ∧ ∃ t, exec .rebootRequest s = .next t ∧ Booted (counted s) t)
    ∧ ((s.monarch.power ≠ .recovery ∨ ¬ NewNumber s) → exec .recoveryImageWrite s = .next s ∧ exec .rebootRequest s = .next s)
    ∧ (∃ t, exec .powerLoss s = .next t ∧ t.monarch = { Monarch.reset with
          image := s.monarch.image, firmware := s.monarch.firmware, svn := s.monarch.svn, hostAttached := s.monarch.hostAttached }
        ∧ t.homes = Homes.reset ∧ t.warps = [] ∧ t.regions = [] ∧ t.launches = [] ∧ t.gangs = [] ∧ t.clusters = []
        ∧ t.fabric = State.reset.fabric ∧ (∀ pcn, { t.core pcn with parts := (Core.reset pcn).parts } = Core.reset pcn)
        ∧ ((s.cores.map Core.pcn).Nodup → ∀ pcn, ∀ k : Fin 4, ((t.core pcn).parts.get k).stuck = ((s.core pcn).parts.get k).stuck))
    ∧ (Up s → exec .standbyTakeover s = .next { s with monarch := { s.monarch with standby := true } })
    ∧ (¬ Up s → exec .standbyTakeover s = .next s)
    ∧ (s.monarch.standby = true → exec .standbyDieFailure s = .next { s with monarch := { s.monarch with stopped := true, hostAttached := false } })
    ∧ (s.monarch.stopped = true → (∀ y rest, s.agenda ≠ .event .powerLoss y :: rest) → step s = .fault .moduleStopped)
    ∧ (¬ FreshCommand s →
        ∀ i ∈ [Instr.retry, .skip, .exclude, .halt, .dumpAreaReset, .regionCreate, .regionReread, .invalidate, .attestationReport, .keyLoad, .monarchGangHalt, .leaseReferralAnswer,
          .breakpointSet, .singleStep, .debugRegisterAccess, .causalExperiment, .tableCreate, .tableGrant, .tablePublish],
          exec i s = .next s)

/-- R367, R375, R376, R377: an attestation report begins with the nonce and ends with the ECDSA signature of its first 192 bytes (its
nonce is free, log 11); a key that unwraps is loaded for its id; the clock follows the power samples between 1,200 and 2,400 MHz; the
host reads and writes bytes through BAR2, ones where nothing is reached, and registers through BAR0. (The report's layout is the model's
choice, log 22.) -/
def Sys2Proof.Claims.MonarchServices : Prop :=
  ∀ s : State,
    let x := s.subject
    let m := s.monarch
    (FreshCommand s → ∃ t, exec .attestationReport s = .next t
      ∧ t = { counted s with monarch := { (counted s).monarch with report := t.monarch.report } } ∧ t.monarch.report.length = 288
      ∧ t.monarch.report.take 32 = (x.bytes ++ List.replicate 32 0).take 32
      ∧ t.monarch.report.drop 192 = sign Config.identityKey (Config.signingNonce (t.monarch.report.take 192)) (t.monarch.report.take 192))
    ∧ (FreshCommand s → 1 ≤ x.id → x.id ≤ 63 → m.encryption = false → ∃ t, exec .keyLoad s = .next t
      ∧ t = { counted s with monarch := { (counted s).monarch with keys := t.monarch.keys } }
      ∧ (match Config.unwrapKey x.value with
        | none => t.monarch.keys = m.keys
        | some k => t.monarch.keys.lookup x.id = some k ∧ ∀ j, j ≠ x.id → t.monarch.keys.lookup j = m.keys.lookup j))
    ∧ (m.power = .run → ∃ t, exec .powerSample s = .next t ∧ t = { s with monarch := t.monarch, clusters := t.clusters }
      ∧ (t.monarch.clockMHz, t.monarch.calm) =
          (if 3600 < x.value then (max 1200 (m.clockMHz - 50), 0)
           else if x.value < 3400 then (if 9 ≤ m.calm then min 2400 (m.clockMHz + 50) else m.clockMHz, min 10 (m.calm + 1))
           else (m.clockMHz, 0)))
    ∧ (m.hostAttached = true → Up s → Plain s →
      (x.flag = true → ∃ t, exec .hostMemoryAccess s = .next t ∧ CellsWritten s t ((cellsFrom x.addr x.bytes).filter fun c => s.bar2Reaches c.1))
      ∧ (x.flag = false → ∃ t, exec .hostMemoryAccess s = .next t ∧ BytesKept s t
          ∧ t.monarch.hostRead = (List.range x.len).map fun j => if s.bar2Reaches (x.addr + j) then s.agentByte 0 (x.addr + j) else 0xFF))
    ∧ (m.hostAttached = true → Up s → x.addr < 2 ^ 24 → ∃ t, exec .hostRegisterWrite s = .next t
      ∧ t = { s with monarch := { m with bar0 := t.monarch.bar0 } } ∧ t.monarch.bar0.lookup x.addr = some x.value
      ∧ ∀ a, a ≠ x.addr → t.monarch.bar0.lookup a = m.bar0.lookup a)

/-! ## Luna, the debugger, experiments, the translator -/

namespace Sys2Proof.Claims

/-- The subject's warp is the current one, and the debugger holds it (R380). -/
def Held (s : State) : Prop := AtWarp s ∧ s.warp.status = .trapped ∧ ∃ n, s.warp.wait = some (.inWarpStop n)

/-- Of clusters one alone has changed, to `c`. -/
def ClusterBecomes (s t : State) (c : Cluster) : Prop :=
  t = { s with clusters := t.clusters } ∧ t.cluster c.id = c ∧ ∀ k, k ≠ c.id → t.cluster k = s.cluster k

/-- Of cores one alone has changed, to `c`. -/
def CoreBecomes (s t : State) (c : Core) : Prop :=
  t = { s with cores := t.cores } ∧ t.core c.pcn = c ∧ ∀ k, k ≠ c.pcn → t.core k = s.core k

end Sys2Proof.Claims

/-- R378, R379, R380: Luna's records, SYNC records, rearming and freeze masks; breakpoints, stops at safe points and single steps;
samples. (The code of the reason of a breakpoint is the model's choice, log 14; a single step reports the cause STEP, R195, log 35; that
a `rep` issued with XREP other than 0 is no stop site of its own word: log 60; the ordinal of all ones and WHO 0 of a SYNC and of a
watchdog's record: log 16.) -/
def Sys2Proof.Claims.TraceAndDebugResults : Prop :=
  ∀ s : State,
    let x := s.subject
    let k := s.cluster x.n
    let c := s.core x.pcn
    (x.n < 64 → ∃ t, exec .lunaRecord s = .next t ∧ t = { s with clusters := t.clusters } ∧ (∀ j, j ≠ x.n → t.cluster j = s.cluster j)
      ∧ Recorded s t x.n (BitVec.ofNat 8 x.id) (BitVec.ofNat 8 x.cw) 0 (BitVec.ofNat 32 x.addr) (BitVec.ofNat 64 x.value)
      ∧ (k.thisCycle.1 ≠ s.clock → k.left ≠ some 0 →
        (t.cluster x.n).ring.tail = k.ring.take 4095 ∧ (t.cluster x.n).left = (match k.left with
          | some n => some (n - 1)
          | none => if ∃ b, freezeBit (x.id % 256) = some b ∧ k.mask.getLsbD b = true then some 256 else none))
      ∧ (k.thisCycle.1 ≠ s.clock → k.left = some 0 → (t.cluster x.n).ring = k.ring.take 4096 ∧ (t.cluster x.n).dropped = k.dropped + 1))
    ∧ (x.n < 64 → ∃ t, exec .lunaSync s = .next t ∧ t = { s with clusters := t.clusters }
      ∧ (k.thisCycle.1 ≠ s.clock → k.left ≠ some 0 → (t.cluster x.n).dropped = 0)
      ∧ Recorded s t x.n 1 0 (BitVec.ofNat 8 (2 * min 127 k.dropped + if x.flag then 1 else 0)) 0xFFFFFFFF#32 (BitVec.ofNat 64 s.gtime))
    ∧ (x.n < 64 → ∃ t, exec .lunaRearm s = .next t ∧ ClusterBecomes s t { k with frozen := false, left := none, leftBefore := none })
    ∧ (x.n < 64 → ∃ t, exec .freezeMaskSet s = .next t ∧ ClusterBecomes s t { k with mask := BitVec.ofNat 8 x.value })
    ∧ (x.n < 64 → (∃ w ∈ s.warps, w.pcn / 4 = x.n ∧ w.status = .ready) → ∃ t, exec .clusterWatchdog s = .next t ∧ t = { s with clusters := t.clusters }
      ∧ Recorded s t x.n 0x41 0 0 0xFFFFFFFF#32 0)
    ∧ ((∀ w ∈ s.warps, w.pcn / 4 = x.n → w.status ≠ .ready) → exec .clusterWatchdog s = .next s)
    ∧ (64 ≤ x.n → ∀ i ∈ [Instr.lunaRecord, .lunaSync, .lunaRearm, .freezeMaskSet, .clusterWatchdog], exec i s = .next s)
    ∧ (∀ r, FreshCommand s → x.list.length ≤ 8 → s.region? x.rid = some r →
      ∃ t, exec .breakpointSet s = .next t ∧ t = { counted s with regions := t.regions } ∧ RegionBecomes s t x.rid { r with breakpoints := x.list })
    ∧ (FreshCommand s → Held s → exec .singleStep s = .next { counted s with warp := { s.warp with
          status := .ready, wait := none, rep := none, resumed := true, resumedRep := s.warp.rep.isSome, stepping := true } })
    ∧ (AtWarp s → (s.warp.status ≠ .ready ∨ s.warp.wait ≠ none) → exec .safePointStop s = .next s)
    ∧ (∀ w pa reason, AtWarp s → s.warp.status = .ready → s.warp.wait = none → s.warp.rep = none → s.fetchWord s.warp.pcn s.warp.pc.toNat = .ok (w, pa) →
      w.getLsbD 31 = true → s.warp.resumed = false → s.warp.rerun = false → (w.extractLsb' 25 6 ≠ 0x12#6 ∨ s.warp.xrep = 0) →
      (reason = (if (∃ r, s.region? s.warp.rid = some r ∧ (s.ordinalOf s.warp.launch s.warp.pc.toNat).toNat ∈ r.breakpoints) then 1 else 0x22)) →
      (reason = 1 ∨ s.warp.stepping = true) →
      ∃ t, exec .safePointStop s = .next t ∧ t = { s with warp := t.warp, clusters := t.clusters }
        ∧ t.warp = { s.warp with status := .trapped, permit := false, wait := some (.inWarpStop reason), stepping := false })
    ∧ (x.pcn < 256 → 4096 ≤ x.value → x.value ≤ 2 ^ 32 → ∃ t, exec .samplePeriodSet s = .next t ∧ CoreBecomes s t { c with samplePeriod := some x.value })
    ∧ ((256 ≤ x.pcn ∨ x.value < 4096 ∨ 2 ^ 32 < x.value) → exec .samplePeriodSet s = .next s)
    ∧ (256 ≤ x.pcn → exec .samplePeriodEnd s = .next s)
    ∧ (x.pcn < 256 → ∃ t, exec .samplePeriodEnd s = .next t ∧ CoreBecomes s t { c with sampleDue := c.sampleDue || c.samplePeriod.isSome })
    ∧ (c.pcn = x.pcn ∧ k.id = x.n)

/-- R380, R271: the debugger reads a register of a stopped warp into what the host reads, and writes one: scalars, vector lanes,
predicates, MODE and the pc; the handler of a TRAPPED warp rewrites its trap registers, and nothing else. (How a command names a
register is the model's own: log 23; that the handler reaches 0x30 to 0x34 alone, log 78.) -/
def Sys2Proof.Claims.DebuggerRegisters : Prop :=
  ∀ s : State, FreshCommand s →
    let x := s.subject
    let v := BitVec.ofNat 64 x.value
    (AtWarp s → s.warp.status = .trapped → State.debugHeld s.warp = false →
      (∀ row ∈ systemWrites s.warp v, x.flag = true → x.id = 8 → x.n = row.1.toNat →
        exec .debugRegisterAccess s = .next { counted s with warp := row.2 })
      ∧ (x.flag = true → x.id = 8 → x.n = 0x34 →
        exec .debugRegisterAccess s = .next { counted s with warp := { s.warp with xrep := v.extractLsb' 0 6 } })
      ∧ ((x.flag = false ∨ x.id ≠ 8 ∨ x.n < 0x30 ∨ 0x34 < x.n) → exec .debugRegisterAccess s = .next (counted s))) ∧ (Held s →
    let read := fun (y : DWord) => x.flag = false → ∃ t, exec .debugRegisterAccess s = .next t ∧ t.monarch.hostRead = bytesOf 8 y.toNat
      ∧ t = { counted s with monarch := { (counted s).monarch with hostRead := t.monarch.hostRead } }
    let wrote := fun (p : State → Prop) => x.flag = true → ∃ t, exec .debugRegisterAccess s = .next t ∧ p t ∧ t = { counted s with warp := t.warp }
    (x.id = 0 → x.n < 64 → read (s.readS (BitVec.ofNat 7 x.n)) ∧ wrote fun t => t.readS (BitVec.ofNat 7 x.n) = (if x.n = 0 then 0 else v)
      ∧ (∀ r, sIdx r ≠ x.n → t.readS r = s.readS r) ∧ t.warp = { s.warp with sreg := t.warp.sreg, sshd := t.warp.sshd })
    ∧ (x.id = 1 → x.n < 128 → ∀ i : Fin 32, x.len = i.val → read (((s.readV (BitVec.ofNat 7 x.n)).get i).setWidth 64)
      ∧ wrote fun t => (t.readV (BitVec.ofNat 7 x.n)).get i = v.setWidth 32 ∧ (∀ j, j ≠ i → (t.readV (BitVec.ofNat 7 x.n)).get j = (s.readV (BitVec.ofNat 7 x.n)).get j)
        ∧ t.warp = { s.warp with vreg := t.warp.vreg, vshd := t.warp.vshd })
    ∧ (x.id = 2 → x.n < 7 → read ((s.readP (BitVec.ofNat 3 x.n)).setWidth 64) ∧ wrote fun t => t.readP (BitVec.ofNat 3 x.n) = v.setWidth 32
        ∧ t.warp = { s.warp with preg := t.warp.preg })
    ∧ (x.id = 3 → read s.warp.mode ∧ wrote fun t => t.warp = { s.warp with mode := t.warp.mode }
        ∧ ∀ k, t.warp.mode.getLsbD k = (!reservedModeBit k && v.getLsbD k))
    ∧ (x.id = 4 → read (s.warp.pc.setWidth 64) ∧ wrote fun t => t.warp = { s.warp with pc := v.setWidth 48, rep := none }))

/-- R381, R147: a causal experiment starts with the progress counters read and cleared and every cycle count at 0, and ends
with them in the Monarch's log; at the end of a period the warps of the region without a cycle in the range are held for F × I / 256
cycles. R384, R385, R386: a function is translated once, into the lowest part of the heap that takes it with its constants, and the
launches of a translated kernel take its header from there. (The codes of the Monarch's log are the model's own, log 54; what the
translator puts out is free, log 39.) -/
def Obligations.ExperimentAndTranslatorResults : Prop :=
  ∀ s : State,
    let x := s.subject
    let cleared := s.cores.map fun (c : Core) => { c with pmark := Vector.replicate 8 0 }
    (FreshCommand s → x.flag = true → x.value ≤ 256 → s.monarch.causal = none →
      ∃ t, exec .causalExperiment s = .next t ∧ t = { counted s with
          warp := { s.warp with causalHits := 0 }, others := s.others.map fun w => { w with causalHits := 0 }, cores := t.cores, monarch := t.monarch }
        ∧ t.cores = cleared.map (fun (c : Core) => { c with causal := 0 })
        ∧ t.monarch.causal = some ⟨x.rid, x.addr, x.n, x.len, x.value, s.cores.map fun c => (c.pcn, c.pmark.toList.map BitVec.toNat)⟩)
    ∧ (∀ e, FreshCommand s → x.flag = false → s.monarch.causal = some e →
      ∃ t, exec .causalExperiment s = .next t ∧ t.cores = cleared ∧ t.monarch.causal = none
        ∧ t.monarch.log = s.monarch.log ++ s.cores.map fun c => ⟨0x381, c.pcn :: c.pmark.toList.map BitVec.toNat⟩)
    ∧ (∀ e, s.monarch.causal = some e →
      let longest := (s.cores.filter fun c => c.rid == e.rid).foldl (fun n c => max n c.causal) 0
      let settled := fun (w v : Warp) => v = if w.rid = e.rid ∧ w.causalHits = 0 then { w with hold := s.clock + e.speedup * longest / 256 } else { w with causalHits := 0 }
      ∃ t, exec .causalPeriodEnd s = .next t ∧ t = { s with warp := t.warp, others := t.others, cores := t.cores } ∧ settled s.warp t.warp
        ∧ t.others.length = s.others.length ∧ (∀ p ∈ s.others.zip t.others, settled p.1 p.2) ∧ ∀ c ∈ t.cores, c.causal = 0)
    ∧ (s.monarch.causal = none → exec .causalPeriodEnd s = .next s)
    ∧ (let n := if x.flag then ofBytes (s.readRegion x.rid Config.requestWord 8).bytes else x.n
       let sec := s.golierum x.rid x.addr
       let need := heapNeed sec x.addr n
       (Up s → (∃ f ∈ s.monarch.functions, f.rid = x.rid ∧ f.code = x.addr ∧ f.fn = n) → exec .translateFunction s = .next s)
       ∧ (Up s → (∀ f ∈ s.monarch.functions, ¬ (f.rid = x.rid ∧ f.code = x.addr ∧ f.fn = n)) →
        ∃ t, exec .translateFunction s = .next t
          ∧ ∀ o, fitArea (s.monarch.functions.map fun f => (f.off, f.len)) Config.heapVirtual s.monarch.heap 4096 need.2 = some o →
            (∃ f, t.monarch.functions = s.monarch.functions ++ [f] ∧ f.rid = x.rid ∧ f.code = x.addr ∧ f.fn = n ∧ f.off = o ∧ f.len = need.2
              ∧ f.constOff = o + need.1 ∧ f.constLen = (constantsFor sec x.addr n).length ∧ f.segment.start = Config.heapVirtual + o)
            ∧ t.warp = s.warp ∧ t.others = s.others
            ∧ (∀ c ∈ t.cores, ∀ e ∈ c.icache, e.1 + 3 < Config.heapPhysical + o ∨ Config.heapPhysical + o + need.2 ≤ e.1)
            ∧ ∀ l ∈ t.launches, l.translated = true → l.rid = x.rid → l.code = x.addr → l.kernel = n → l.state ≠ .done →
              l.khdr = Config.heapVirtual + o ∧ l.constVa = Config.heapVirtual + o + need.1 ∧ l.constLen = (constantsFor sec x.addr n).length))

/-! ## The fabric -/

namespace Sys2Proof.Claims

/-- Of ports one alone has changed, to `p`, and the flits `sent` have been put on its link. -/
def PortBecomes (s t : State) (p : Port) (sent : List Flit) : Prop :=
  t = { s with fabric := { s.fabric with ports := t.fabric.ports, sent := s.fabric.sent ++ sent.map fun f => (p.id, f) } }
    ∧ t.port p.id = p ∧ ∀ k, k ≠ p.id → t.port k = s.port k

/-- The flits of a port that waited and for which its replay buffer of 512 has room (R387). -/
def moved (p : Port) : List Flit := p.waiting.take (512 - p.buffer.length)

/-- A port once those have gone. -/
def refilled (p : Port) : Port := { p with buffer := p.buffer ++ moved p, waiting := p.waiting.drop (512 - p.buffer.length) }

/-- A port whose replay buffer has lost the flits up to an ACK. -/
def trimmed (p : Port) (ack : Word) : Port :=
  { p with lastAck := ack, buffer := p.buffer.filter fun f => 2 ^ 31 ≤ (ack - f.seq).toNat }

/-- A pool table by its id. -/
def tableOf (s : State) (id : Nat) : Option PoolTable := s.fabric.tables.find? fun t => t.id == id

/-- Of pool tables one alone has changed, to `p`, and nothing else. -/
def TableBecomes (s t : State) (id : Nat) (p : PoolTable) : Prop :=
  t = { s with fabric := { s.fabric with tables := t.fabric.tables } } ∧ tableOf t id = some p ∧ ∀ k, k ≠ id → tableOf t k = tableOf s k

/-- The flit of a message that a port composes next: its place in the port's order, what the port acknowledges, and the part it is of what it says.
Its PAYLOAD and CHECK are as the links make them. -/
def flitOf (q : Port) (peer : Nat) (m : Message) (part : Nat) (first : Option Word) : Flit :=
  let was := first.getD q.sendSeq
  let payload := Config.flitPayload peer was.toNat part
  let head := BitVec.ofNat 128 (m.kind + 2 ^ 16 * Config.moduleNumber + 2 ^ 32 * peer + 2 ^ 64 * q.sendSeq.toNat + 2 ^ 96 * (q.nextSeq - 1).toNat)
  ⟨q.sendSeq, q.nextSeq - 1, peer, Config.moduleNumber, m.kind, payload, Config.flitCheck (payload ++ head), m, part, was⟩

/-- R393: of the members that a copy has asked for a row, or for elements of it, only `peer` may be lost. -/
def LostAlone (s : State) (c : Copy) (m peer : Nat) : Prop := ∀ p ∈ c.rowAsked m, s.isLost p = true → p = peer

/-- R393, R396: a region that has not been able to leave for a module stays, and the host is told. -/
def RemainsHere (t : State) (r : Region) (peer code : Nat) : Prop :=
  t.region? r.rid = some { r with migrating := false, copied := false, sentTo := 0, stopped := decide (2 ^ r.lqorder < (r.lqtail - r.lqhead).toNat) }
    ∧ ⟨code, [r.rid, peer]⟩ ∈ t.monarch.log

/-- R393: a row of a copy once its home is lost, `got` having come: the words not received are 0x7FC1_0BAD. -/
def EndedRow (c : Copy) (got bs : List Byte) : Prop :=
  bs.length = c.size ∧ ∀ i, i < c.size / 4 → (bs.drop (4 * i)).take 4 = if 4 * i + 4 ≤ got.length then (got.drop (4 * i)).take 4 else bytesOf 4 0x7FC10BAD

/-- R393: the Monarch has logged that a copy's row of a lost peer has ended. -/
def RowReported (s t : State) (c : Copy) (tb row peer : Nat) : Prop :=
  ⟨0x1A, [(s.launch? c.launch).elim 0 Launch.rid, tb, row, peer]⟩ ∈ t.monarch.log

/-- The directory of a table with a row's home at another member. -/
def rehomed (p : PoolTable) (v row member : Nat) : PoolTable :=
  { p with versions := p.versions.map fun y =>
      if y.version = v then { y with homes := y.homes.map fun h => if h.1 = row then (row, member) else h } else y }

end Sys2Proof.Claims

/-- R387, R388: an intact flit with the next SEQ is taken, and its payload delivered, another is not; one that was first sent by another
path carries its number there, and is discarded when it has been delivered already; an ACK frees the replay buffer, and what waited goes on the link. One
that fails its check is replayed, 256 times within 100 µs being a storm; a lane is spared once, a second one has the link retrain to 4
lanes, and the stall ends with the replay buffer sent again; a retrain that fails takes the link down, and its flits to the next paths.
(Which recorder takes a port's event, the ordinal of all ones and WHO 0 of its record, that flits for another module are not delivered and
how one keeps its number, and how many flits a message takes, are the model's choices: logs 24, 16, 79, 98.) -/
def Sys2Proof.Claims.LinkResults : Prop :=
  ∀ s : State,
    let x := s.subject
    let p := s.port x.id
    let f := byteField x.bytes
    let seq := BitVec.ofNat 32 (f 8 4)
    let payload := (x.bytes.drop 16).take 224
    let known := (f 2 2, if x.flag then BitVec.ofNat 32 x.n else seq, payload)
    let idle := x.flag2 = false ∧ p.down = false ∧ p.retraining = false
    (16 ≤ x.id → exec .flitReceive s = .next s ∧ exec .laneSpare s = .next s ∧ exec .linkRetrain s = .next s ∧ exec .linkRetrainDone s = .next s
        ∧ exec .linkDown s = .next s)
    ∧ (x.id < 16 → idle → Config.flitCheckOk (BitVec.ofNat 2048 (ofBytes x.bytes)) = true → seq = p.nextSeq →
        ∃ t u, exec .flitReceive s = .next t
          ∧ (let mine := f 4 4 = Config.moduleNumber ∧ f 2 2 < 4096 ∧ 1 ≤ f 0 2 ∧ f 0 2 ≤ 3
             let fresh := mine ∧ ¬ (x.flag = true ∧ known ∈ s.fabric.taken)
             let r := trimmed { p with nextSeq := p.nextSeq + 1, delivered := if fresh then p.delivered ++ [payload] else p.delivered }
               (BitVec.ofNat 32 (f 12 4))
             u = { s with fabric := { s.fabric with taken := if fresh then s.fabric.taken ++ [known] else s.fabric.taken } }
             ∧ PortBecomes u t (refilled r) (moved r)))
    ∧ (x.id < 16 → idle → Config.flitCheckOk (BitVec.ofNat 2048 (ofBytes x.bytes)) = true → seq ≠ p.nextSeq → exec .flitReceive s = .next s)
    ∧ (x.id < 16 → idle → Config.flitCheckOk (BitVec.ofNat 2048 (ofBytes x.bytes)) = false →
        let recent := (p.replays.filter fun y => s.gtime < y + 100000).length + 1
        ∃ t q, exec .flitReceive s = .next t ∧ PortBecomes { s with clusters := t.clusters } t { p with replays := q } []
          ∧ (recent < 256 → q.length = recent ∧ t.clusters = s.clusters) ∧ (256 ≤ recent → q = []
            ∧ Recorded s t (16 * (x.id / 4)) 0x42 0 0 0xFFFFFFFF#32 (BitVec.ofNat 64 x.id)))
    ∧ ((p.down = true ∨ p.retraining = true) → exec .flitReceive s = .next s)
    ∧ (x.id < 16 → p.down = false → p.retraining = false → x.flag2 = true →
        let n := BitVec.ofNat 32 x.n
        let again := p.buffer.dropWhile fun g => g.seq != n
        let recent := (p.replays.filter fun y => s.gtime < y + 100000).length + 1
        (again = [] → exec .flitReceive s = .next s)
        ∧ (again ≠ [] → recent < 256 → ∃ t q, exec .flitReceive s = .next t ∧ PortBecomes s t { p with replays := q } again ∧ q.length = recent))
    ∧ (x.id < 16 → p.down = false → p.retraining = false → x.n < 8 → p.sparedLane = none →
        ∃ t, exec .laneSpare s = .next t ∧ PortBecomes s t (refilled { p with sparedLane := some x.n }) (p.buffer ++ moved p))
    ∧ (8 ≤ x.n → exec .laneSpare s = .next s)
    ∧ (∀ l, p.sparedLane = some l → exec .laneSpare s = .next s)
    ∧ (∀ l, x.id < 16 → p.sparedLane = some l → p.down = false → ∃ t, exec .linkRetrain s = .next t ∧ PortBecomes s t { p with retraining := true } [])
    ∧ (x.id < 16 → p.retraining = true → p.down = false →
        (∃ t, exec .linkRetrainDone s = .next t ∧ PortBecomes s t (refilled { p with retraining := false, lanes := 4 }) (p.buffer ++ moved p))
        ∧ ∃ t u, exec .linkDown s = .next t
          ∧ PortBecomes s u { p with retraining := false, down := true, lanes := 0, buffer := [], waiting := [] } []
          ∧ t = (p.buffer ++ p.waiting).foldl (fun v g => (v.pathTo g.dest).elim v fun k => v.compose k g.dest g.text g.part (some g.first)) u)
    ∧ (p.retraining = false → exec .linkRetrainDone s = .next s ∧ exec .linkDown s = .next s)
    ∧ (∀ peer, ∃ a b, a ≠ b ∧ a < 16 ∧ b < 16 ∧ a ∈ State.routes peer ∧ b ∈ State.routes peer)
    ∧ (∀ peer m, (s.pathTo peer = none → s.send peer m = s) ∧ ∀ k, s.pathTo peer = some k → k < 16 ∧ k ∈ State.routes peer ∧ (s.port k).down = false
        ∧ s.send peer m = (List.range (max 1 ((m.data + 223) / 224))).foldl (fun v part => v.compose k peer m part none) s)
    ∧ (∀ k peer m part first,
        let q := s.port k
        let g := flitOf q peer m part first
        let t := s.compose k peer m part first
        if q.retraining = true ∨ 512 ≤ q.buffer.length ∨ q.waiting ≠ [] then
          PortBecomes s t { q with sendSeq := q.sendSeq + 1, waiting := q.waiting ++ [g] } []
        else PortBecomes s t { q with sendSeq := q.sendSeq + 1, buffer := q.buffer ++ [g] } [g])
    ∧ p.id = x.id

/-- R391, R392, R393: the row of a position of an `agather`'s index list is read where its home is here and asked of its home where not,
and its bytes come from there; an element of an `ascadd` is added at its home, or asked of it; another module's read and add are
answered when the row's home is here and passed on, whole, when not; requests to a lost peer end: a row with 0x7FC1_0BAD in every word
not received, the adds of a row, and what the Monarch had asked, each reported. (Which module no path reaches is the links' rule.)
(The form of the messages between modules is the model's own, log 42; the codes of reports, log 54; that the pre-images of a row stay with the home
that made them, log 99.) -/
def Obligations.PoolRowResults : Prop :=
  ∀ s : State,
    let x := s.subject
    let me := Config.moduleNumber
    (x.n ∉ s.fabric.lost → exec .peerLost s = .next { s with fabric := { s.fabric with lost := x.n :: s.fabric.lost } })
    ∧ (∀ n, s.isLost n = true ↔ (n ∈ s.fabric.lost ∨ s.pathTo n = none))
    ∧ (s.isLost x.n = false → exec .lostRequestCompletion s = .next s)
    ∧ (s.isLost x.n = true → x.flag = true → ∃ t, exec .lostRequestCompletion s = .next t ∧ t = { s with fabric := t.fabric, monarch := t.monarch, regions := t.regions }
        ∧ t.fabric.restores = s.fabric.restores.filter (fun r => r.1 != x.n)
        ∧ (t.fabric.tables = s.fabric.tables.map fun p => { p with moving := p.moving.filter fun m => m.member != x.n })
        ∧ (∀ p ∈ s.fabric.tables, ∀ m ∈ p.moving, m.member = x.n → ⟨0x393, [p.id, m.version, m.row, x.n]⟩ ∈ t.monarch.log)
        ∧ (∀ r ∈ s.fabric.restores, r.1 = x.n → ⟨0x393, [r.2.toNat, x.n]⟩ ∈ t.monarch.log)
        ∧ ((s.regions.map Region.rid).Nodup → ∀ r ∈ s.regions,
            if r.migrating = true ∧ r.copied = true ∧ r.sentTo = x.n then RemainsHere t r x.n 0x393 else t.region? r.rid = some r))
    ∧ (∀ c tb v ix m, x.flag = false → s.isLost x.n = true → s.copy? x.pcn x.id = some c → c.areg.pooled = true → c.version = some (tb, v) → c.indices = some ix →
        c.size % 4 = 0 → m < c.count → s.dropped x.pcn c m = false → LostAlone s c m x.n →
        (s.rowHome tb v (State.indexOf c m).toNat = some x.n ∨ x.n ∈ c.rowAsked m) →
        let got := (c.rows.lookup m).getD []
        (c.op = .gather → got.length < c.size →
          ∃ t y bs, exec .lostRequestCompletion s = .next t ∧ t.copy? x.pcn x.id = some y ∧ y.rows.lookup m = some bs ∧ EndedRow c got bs
            ∧ RowReported s t c tb (State.indexOf c m).toNat x.n)
        ∧ (c.op = .scatterAdd → (∃ o ∈ c.todo, o / (c.size / 4) = m) →
          ∃ t y, exec .lostRequestCompletion s = .next t ∧ t.copy? x.pcn x.id = some y ∧ (∀ o ∈ y.todo, o / (c.size / 4) ≠ m)
            ∧ RowReported s t c tb (State.indexOf c m).toNat x.n))
    ∧ (∀ c tb v ix h, x.flag = false → s.copy? x.pcn x.id = some c → c.version = some (tb, v) → c.indices = some ix → x.n < c.count → c.op = .gather →
        s.dropped x.pcn c x.n = false →
        let row := (State.indexOf c x.n).toNat
        let got := (c.rows.lookup x.n).getD []
        got.length < c.size → s.rowHome tb v row = some h →
        (x.flag2 = false → h = me → ∃ t, exec .poolRowRead s = .next t ∧ t = { s with cores := t.cores }
          ∧ t.copy? x.pcn x.id = some { c with
              rows := (x.n, s.poolRow tb v row) :: c.rows, badWords := c.badWords ++ (s.poolBad tb v row).map fun w => (x.n, w) })
        ∧ (x.flag2 = false → h ≠ me → s.isLost h = true → LostAlone s c x.n h → c.size % 4 = 0 → ∃ t y bs, exec .poolRowRead s = .next t ∧ t.copy? x.pcn x.id = some y
          ∧ y.rows.lookup x.n = some bs ∧ EndedRow c got bs ∧ RowReported s t c tb row h)
        ∧ (x.flag2 = false → h ≠ me → s.isLost h = false → c.asked.lookup x.n ≠ none → exec .poolRowRead s = .next s)
        ∧ (x.flag2 = false → h ≠ me → s.isLost h = false → c.asked.lookup x.n = none → ∃ t, exec .poolRowRead s = .next t
          ∧ t = { s with cores := t.cores, fabric := (s.send h (.rowRead me (x.pcn, x.id, x.n) tb v row)).fabric }
          ∧ t.copy? x.pcn x.id = some { c with asked := (x.n, h) :: c.asked })
        ∧ (∀ p, x.flag2 = true → c.asked.lookup x.n = some p → s.isLost p = false → ∃ t, exec .poolRowRead s = .next t ∧ t = { s with cores := t.cores }
          ∧ t.copy? x.pcn x.id = some { c with
              rows := (x.n, (got ++ x.bytes).take c.size) :: c.rows.filter (fun r => r.1 != x.n)
              badWords := c.badWords ++ x.list.map fun w => (x.n, w) })
        ∧ (x.flag2 = true → (∀ p, c.asked.lookup x.n = some p → s.isLost p = true) → exec .poolRowRead s = .next s))
    ∧ (∀ c tb v ix h, x.flag = false → s.copy? x.pcn x.id = some c → c.version = some (tb, v) → c.indices = some ix → c.op = .scatterAdd → x.n ∈ c.todo →
        let m := x.n / (c.size / 4)
        let row := (State.indexOf c m).toNat
        let src := c.side.2 + 4 * x.n
        let a : LoggedAdd := ⟨x.n % (c.size / 4), BitVec.ofNat 32 (ofBytes ((s.core c.side.1).sram.read src 4)), c.mode, s.sramPoisoned c.side.1 src 4⟩
        s.dropped x.pcn c m = false → s.rowHome tb v row = some h →
        (∀ l, x.flag2 = false → s.launch? c.launch = some l → ∃ t l', exec .poolRowAdd s = .next t ∧ t.launch? c.launch = some l' ∧ h ∈ l'.poolHomes
          ∧ (c.asked.lookup x.n = none → h = me → t.copy? x.pcn x.id = some { c with todo := c.todo.filter (· != x.n) } ∧ t.fabric = (s.poolAdd h (s.stampOf c.launch) tb v row a).fabric)
          ∧ ((h ≠ me ∨ c.asked.lookup x.n ≠ none) → s.isLost h = true → LostAlone s c m h → (∃ y, t.copy? x.pcn x.id = some y ∧ ∀ o ∈ y.todo, o / (c.size / 4) ≠ m) ∧ RowReported s t c tb row h)
          ∧ (s.isLost h = false → c.asked.lookup x.n ≠ none → t.copy? x.pcn x.id = some c ∧ t.fabric = s.fabric)
          ∧ (h ≠ me → s.isLost h = false → c.asked.lookup x.n = none → t.copy? x.pcn x.id = some { c with asked := (x.n, h) :: c.asked }
            ∧ t.fabric = (s.send h (.rowAdd me (x.pcn, x.id, x.n) tb v row a (s.stampOf c.launch))).fabric))
        ∧ (∀ p, x.flag2 = true → c.asked.lookup x.n = some p → s.isLost p = false → ∃ t, exec .poolRowAdd s = .next t ∧ t = { s with
            cores := t.cores, launches := t.launches }
          ∧ t.copy? x.pcn x.id = some { c with todo := c.todo.filter (· != x.n) }
          ∧ ∀ l, s.launch? c.launch = some l → ∃ l', t.launch? c.launch = some l' ∧ ∀ k, k ∈ l'.poolHomes ↔ (k ∈ l.poolHomes ∨ k = x.list.getD 0 0))
        ∧ (x.flag2 = true → (∀ p, c.asked.lookup x.n = some p → s.isLost p = true) → exec .poolRowAdd s = .next s))
    ∧ (x.flag = true →
        let at_ := fun (i : Nat) => x.list.getD i 0
        let tag := (at_ 3, at_ 4, at_ 5)
        let a : LoggedAdd := ⟨at_ 6, BitVec.ofNat 32 (at_ 7), BitVec.ofNat 64 (at_ 8), at_ 10 == 1⟩
        let old := s.poolRow (at_ 0) (at_ 1) (at_ 2)
        ∀ h, s.rowHome (at_ 0) (at_ 1) (at_ 2) = some h →
        (h = me → x.n ≠ me → exec .poolRowRead s = .next (s.send x.n (.row tag old (s.poolBad (at_ 0) (at_ 1) (at_ 2)))))
        ∧ (h = me → x.n = me → exec .poolRowRead s = .next (s.receiveRow (at_ 3) (at_ 4) (at_ 5) old (s.poolBad (at_ 0) (at_ 1) (at_ 2))))
        ∧ (h ≠ me → exec .poolRowRead s = .next (s.send h (.rowRead x.n tag (at_ 0) (at_ 1) (at_ 2)))
          ∧ exec .poolRowAdd s = .next (s.send h (.rowAdd x.n tag (at_ 0) (at_ 1) (at_ 2) a (BitVec.ofNat 6 (at_ 9)))))
        ∧ (h = me → ∃ u p, exec .poolRowAdd s = .next (if x.n = me then u.addAcknowledged (at_ 3) (at_ 4) (at_ 5) h else u.send x.n (.added tag h)) ∧ TableBecomes s u (at_ 0) p
          ∧ (∀ q, tableOf s (at_ 0) = some q → ∀ m ∈ q.moving, m.version = at_ 1 → m.row = at_ 2 → { m with log := m.log ++ [a] } ∈ p.moving)
          ∧ (BitVec.ofNat 6 (at_ 9) ≠ 0 → ∃ j ∈ p.journal, j.member = x.n ∧ j.stamp = BitVec.ofNat 6 (at_ 9) ∧ j.version = at_ 1 ∧ j.row = at_ 2)
          ∧ (∀ q, tableOf s (at_ 0) = some q → BitVec.ofNat 6 (at_ 9) ≠ 0 →
            (∀ j ∈ q.journal, ¬ (j.member = x.n ∧ j.stamp = BitVec.ofNat 6 (at_ 9) ∧ j.version = at_ 1 ∧ j.row = at_ 2)) →
            ⟨x.n, BitVec.ofNat 6 (at_ 9), at_ 1, at_ 2, old, s.poolBad (at_ 0) (at_ 1) (at_ 2)⟩ ∈ p.journal)
          ∧ (4 * at_ 6 + 4 ≤ old.length →
              ofBytes (((u.poolRow (at_ 0) (at_ 1) (at_ 2)).drop (4 * at_ 6)).take 4)
                = (State.addUnder (BitVec.ofNat 64 (at_ 8)) (ofBytes ((old.drop (4 * at_ 6)).take 4)) (at_ 7 % 2 ^ 32)).1 % 2 ^ 32)))

/-- R389, R392, R396: tables are created, granted and published by version; a row's copy goes to its new member and its later adds with
the handover, which the new home applies, and every directory then names that home; a region that migrates takes no more launches here,
its journaled launches end, its gangs are evicted, its memory is sent with its poison, and it is freed once the target has restored it; it
stays when the target refuses it or is lost; it arrives with its memory, its block and its launches under a new migration generation. (That its
translated functions go with it to the same places, and that poison is named by the word, are the model's choices, log 100.) -/
def Sys2Proof.Claims.TableAndMigrationResults : Prop :=
  ∀ s : State,
    let x := s.subject
    let me := Config.moduleNumber
    (FreshCommand s → 1 ≤ x.id → x.id ≤ 65535 → 64 ≤ x.len → x.len ≤ 4096 → tableOf s x.id = none →
      ∃ t, exec .tableCreate s = .next t ∧ TableBecomes (counted s) t x.id
        { id := x.id, rowSize := x.len, current := 0, versions := [], grants := [], data := [], bad := [], moving := [], journal := [] })
    ∧ (∀ p, FreshCommand s → tableOf s x.id = some p →
      (exec .tableCreate s = .next (counted s))
      ∧ (∃ t q, exec .tableGrant s = .next t ∧ TableBecomes (counted s) t x.id { p with grants := q } ∧ q.find? (fun g => g.1 == x.rid) = some (x.rid, x.flag, x.flag2)
        ∧ ∀ k, k ≠ x.rid → q.find? (fun g => g.1 == k) = p.grants.find? fun g => g.1 == k)
      ∧ (∃ t q, exec .tablePublish s = .next t ∧ TableBecomes (counted s) t x.id { p with
          current := p.current + 1, versions := p.versions ++ [⟨p.current + 1, x.len, x.rows⟩], data := q } ∧ ∀ d ∈ p.data, d ∈ q))
    ∧ (∀ p, tableOf s x.id = some p → s.rowHome x.id x.value x.n = some me → x.addr ≠ me →
      ∃ u, exec .rowMove s = .next (u.send x.addr (.rowCopy x.id x.value x.n (s.poolRow x.id x.value x.n) (s.poolBad x.id x.value x.n)))
        ∧ TableBecomes s u x.id { p with moving := p.moving ++ [⟨x.value, x.n, x.addr, []⟩] })
    ∧ (s.rowHome x.id x.value x.n ≠ some me → x.addr ≠ me → exec .rowMove s = .next s)
    ∧ (∀ p, tableOf s x.id = some p → x.addr = me →
      ∃ t q, exec .rowMove s = .next t ∧ TableBecomes s t x.id { p.setRow x.value x.n x.bytes with bad := q }
        ∧ t.poolRow x.id x.value x.n = x.bytes ∧ t.poolBad x.id x.value x.n = x.list)
    ∧ (∀ p m, tableOf s x.id = some p → s.rowHome x.id x.value x.n = some me → x.addr ≠ me →
        p.moving.find? (fun y => y.version == x.value && y.row == x.n && y.member == x.addr) = some m →
      ∃ u, exec .rowHandover s = .next (u.send x.addr (.rowLog x.id x.value x.n m.log)) ∧ u.rowHome x.id x.value x.n = some x.addr
        ∧ TableBecomes s u x.id (rehomed { p with moving := p.moving.filter (· != m) } x.value x.n x.addr))
    ∧ (∀ p, tableOf s x.id = some p → s.rowHome x.id x.value x.n ≠ some me → x.addr ≠ me →
      ∃ t, exec .rowHandover s = .next t ∧ TableBecomes s t x.id (rehomed p x.value x.n x.addr))
    ∧ (x.addr = me → s.rowHome x.id x.value x.n ≠ none → ∃ t, exec .rowHandover s = .next t ∧ t.rowHome x.id x.value x.n = some me
        ∧ t.poolRow x.id x.value x.n = ((State.logOf x.bytes).foldl (fun u a => u.poolAdd 0 0 x.id x.value x.n a) s).poolRow x.id x.value x.n)
    ∧ (∀ r, FreshCommand s → x.arrival = none → s.region? x.rid = some r → r.migrating = false →
      ∃ t, exec .migrateRegion s = .next t ∧ t = { counted s with regions := t.regions } ∧ RegionBecomes s t x.rid { r with stopped := true, migrating := true, copied := false, sentTo := 0 })
    ∧ (¬ Up s → exec .migrateRegion s = .next s)
    ∧ (∀ r, Up s → x.arrival = none → s.region? x.rid = some r → r.migrating = true →
      (s.isLost x.n = true → ∃ t, exec .migrateRegion s = .next t ∧ t = { s with regions := t.regions, monarch := t.monarch } ∧ RemainsHere t r x.n 0x393)
      ∧ (s.isLost x.n = false → x.flag2 = true → r.copied = true →
        ∃ t, exec .migrateRegion s = .next t ∧ t = { s with regions := t.regions, monarch := t.monarch } ∧ RemainsHere t r x.n 0x396))
    ∧ (∀ r, Up s → x.arrival = none → s.region? x.rid = some r → r.migrating = true → s.isLost x.n = false → (x.flag2 = false ∨ r.copied = false) →
      let live := s.gangs.filter fun g => g.rid == x.rid
      let journaled := ∃ l ∈ s.launches, l.rid = x.rid ∧ l.state ≠ .done ∧ l.given ≠ 0
      let seated := ∃ g ∈ live, g.state = .placed ∨ g.state = .halting
      (journaled → exec .migrateRegion s = .next s)
      ∧ (¬ journaled → seated → exec .migrateRegion s = .next { s with gangs := s.gangs.map fun g =>
          if g.rid = x.rid ∧ g.state = .placed ∧ g.asked = false then { g with victim := true } else g })
      ∧ (¬ journaled → ¬ seated → r.copied = false →
        let v := s.serveAppends x.rid
        ∃ u q, v.region? x.rid = some q ∧ u = { v with regions := u.regions } ∧ RegionBecomes v u x.rid { q with copied := true, sentTo := x.n }
        ∧ exec .migrateRegion s = .next (u.send x.n (.region ⟨q, v.launches.filter (fun l => l.rid == x.rid && l.state != .done),
            v.gangs.filter (fun g => g.rid == x.rid), v.regionCells q, v.regionPoison q, v.monarch.functions.filter (fun f => f.rid == x.rid), v.gtime⟩)))
      ∧ (¬ journaled → ¬ seated → r.copied = true → x.flag = false → exec .migrateRegion s = .next s)
      ∧ (¬ journaled → ¬ seated → r.copied = true → x.flag = true → ∃ t, exec .migrateRegion s = .next t
        ∧ t.regions = s.regions.filter (fun q => q.rid != x.rid) ∧ t.launches = s.launches.filter (fun l => l.rid != x.rid)
        ∧ t.gangs = s.gangs.filter (fun g => g.rid != x.rid) ∧ t.monarch.functions = s.monarch.functions.filter (fun f => f.rid != x.rid)
        ∧ (∀ c ∈ t.cores, c.rid = x.rid → c.loaded = false ∨ x.rid = 0) ∧ ⟨0x396, [x.rid]⟩ ∈ t.monarch.log))
    ∧ (∀ a, Up s → x.arrival = some a → (a.region.feat[0].toNat ||| devFeat) = devFeat → a.region.feat[1] = 0 → a.region.feat[2] = 0 → a.region.feat[3] = 0 →
      (∀ r ∈ s.regions, r.rid ≠ a.region.rid) → Plain s →
      ∃ t r, exec .migrateRegion s = .next t ∧ t.region? a.region.rid = some r ∧ r.miggen = a.region.miggen + 1 ∧ r.migrating = false ∧ r.stopped = false ∧ r.copied = false
        ∧ r.lqhead = a.region.lqhead ∧ r.ptroot = a.region.ptroot ∧ (∀ q ∈ s.regions, q ∈ t.regions)
        ∧ t.launches = s.launches ++ a.launches.map (fun l => { l with id := s.monarch.nextLaunch + l.id })
        ∧ t.gangs = s.gangs ++ a.gangs.map (fun g => { g with launch := s.monarch.nextLaunch + g.launch })
        ∧ t.monarch.functions = s.monarch.functions ++ a.functions
        ∧ (s.homes.owners = [] → ∀ p ∈ a.poison, p / 192 ≠ (a.region.addr + 160) / 192 → t.agentPoison p = true)
        ∧ (∀ key pa, t.agentByte key pa = match lastCell (a.cells.flatMap Prod.snd ++ cellsFrom (a.region.addr + 160) (bytesOf 8 (a.region.miggen + 1).toNat)) pa with
            | some b => b | none => s.agentByte key pa))
    ∧ (∀ a, Up s → x.arrival = some a → (∃ r ∈ s.regions, r.rid = a.region.rid) → exec .migrateRegion s = .next (s.report 0x328 [a.region.addr]))

/-! ## Words, steps, reset, invariants -/

/-- R51-R79: every well-formed instruction's word decodes to it, whatever its operands. -/
def Obligations.DecodeOfEncode : Prop := ∀ i : Instr, Sys2Proof.Laws.RoundTrip.Statement i

/-- R50, R52, R55, R56: whatever decodes is well formed and its word, the stop bit apart, is the word it was read from, so that no two
words mean the same and no bit of a word is passed over; the stop bit has no effect on what a word means; a word whose bits [30:0] are
zero and a word of an unassigned major decode to nothing. -/
def Obligations.EncodeOfDecode : Prop :=
  ∀ w : Word,
    (∀ i, decode w = .ok i → wellFormed i = true ∧ encode i = some (w &&& 0x7FFFFFFF#32))
    ∧ decode (withStop w) = decode w
    ∧ (w &&& 0x7FFFFFFF#32 = 0 → decode w = .error .zeroWord)
    ∧ (w.extractLsb' 25 6 ∈ [0x09#6, 0x0A#6, 0x0B#6, 0x1C#6, 0x1D#6, 0x1E#6, 0x1F#6, 0x23#6, 0x24#6, 0x25#6, 0x26#6, 0x27#6, 0x2A#6, 0x2B#6, 0x3B#6] →
        ∀ i, decode w ≠ .ok i)

/-- R50-R79: words written out from the tables of the spec, field by field, decode to what they stand for. -/
def Obligations.DecodeWords : Prop :=
  -- major, d, a, b, f: `ssub s3, s4, s5` and `vadd.u v9, v10, v11`
  decode (0b0_000000_0000011_0000100_0000101_0001#32) = .ok (.ssub 3 4 5)
  -- `saddi s2, s1, -1`; `sli s7, 100`
  ∧ decode (0b0_000010_0000010_0000001_11111111111#32) = .ok (.saddi 2 1 0x7FF)
  ∧ decode (0b1_000110_0000111_000000000001100100#32) = .ok (.sli 7 100)
  -- `bcc.ne s1, s2, +4`; `jmp -2`
  ∧ decode (0b0_001100_000001_000010_001_0000000100#32) = .ok (.bcc 1 2 1 4)
  ∧ decode (0b0_001110_1111111111111111111111110#32) = .ok (.jmp 0x1FFFFFE)
  -- `lda v5, a2[v6, 3]`: major 0x2C, d, array, index, imm7
  ∧ decode (0b0_101100_0000101_0010_0000110_0000011#32) = .ok (.lda 5 2 6 3)
  -- a zero word, with and without the stop bit
  ∧ decode 0#32 = .error .zeroWord ∧ decode 0x80000000#32 = .error .zeroWord

namespace Sys2Proof.Claims

/-- What a step has done before it reads the word at the pc: the sector of the word brought to its slice, and the fetch noted in the core's
caches (R293, R306, R354). -/
def dispatched (s : State) : State := s.noteFetch s.warp.pcn s.warp.pc.toNat

/-- R380: what runs the word `w` in `s`, and then the sample that the core owes, when the warp has retired it and S is 1. -/
def thenSample (s : State) (w : Word) (o : Out) : Out :=
  match o with
  | .next t => .next (s.takeSample t w)
  | .fault f => .fault f
  | .refused r => .refused r

/-- Time passes after a turn. -/
def afterTurn (o : Out) : Out :=
  match o with
  | .next t => .next t.elapse
  | .fault f => .fault f
  | .refused r => .refused r

/-- No instruction waits to be run again after a return from a fault (R198). -/
def NoneReruns (s : State) : Prop := ∀ w ∈ s.warps, w.rerun = true → w.status ≠ .ready

/-- The current warp's turn: it is READY and waits for nothing; its instruction is to be run again (R198), or none is, it is not held (R381) and
the agenda names it, or is empty with no other warp ready to run. -/
def Turn (s u : State) : Prop :=
  s.halted = false ∧ s.warp.status = .ready ∧ s.warp.wait = none
    ∧ ((s.warp.rerun = true ∧ u = s)
      ∨ (NoneReruns s ∧ s.warp.hold ≤ s.clock ∧ ((∃ rest, s.agenda = .warp s.warp.pcn s.warp.cw :: rest ∧ u = { s with agenda := rest })
        ∨ (s.agenda = [] ∧ u = s ∧ ∀ w ∈ s.others, w.status = .ready → w.wait ≠ none ∨ s.clock < w.hold))))

end Sys2Proof.Claims

/-- R43, R80, R134, R136: when the word at the pc of the warp whose turn it is decodes to an instruction, `step` is `exec` of it, after
the caches have taken in the fetch, and then a sample that is due and the passing of time; a repetition runs the repeated word with its
fields stepped, and faults REP_INVALID where it cannot; a word that does not decode faults ILLEGAL and a fetch that fails its own cause;
a warp that waits tries what it waits for; a step without a word is `exec` of it for its subject; a load that executes ahead of its turn (R45) changes no register and no byte of memory. (That an agenda says whose turn it is,
and what happens with an empty one, are the model's choices, logs 7 and 30; how far time goes on is free, log 5.) -/
def Obligations.StepRunsDecoded : Prop :=
  (∀ (s u : State) (w : Word) (pa : Nat), Turn s u → s.warp.rep = none → (dispatched u).fetchWord s.warp.pcn s.warp.pc.toNat = .ok (w, pa) →
    (dispatched u).stopReason w = none →
    (∀ i, decode w = .ok i → step s = afterTurn (thenSample (dispatched u) w (exec i (dispatched u))))
    ∧ (∀ e, decode w = .error e → step s = .next ((dispatched u).fault (siteOfWord w) illegal).elapse)
    ∧ dispatched u = { u with
        cores := (dispatched u).cores, clusters := (dispatched u).clusters, homes := (dispatched u).homes, monarch := (dispatched u).monarch }
    ∧ (Plain u → BytesKept u (dispatched u)))
  ∧ (∀ (s u : State) (x : Trouble), Turn s u → s.warp.rep = none → (dispatched u).fetchWord s.warp.pcn s.warp.pc.toNat = .error x →
    step s = .next ((dispatched u).fault .scalar { x with addr := s.warp.pc.setWidth 64 }).elapse)
  ∧ (∀ (s u : State) (r : Rep) (x : Word), Turn s u → s.warp.rep = some r → repWord s.warp r = some x → s.stopReason r.word = none →
    ∀ i, decode x = .ok i → step s = afterTurn (thenSample u r.word (exec i u)))
  ∧ (∀ (s u : State) (r : Rep), Turn s u → s.warp.rep = some r → repWord s.warp r = none →
    step s = .next (u.fault .scalar ⟨cREP, 0, (s.warp.pc + 4).setWidth 64⟩).elapse)
  ∧ (∀ (s : State) (rest : List Machine.Turn), s.halted = false → NoneReruns s → s.warp.status ≠ .free →
    s.agenda = .warp s.warp.pcn s.warp.cw :: rest → State.tries s.warp = true → step s = .next ({ s with agenda := rest } : State).tryWait.elapse)
  ∧ (∀ (s : State) (i : Instr) (x : Subject) (rest : List Machine.Turn), s.halted = false → NoneReruns s →
    s.agenda = .event i x :: rest → encode i = none → step s = afterTurn (exec i { s with agenda := rest, subject := x }))
  ∧ (∀ (s : State) (scratch : Bool) (addr n : Nat) (rest : List Machine.Turn), s.halted = false → NoneReruns s → s.warp.status ≠ .free →
    s.warp.stores = [] → s.agenda = .ahead s.warp.pcn s.warp.cw scratch addr n :: rest →
    ∃ t : State, step s = .next t.elapse ∧ t.others = s.others ∧ t.warp = { s.warp with ahead := t.warp.ahead, taken := t.warp.taken, distrust := t.warp.distrust }
      ∧ (Plain s → BytesKept s t))
  ∧ (∀ t : State, t.monarch.causal = none → ∃ c g, t.elapse = { t with
      warp := { t.warp with taken := [] }, clock := t.clock + 1 + c, gtime := t.gtime + g })

/-- R377, R49, R379, R229, R28, R29, R34, R38: the module before power holds no warp, region, launch or gang, its memories list nothing
and are in their form, and the Monarch is OFF; a warp starts with active mask all ones, s1 unbounded and the other scalars 0 in [0, 0],
MODE 7 and XS at its start; every freeze mask bit of a recorder is 1 at boot. (What unwritten memory reads as, the registers of the
current slot while it is FREE, and that the Monarch's own data start empty are the model's choices, logs 3, 2 and 4.) -/
def Obligations.ResetFacts : Prop :=
  State.reset.orderly = true ∧ State.reset.warps = [] ∧ State.reset.regions = [] ∧ State.reset.launches = [] ∧ State.reset.gangs = []
  ∧ State.reset.monarch.power = .off ∧ (∀ key pa, State.reset.agentByte key pa = Memory.blank) ∧ (∀ pa, State.reset.agentPoison pa = false)
  ∧ (∀ pcn, (State.reset.core pcn).rid = 0 ∧ (State.reset.core pcn).sram = []) ∧ (∀ cl, (State.reset.cluster cl).mask = 0xFF#8)
  ∧ (let w := Warp.start
     w.active = 0xFFFFFFFF#32 ∧ w.stack = [] ∧ w.flg = 0 ∧ w.mode = 7 ∧ w.xs1 = 0x9E3779B97F4A7C15#64 ∧ w.xrep = 0
      ∧ w.xpc = 0 ∧ w.xmask = 0 ∧ w.xcause = 0 ∧ w.xrec = 0 ∧ w.sshd.get 1 = .unbounded
      ∧ (∀ r : Fin 64, w.sreg.get r = 0 ∧ (r ≠ 1 → w.sshd.get r = .bounded 0 0))
      ∧ (∀ r : Fin 128, (∀ i : Fin 32, (w.vreg.get r).get i = 0) ∧ w.vshd.get r = .bounded 0 0)
      ∧ (∀ p : Fin 8, w.preg.get p = 0) ∧ (∀ f : Fin 4, ∀ i : Fin 32, (w.feeds.get f).get i = 0)
      ∧ ∀ a : Fin 16, (w.areg.get a).extent = 0 ∧ (w.areg.get a).frame = 0 ∧ (w.areg.get a).check = 1)

/-- Every memory of the machine keeps its canonical form through every step, an instruction's or one without a word. (The form is the
model's own: what an unlisted byte reads as is log 3's choice.) -/
def Obligations.StepKeepsMemoryForm : Prop := ∀ s t : State, s.canonical = true → step s = .next t → t.canonical = true

/-! ## Floating arithmetic -/

namespace Sys2Proof.Claims

/-- m × 2^e ≤ n × 2^f. -/
def Dle (m : Nat) (e : Int) (n : Nat) (f : Int) : Prop := m * 2 ^ (e - min e f).toNat ≤ n * 2 ^ (f - min e f).toNat

/-- m × 2^e = n × 2^f. -/
def Deq (m : Nat) (e : Int) (n : Nat) (f : Int) : Prop := m * 2 ^ (e - min e f).toNat = n * 2 ^ (f - min e f).toNat

/-- |a × 2^e − b × 2^f| ≤ t × 2^g. -/
def Near (a e b f : Int) (t : Nat) (g : Int) : Prop :=
  let h := min (min e f) g
  (a * 2 ^ (e - h).toNat - b * 2 ^ (f - h).toNat).natAbs ≤ t * 2 ^ (g - h).toNat

/-- A magnitude, known by what lies at or below it and what it is among the numbers n × 2^f. -/
structure Exact where
  atMost : Nat → Int → Prop
  is : Nat → Int → Prop

/-- m × 2^e. -/
def dyadic (m : Nat) (e : Int) : Exact := ⟨fun n f => Dle n f m e, fun n f => Deq n f m e⟩

/-- m × 2^e / (k × 2^g). -/
def quotient (m : Nat) (e : Int) (k : Nat) (g : Int) : Exact := ⟨fun n f => Dle (n * k) (f + g) m e, fun n f => Deq (n * k) (f + g) m e⟩

/-- The square root of m × 2^e. -/
def root (m : Nat) (e : Int) : Exact := ⟨fun n f => Dle (n * n) (2 * f) m e, fun n f => Deq (n * n) (2 * f) m e⟩

/-- R99, R102: n × 2^q is chosen for a magnitude between two multiples of 2^q, by RM. -/
def Chosen (x : Exact) (rm rand : Nat) (neg : Bool) (q : Int) (n : Nat) : Prop :=
  ∃ k, x.atMost k q ∧ ¬ x.atMost (k + 1) q ∧ (n = k ∨ n = k + 1) ∧ (n = k + 1 ↔ ¬ x.is k q ∧
    ((rm = 0 ∧ x.atMost (2 * k + 1) (q - 1) ∧ (x.is (2 * k + 1) (q - 1) → k % 2 = 1))
      ∨ (rm = 2 ∧ neg = false) ∨ (rm = 3 ∧ neg = true) ∨ (rm = 4 ∧ x.atMost (2 * k + 1) (q - 1))
      ∨ (rm = 5 ∧ ∃ d, x.atMost (2 ^ 24 * k + d) (q - 24) ∧ ¬ x.atMost (2 ^ 24 * k + d + 1) (q - 24) ∧ 2 ^ 24 ≤ d + rand)))

/-- R94: the largest finite value of a format. -/
def largest (F : Fmt) : Nat × Int := if F.inf then (2 ^ (F.fb + 1) - 1, (2 ^ F.eb : Int) - 2 - F.bias - F.fb) else (14, 5)

/-- R94: bits of a format whose value is (−1)^neg × n × 2^f. -/
def Holds (F : Fmt) (neg : Bool) (n : Nat) (f : Int) (bits : Nat) : Prop :=
  bits < 2 ^ F.width ∧ ∃ m e, F.decode bits = .fin neg m e ∧ Deq m e n f

/-- R100, R101: what an overflow delivers. -/
def overflowed (F : Fmt) (neg toInf : Bool) : Nat × BitVec 8 :=
  (if F.inf && toInf then F.infinity neg else F.signBit neg + F.maxBits, fOF ||| fNX)

/-- R98-R102: a non-zero exact result (−1)^neg × x rounded once to a format, with its flags. -/
def Rounded (F : Fmt) (rm rand : Nat) (dz neg : Bool) (x : Exact) (r : Nat × BitVec 8) : Prop :=
  ∃ q n, x.atMost 1 (q + F.fb) ∧ ¬ x.atMost 1 (q + F.fb + 1) ∧ Chosen x rm rand neg q n ∧
    let beyond := ¬ Dle n q (largest F).1 (largest F).2
    let tiny := ¬ Dle 1 F.emin n q
    (beyond → (¬ (rm = 5 ∧ ¬ x.is n q) → r = overflowed F neg (rm == 0 || rm == 4 || rm == 5 || (rm == 2 && !neg) || (rm == 3 && neg)))
      ∧ (rm = 5 → ¬ x.is n q → (¬ x.atMost n q → r = overflowed F neg true) ∧ (x.atMost n q → r = overflowed F neg false)))
    ∧ (¬ beyond → ¬ tiny → Holds F neg n q r.1 ∧ (x.is n q → r.2 = 0) ∧ (¬ x.is n q → r.2 = fNX))
    ∧ (¬ beyond → tiny → dz = true → r = (F.signBit neg, fUF ||| fNX))
    ∧ (¬ beyond → tiny → dz = false → ∃ k, Chosen x rm rand neg (F.emin - F.fb) k ∧ Holds F neg k (F.emin - F.fb) r.1
        ∧ (x.is k (F.emin - F.fb) → r.2 = 0) ∧ (¬ x.is k (F.emin - F.fb) → r.2 = fUF ||| fNX))

/-- A finite result (−1)^neg × m × 2^e rounded; a zero keeps its sign. -/
def RoundedFin (F : Fmt) (rm rand : Nat) (dz neg : Bool) (m : Nat) (e : Int) (r : Nat × BitVec 8) : Prop :=
  (m = 0 → r = (F.signBit neg, 0)) ∧ (m ≠ 0 → Rounded F rm rand dz neg (dyadic m e) r)

/-- R97, R165: a sum of two values as it is delivered. -/
def Summed (F : Fmt) (rm rand : Nat) (dz : Bool) (x y : FVal) (r : Nat × BitVec 8) : Prop :=
  ((x = .nan ∨ y = .nan) → r = (F.nan, 0))
  ∧ (∀ a b, x = .inf a → y = .inf b → r = if a = b then (F.infinity a, 0) else (F.nan, fNV))
  ∧ (∀ a s m e, ((x = .inf a ∧ y = .fin s m e) ∨ (x = .fin s m e ∧ y = .inf a)) → r = (F.infinity a, 0))
  ∧ ∀ s m e t n f, x = .fin s m e → y = .fin t n f →
      let g := min e f
      let z : Int := (if s then -1 else 1) * (m * 2 ^ (e - g).toNat) + (if t then -1 else 1) * (n * 2 ^ (f - g).toNat)
      (z ≠ 0 → Rounded F rm rand dz (decide (z < 0)) (dyadic z.natAbs g) r)
      ∧ (z = 0 → r = (F.signBit (if m = 0 ∧ n = 0 ∧ s = t then s else rm == 3), 0))

/-- The sign of a value turned when `flip`. -/
def turned (flip : Bool) : FVal → FVal
  | .nan => .nan
  | .inf s => .inf (s != flip)
  | .fin s m e => .fin (s != flip) m e

/-- The formats of R94 with the columns of its table: ET, exponent bits, fraction bits, bias, infinities; and those of R95: canonical NaN, +∞,
largest finite. -/
def formats : List (Nat × Fmt × Nat × Nat × Nat × Bool × Nat × Nat × Nat) :=
  [(6, F32, 8, 23, 127, true, 0x7FC00000, 0x7F800000, 0x7F7FFFFF), (7, F16, 5, 10, 15, true, 0x7E00, 0x7C00, 0x7BFF),
   (8, BF16, 8, 7, 127, true, 0x7FC0, 0x7F80, 0x7F7F), (9, F8A, 4, 3, 7, false, 0x7F, 0x7F, 0x7E), (10, F8B, 5, 2, 15, true, 0x7E, 0x7C, 0x7B)]

/-- The five formats. -/
def Formats (F : Fmt) : Prop := F ∈ [F32, F16, BF16, F8A, F8B]

end Sys2Proof.Claims

/-- R94, R95, R98, R170: the five formats, what their bits mean, their special encodings, reads under DZ, and the class codes. -/
def Sys2Proof.Claims.FloatFormats : Prop :=
  (∀ row ∈ formats, let (et, F, eb, fb, bias, inf, nan, infinity, big) := row
    fmtOf et = F ∧ F.eb = eb ∧ F.fb = fb ∧ F.bias = bias ∧ F.emin = 1 - (bias : Int) ∧ F.inf = inf ∧ F.nan = nan ∧ F.infinity false = infinity
      ∧ F.infinity true = (if inf then infinity + 2 ^ (eb + fb) else nan) ∧ F.maxBits = big ∧ Holds F false (largest F).1 (largest F).2 big
      ∧ Holds F true 0 0 (2 ^ (eb + fb)) ∧ ∀ neg, F.signBit neg = if neg then 2 ^ (eb + fb) else 0)
  ∧ ∀ F bits, Formats F → bits < 2 ^ F.width →
    let neg : Bool := bits / 2 ^ (F.eb + F.fb) = 1
    let ex : Nat := bits / 2 ^ F.fb % 2 ^ F.eb
    let fr : Nat := bits % 2 ^ F.fb
    let special : Bool := ex = 2 ^ F.eb - 1 ∧ (F.inf = true ∨ fr = 2 ^ F.fb - 1)
    (special = true → F.decode bits = (if F.inf = true ∧ fr = 0 then .inf neg else .nan))
    ∧ (special = false → F.decode bits = .fin neg (if ex = 0 then fr else 2 ^ F.fb + fr) (if ex = 0 then F.emin - F.fb else (ex : Int) - F.bias - F.fb))
    ∧ (∀ dz, F.read dz bits = if dz = true ∧ special = false ∧ ex = 0 then .fin neg 0 (F.emin - F.fb) else F.decode bits)
    ∧ F.classOf bits = (match F.decode bits with
        | .nan => 8 | .inf s => if s then 0 else 7
        | .fin s m _ => if m = 0 then (if s then 3 else 4) else if ex = 0 then (if s then 2 else 5) else if s then 1 else 6)

/-- R96, R97, R99-R102, R110, R165, R166, R167: floating sums, products, fused sums, quotients, square roots and integral values over all
operands: NaN, infinities, signed zeros, and one rounding of the exact result by RM, with overflow, tiny results and their flags. -/
def Sys2Proof.Claims.FloatArithmetic : Prop :=
  ∀ (F : Fmt) (rm rand : Nat) (dz : Bool), Formats F → rm < 6 → rand < 2 ^ 24 → ∀ a b c : Nat,
    let x := F.read dz a
    let y := F.read dz b
    let z := F.read dz c
    Summed F rm rand dz x y (F.sum rm rand dz [x, y]) ∧ Summed F rm rand dz x (turned true y) (F.sum rm rand dz [x, y.neg])
    ∧ (let r := F.mul rm rand dz x y
       ((x = .nan ∨ y = .nan) → r = (F.nan, 0))
       ∧ (∀ s t m e, ((x = .inf s ∧ y = .fin t m e) ∨ (x = .fin t m e ∧ y = .inf s)) → r = if m = 0 then (F.nan, fNV) else (F.infinity (s != t), 0))
       ∧ (∀ s t, x = .inf s → y = .inf t → r = (F.infinity (s != t), 0))
       ∧ ∀ s m e t n f, x = .fin s m e → y = .fin t n f → RoundedFin F rm rand dz (s != t) (m * n) (e + f) r)
    ∧ (∀ negP negC : Bool,
       let r := F.fma rm rand dz negP negC x y z
       (∀ s t e, ((x = .inf s ∧ y = .fin t 0 e) ∨ (x = .fin t 0 e ∧ y = .inf s)) → r = (F.nan, fNV))
       ∧ (∀ p, x.mul y = some p → Summed F rm rand dz (turned negP p) (turned negC z) r)
       ∧ (∀ s m e t n f, x = .fin s m e → y = .fin t n f → x.mul y = some (.fin (s != t) (m * n) (e + f)))
       ∧ ((x = .nan ∨ y = .nan) → x.mul y = some .nan)
       ∧ ∀ s t, ((x = .inf s ∧ y = .inf t) ∨ (∃ m e, m ≠ 0 ∧ ((x = .inf s ∧ y = .fin t m e) ∨ (x = .fin s m e ∧ y = .inf t)))) →
           x.mul y = some (.inf (s != t)))
    ∧ (let r := F.div rm rand dz x y
       ((x = .nan ∨ y = .nan) → r = (F.nan, 0))
       ∧ (∀ s t, x = .inf s → y = .inf t → r = (F.nan, fNV))
       ∧ (∀ s t m e, x = .inf s → y = .fin t m e → r = (F.infinity (s != t), 0))
       ∧ (∀ s t m e, x = .fin s m e → y = .inf t → r = (F.signBit (s != t), 0))
       ∧ ∀ s m e t n f, x = .fin s m e → y = .fin t n f →
         (n = 0 → r = if m = 0 then (F.nan, fNV) else (F.infinity (s != t), fDZ))
         ∧ (n ≠ 0 → m = 0 → r = (F.signBit (s != t), 0))
         ∧ (n ≠ 0 → m ≠ 0 → Rounded F rm rand dz (s != t) (quotient m e n f) r))
    ∧ (let r := F.sqrt rm rand dz x
       (x = .nan → r = (F.nan, 0)) ∧ (∀ s, x = .inf s → r = if s then (F.nan, fNV) else (F.infinity false, 0))
       ∧ ∀ s m e, x = .fin s m e → (m = 0 → r = (F.signBit s, 0)) ∧ (m ≠ 0 → s = true → r = (F.nan, fNV))
         ∧ (m ≠ 0 → s = false → Rounded F rm rand dz false (root m e) r))
    ∧ (let r := F.rnd rm rand dz x
       (x = .nan → r = (F.nan, 0)) ∧ (∀ s, x = .inf s → r = (F.infinity s, 0))
       ∧ ∀ s m e, x = .fin s m e → ∃ k, Chosen (dyadic m e) rm rand s 0 k ∧ Holds F s k 0 r.1
           ∧ (Deq m e k 0 → r.2 = 0) ∧ (¬ Deq m e k 0 → r.2 = fNX))

/-- R97, R98, R102-R106, R171: the lesser and the greater of two numbers; conversions between formats, to integers and from them; the order of
two numbers; the step of XS and a draw of it. -/
def Sys2Proof.Claims.FloatConversions : Prop :=
  (∀ (F : Fmt) (dz : Bool), Formats F → ∀ a b : Nat, a < 2 ^ F.width → b < 2 ^ F.width →
    let x := F.read dz a
    let y := F.read dz b
    let back := fun (v : FVal) (bits : Nat) => match v with
      | .fin s 0 _ => F.signBit s
      | _ => bits
    let below := fun (u v : FVal) => (u = .inf true ∧ v ≠ .inf true) ∨ (v = .inf false ∧ u ≠ .inf false)
      ∨ ∃ s m e t n f, u = .fin s m e ∧ v = .fin t n f ∧
          ((s = true ∧ t = false) ∨ (s = false ∧ t = false ∧ ¬ Dle n f m e) ∨ (s = true ∧ t = true ∧ ¬ Dle m e n f))
    (x = .nan → y = .nan → ∀ least, F.minMax least dz a b = F.nan)
    ∧ (x = .nan → y ≠ .nan → ∀ least, F.minMax least dz a b = back y b)
    ∧ (x ≠ .nan → y = .nan → ∀ least, F.minMax least dz a b = back x a)
    ∧ (x ≠ .nan → y ≠ .nan → below x y → F.minMax true dz a b = back x a ∧ F.minMax false dz a b = back y b)
    ∧ (x ≠ .nan → y ≠ .nan → below y x → F.minMax true dz a b = back y b ∧ F.minMax false dz a b = back x a)
    ∧ (x ≠ .nan → y ≠ .nan → ¬ below x y → ¬ below y x → ∀ least, F.minMax least dz a b = back x a))
  ∧ (∀ (S D : Fmt) (rm rand : Nat) (dz : Bool) (bits : Nat), Formats S → Formats D → rm < 6 → rand < 2 ^ 24 →
    let r := convertFF S D rm rand dz bits
    (S.read dz bits = .nan → r = (D.nan, 0)) ∧ (∀ s, S.read dz bits = .inf s → r = (D.infinity s, if D.inf then 0 else fNV))
    ∧ ∀ s m e, S.read dz bits = .fin s m e → RoundedFin D rm rand dz s m e r)
  ∧ (∀ (S : Fmt) (t : IntTy) (rm rand : Nat) (dz : Bool) (bits : Nat), Formats S → rm < 6 → rand < 2 ^ 24 → t.lo ≤ 0 → 0 < t.hi →
    let r := convertFI S t rm rand dz bits
    (S.read dz bits = .nan → r = (0, fNV)) ∧ (∀ s, S.read dz bits = .inf s → r = (t.bits (if s then t.lo else t.hi), fNV))
    ∧ ∀ s m e, S.read dz bits = .fin s m e → ∃ k, Chosen (dyadic m e) rm rand s 0 k ∧
        let v : Int := if s then -(k : Int) else k
        (t.hi < v → r = (t.bits t.hi, fNV)) ∧ (v < t.lo → r = (t.bits t.lo, fNV))
        ∧ (t.lo ≤ v → v ≤ t.hi → r.1 = t.bits v ∧ (Deq m e k 0 → r.2 = 0) ∧ (¬ Deq m e k 0 → r.2 = fNX)))
  ∧ (∀ (D : Fmt) (rm rand : Nat) (dz : Bool) (v : Int), Formats D → rm < 6 → rand < 2 ^ 24 →
    RoundedFin D rm rand dz (decide (v < 0)) v.natAbs 0 (convertIF D rm rand dz v))
  ∧ (∀ s m e t n f, let c := (FVal.fin s m e).cmp (.fin t n f)
    let g := min e f
    let z : Int := (if s then -1 else 1) * (m * 2 ^ (e - g).toNat) - (if t then -1 else 1) * (n * 2 ^ (f - g).toNat)
    (c = 0 ↔ z = 0) ∧ (c < 0 ↔ z < 0) ∧ (0 < c ↔ 0 < z))
  ∧ (∀ a b : DWord, let t := a ^^^ (a <<< 23)
    let t := t ^^^ (t >>> 17) ^^^ b ^^^ (b >>> 26)
    xsStep a b = (b, t, t + b))
  ∧ ∀ (o : DWord) (i : Nat), randAt o i < 2 ^ 24 ∧
    let z := o + BitVec.ofNat 64 (i + 1) * 0x9E3779B97F4A7C15#64
    let z := (z ^^^ (z >>> 30)) * 0xBF58476D1CE4E5B9#64
    let z := (z ^^^ (z >>> 27)) * 0x94D049BB133111EB#64
    randAt o i = (z ^^^ (z >>> 31)).toNat / 2 ^ 40

namespace Sys2Proof.Claims

/-- R168: what an approximate function delivers from the value within the bound: subnormal with UF and NX, flushed under DZ, else with NX. -/
def Delivers (F : Fmt) (dz neg : Bool) (m b : Nat) (r : Nat × BitVec 8) : Prop :=
  (m < 2 ^ F.fb → r = (if dz then F.signBit neg else b, fUF ||| fNX)) ∧ (2 ^ F.fb ≤ m → r = (b, fNX))

end Sys2Proof.Claims

/-- R110, R168: the approximate functions over all operands: their special inputs, the results that are exact, and, of the others, a value
within 2 ulp with its flags: of 1 / a and of 1 / √a, and, of the other four, of every number that the model's enclosure of the function leaves
possible. (Which value comes out is free, and UF follows it: log 8. That an enclosure holds the function's own value is not stated here.) -/
def Sys2Proof.Claims.FloatApproximations : Prop :=
  ∀ (F : Fmt) (dz : Bool) (bits et : Nat), Formats F → bits < 2 ^ F.width →
    let x := F.read dz bits
    let r := F.approximate et dz
    let one := Holds F false 1 0
    let exact := fun (neg : Bool) (k : Int) (q : Nat × BitVec 8) => Rounded F 0 0 dz neg (dyadic 1 k) q
    (x = .nan → ∀ fn, r fn bits = (F.nan, 0))
    ∧ (∀ s, x = .inf s → r .rcp bits = (F.signBit s, 0) ∧ r .rsq bits = (if s then (F.nan, fNV) else (0, 0))
        ∧ r .exp2 bits = (if s then 0 else F.infinity false, 0) ∧ r .log2 bits = (if s then (F.nan, fNV) else (F.infinity false, 0))
        ∧ r .sin bits = (F.nan, fNV) ∧ r .cos bits = (F.nan, fNV))
    ∧ (∀ s e, x = .fin s 0 e → r .rcp bits = (F.infinity s, fDZ) ∧ r .rsq bits = (F.infinity s, fDZ) ∧ r .log2 bits = (F.infinity true, fDZ)
        ∧ r .sin bits = (F.signBit s, 0) ∧ one (r .exp2 bits).1 ∧ (r .exp2 bits).2 = 0 ∧ one (r .cos bits).1 ∧ (r .cos bits).2 = 0)
    ∧ (∀ s m e, x = .fin s m e → m ≠ 0 →
      let top : Int := Nat.log2 m + e
      (∀ k, Deq m e 1 k → exact s (-k) (r .rcp bits) ∧ (s = false → k % 2 = 0 → exact false (-(k / 2)) (r .rsq bits))
        ∧ (s = false → k = 0 → r .log2 bits = (0, 0))
        ∧ (s = false → k ≠ 0 → (r .log2 bits).2 = 0 ∧ ∃ q, Rounded F 0 0 dz (decide (k < 0)) (dyadic k.natAbs 0) q ∧ (q.2 = 0 → r .log2 bits = q)))
      ∧ (∀ k : Int, Deq m e k.natAbs 0 → (if s then k < 0 else 0 < k) → k.natAbs < 4096 → F.emin - F.fb ≤ k → exact false k (r .exp2 bits))
      ∧ (∀ k : Int, Deq m e k.natAbs 0 → s = true → k < 0 → k < F.emin - F.fb → r .exp2 bits = F.deliver dz (Config.approx 5 et bits) (encExp2 s m e))
      ∧ (s = true → r .rsq bits = (F.nan, fNV) ∧ r .log2 bits = (F.nan, fNV))
      ∧ ((∀ k, ¬ Deq m e 1 k) →
        (¬ Dle 1 0 (m * (largest F).1) (e + (largest F).2) → r .rcp bits = overflowed F s true)
        ∧ (Dle 1 0 (m * (largest F).1) (e + (largest F).2) → ∃ t v f b, b < 2 ^ F.width ∧ F.decode b = .fin t v f
            ∧ Near ((if s = t then 1 else -1) * (v * m)) (f + e) 1 0 (2 * m) (max (-top - 1) F.emin - F.fb + e) ∧ Delivers F dz s v b (r .rcp bits)))
      ∧ (s = false → (∀ k, k % 2 = 0 → ¬ Deq m e 1 k) → ∃ j : Int, ∃ v f b, Dle m (e + 2 * j) 1 0 ∧ ¬ Dle m (e + 2 * j + 2) 1 0
          ∧ b < 2 ^ F.width ∧ F.decode b = .fin false v f ∧ Delivers F dz false v b (r .rsq bits)
          ∧ let u := max j F.emin - F.fb
            let h := min f u
            let p := v * 2 ^ (f - h).toNat
            let w := 2 * 2 ^ (u - h).toNat
            (p ≤ w ∨ Dle ((p - w) * (p - w) * m) (2 * h + e) 1 0) ∧ Dle 1 0 ((p + w) * (p + w) * m) (2 * h + e))
      ∧ ((∀ k : Int, ¬ (Deq m e k.natAbs 0 ∧ k.natAbs < 4096)) → r .exp2 bits = F.deliver dz (Config.approx 5 et bits) (encExp2 s m e))
      ∧ (s = false → (∀ k, ¬ Deq m e 1 k) → r .log2 bits = F.deliver dz (Config.approx 6 et bits) (encLog2 m e))
      ∧ r .sin bits = F.deliver dz (Config.approx 7 et bits) (encSin s m e) ∧ r .cos bits = F.deliver dz (Config.approx 8 et bits) (encCos m e))
    ∧ ∀ (cand : Nat) (X : Enclosed), 2 ^ 64 ≤ X.y.natAbs →
      let neg : Bool := X.y < 0
      let q := F.deliver dz cand X
      (¬ Dle X.y.natAbs X.e (largest F).1 (largest F).2 → q = overflowed F neg true)
      ∧ (Dle X.y.natAbs X.e (largest F).1 (largest F).2 → ∃ t v f b, b < 2 ^ F.width ∧ F.decode b = .fin t v f ∧ Delivers F dz neg v b q
        ∧ ∀ z g, Near z g X.y X.e 1 (X.e + 20) →
          Near ((if t then -1 else 1) * v) f z g 2 (max (Nat.log2 z.natAbs + g) F.emin - F.fb))

/-! ## Checksums of the matrix grid -/

namespace Sys2Proof.Claims

/-- A number m × 2^e in units of 2^L. -/
def inUnits (L : Int) (x : Dyadic) : Int := x.m * 2 ^ (x.e - L).toNat

/-- The units are small enough for a number. -/
def Fits (L : Int) (x : Dyadic) : Prop := x.m = 0 ∨ L ≤ x.e

/-- A number is the exact sum of a list, whatever units small enough for all of them they are counted in. -/
def SumIs (d : Dyadic) (l : List Dyadic) : Prop :=
  ∀ L, Fits L d → (∀ x ∈ l, Fits L x) → inUnits L d = (l.map (inUnits L)).sum

/-- The value of a cell or of a feed's element, 0 for one that is no number. -/
def num : FVal → Dyadic
  | .fin s m e => ⟨if s then -(m : Int) else m, e⟩
  | _ => ⟨0, 0⟩

/-- A number negated. -/
def minus (x : Dyadic) : Dyadic := ⟨-x.m, x.e⟩

/-- Neither a NaN nor an infinity. -/
def IsFinite (v : FVal) : Prop := v ≠ .nan ∧ v ≠ .inf false ∧ v ≠ .inf true

/-- What a cell of a tile holds. -/
def held (acc : Bool) (x : BitVec 128) : FVal := if acc then .fin (decide (x.toInt < 0)) x.toInt.natAbs 0 else F32.decode (x.setWidth 32).toNat

/-- The checksum of a column, and of a row. -/
def colSum (c : TileSum) (j : Nat) : Dyadic := c.cols.getD j ⟨0, 0⟩
def rowSum (c : TileSum) (i : Nat) : Dyadic := c.rows.getD i ⟨0, 0⟩

/-- Checksums of 32 columns and 32 rows. -/
def Sums32 (c : TileSum) : Prop := c.cols.length = 32 ∧ c.rows.length = 32

/-- R225: checksums established from the cells `x i j` of a tile. -/
def Established (acc : Bool) (k : Nat) (x : Nat → Nat → BitVec 128) (c : TileSum) : Prop :=
  c.tile = k ∧ Sums32 c ∧ c.n = 0 ∧ c.ql = false
    ∧ (∀ j, j ∈ c.exemptCols ↔ j < 32 ∧ ∃ i < 32, ¬ IsFinite (held acc (x i j)))
    ∧ (∀ i, i ∈ c.exemptRows ↔ i < 32 ∧ ∃ j < 32, ¬ IsFinite (held acc (x i j)))
    ∧ (∀ j < 32, j ∉ c.exemptCols → SumIs (colSum c j) ((List.range 32).map fun i => num (held acc (x i j))))
    ∧ ∀ i < 32, i ∉ c.exemptRows → SumIs (rowSum c i) ((List.range 32).map fun j => num (held acc (x i j)))

/-- The checksums of a tile in `t` are those established from its cells there, and those of the other tiles stay. -/
def NowEstablished (s t : State) (acc : Bool) (k : Nat) : Prop :=
  Established acc k (cellOf t acc k) (t.sumsOf k) ∧ ∀ j, j ≠ k → t.warp.sums.find? (fun c => c.tile == j) = s.warp.sums.find? fun c => c.tile == j

/-- The product of two elements of feeds in units of 2^u, negated for `mopn`. -/
def productOf (negative : Bool) (u : Int) (a b : FVal) : Dyadic :=
  let x := num a
  let y := num b
  ⟨(if negative then -1 else 1) * (x.m * y.m), x.e + y.e - u⟩

/-- R226: |Σ − S| > (n + 32) × 2^(e − 23) for an F32 line of cells, e the greatest exponent of a cell and at least −126; Σ ≠ S for a Q128 one. -/
def LineFails (acc : Bool) (n : Nat) (line : List FVal) (sum : Dyadic) : Prop :=
  (∀ v ∈ line, IsFinite v) ∧
    ((acc = true ∧ ¬ SumIs sum (line.map num))
    ∨ (acc = false ∧ ∃ e L : Int, -126 ≤ e ∧ (∀ s m x, .fin s m x ∈ line → m ≠ 0 → Nat.log2 m + x ≤ e)
        ∧ (e = -126 ∨ ∃ s m x, .fin s m x ∈ line ∧ m ≠ 0 ∧ Nat.log2 m + x = e)
        ∧ L ≤ e - 23 ∧ Fits L sum ∧ (∀ v ∈ line, Fits L (num v))
        ∧ ((n : Int) + 32) * 2 ^ (e - 23 - L).toNat < ((line.map fun v => inUnits L (num v)).sum - inUnits L sum).natAbs))

end Sys2Proof.Claims

/-- R220, R222, R225, R228: `mxon`, `tzero`, `tld`, a `tldv` that loads, and a compare that passes or corrects establish the checksums of a
tile from its cells; `mop` and `mopn` carry them from the feeds alone, in units of 2^QW for the Q128 tile, and `tsst` by the exact change of
each cell; what has taken a NaN or an infinity is exempt. -/
def Sys2Proof.Claims.ChecksumResults : Prop :=
  ∀ (s : State) (m : BitVec 4) (k : BitVec 2),
    (s.warp.pin = 0 → (s.acc = false → ∀ j < 4, m.getLsbD j = true → 32 * j + 31 < s.warp.varch) → (s.acc = true → m = 1 ∧ s.warp.varch = 128) →
      (formatK s.fa).isSome = true → formatK s.fa = formatK s.fb → s.effMask = 0xFFFFFFFF#32 →
      ∃ t, exec (.mxon m) s = .next t ∧ ∀ j < 4, m.getLsbD j = true → Established s.acc j (cellOf t s.acc j) (t.sumsOf j))
    ∧ (ready s k →
      let c := s.sumsOf k.toNat
      (∃ t, exec (.tzero k) s = .next t ∧ NowEstablished s t s.acc k.toNat)
      ∧ ((agrees s k.toNat ∨ ∃ i j x, compare s.acc (tileCells s.warp s.acc k.toNat) c = .corrects i j x) →
        ∃ t, exec (.mchk k) s = .next t ∧ NowEstablished s t s.acc k.toNat)
      ∧ (∀ (a : BitVec 4) (x im : BitVec 7) (y : BitVec 6), (s.readA a).esize.toNat < 5 →
        let n := if s.acc then 16384 else 4096
        (∀ l, s.transfer .read a x im.toInt n 64 = .pieces l →
          ((s.reachWhole a x im.toInt n).fillPieces (s.readA a) l).firstPoison (s.readA a) l = none →
          ∃ t, exec (.tld k a x im) s = .next t ∧ NowEstablished s t s.acc k.toNat)
        ∧ (s.transfer .read a x im.toInt n 64 = .suppressed → ∃ t, exec (.tld k a x im) s = .next t ∧ NowEstablished s t s.acc k.toNat)
        ∧ (∀ l, s.transfer .read a x 0 (n + 64) 64 = .pieces l →
          let ar := s.readA a
          let u := ((s.reachWhole a x 0 (n + 64)).readAnew (State.versionPart l)).fillPieces ar (State.versionPart l)
          u.firstPoison ar (State.versionPart l) = none → ((u.pieceBytes ar (State.versionPart l)).headD 0).getLsbD 0 = false →
          (u.acquire.fillPieces ar (State.imagePart l)).firstPoison ar (State.imagePart l) = none →
          ∃ t, exec (.tldv k a x y) s = .next t ∧ NowEstablished s t s.acc k.toNat))
      ∧ (∀ (a b : BitVec 1) (negative : Bool), Sums32 c → (formatK s.fa).isSome = true → formatK s.fa = formatK s.fb → (s.acc = false → s.rm < 6) →
        s.myCore.dupn = 0 →
        let f := s.feeds a b
        let u : Int := if s.acc then s.qw else 0
        let lossy := fun (i j : Nat) => (cellQ s.qw (cell128 s i j).toInt ((List.range f.k).map fun q =>
          ((feedAt f.a q i).mul (feedAt f.b q j)).map fun x => if negative then x.neg else x)).2 &&& fQL ≠ 0
        ∃ t, exec (if negative then .mopn k a b else .mop k a b) s = .next t ∧
          let d := t.sumsOf k.toNat
          Sums32 d ∧ d.n = c.n + 1 ∧ (s.acc = true → (d.ql = true ↔ c.ql = true ∨ ∃ i < 32, ∃ j < 32, lossy i j))
          ∧ (∀ j, j ∈ d.exemptCols ↔ j < 32 ∧ (j ∈ c.exemptCols ∨ (∃ q < f.k, ∃ i < 32, ¬ IsFinite (feedAt f.a q i)) ∨ ∃ q < f.k, ¬ IsFinite (feedAt f.b q j)))
          ∧ (∀ i, i ∈ d.exemptRows ↔ i < 32 ∧ (i ∈ c.exemptRows ∨ (∃ q < f.k, ∃ j < 32, ¬ IsFinite (feedAt f.b q j)) ∨ ∃ q < f.k, ¬ IsFinite (feedAt f.a q i)))
          ∧ (∀ j < 32, j ∉ d.exemptCols → SumIs (colSum d j) (colSum c j :: (List.range f.k).flatMap fun q =>
              (List.range 32).map fun i => productOf negative u (feedAt f.a q i) (feedAt f.b q j)))
          ∧ (∀ i < 32, i ∉ d.exemptRows → SumIs (rowSum d i) (rowSum c i :: (List.range f.k).flatMap fun q =>
              (List.range 32).map fun j => productOf negative u (feedAt f.a q i) (feedAt f.b q j)))
          ∧ ∀ j, j ≠ k.toNat → t.warp.sums.find? (fun c => c.tile == j) = s.warp.sums.find? fun c => c.tile == j)
      ∧ (∀ (v : BitVec 7) (r : BitVec 1) (x : BitVec 6) (n : BitVec 5), Sums32 c → s.beyondVarch [v] = false → s.acc = false →
        let row := ((s.readS (x.setWidth 7)).toNat + n.toNat) % 32
        ∃ t, exec (.tsst v k r x n) s = .next t ∧
          let d := t.sumsOf k.toNat
          let old := fun (i j : Nat) => held false (cellOf s false k.toNat i j)
          let new := fun (i j : Nat) => held false (cellOf t false k.toNat i j)
          let taken := fun (i j : Nat) => (if r = 0 then i = row else j = row) ∧ ¬ (IsFinite (old i j) ∧ IsFinite (new i j))
          Sums32 d ∧ d.n = c.n ∧ d.ql = c.ql
          ∧ (∀ j, j ∈ d.exemptCols ↔ j < 32 ∧ (j ∈ c.exemptCols ∨ ∃ i < 32, taken i j))
          ∧ (∀ i, i ∈ d.exemptRows ↔ i < 32 ∧ (i ∈ c.exemptRows ∨ ∃ j < 32, taken i j))
          ∧ (∀ j < 32, j ∉ d.exemptCols → SumIs (colSum d j) (colSum c j :: (List.range 32).flatMap fun i => [num (new i j), minus (num (old i j))]))
          ∧ (∀ i < 32, i ∉ d.exemptRows → SumIs (rowSum d i) (rowSum c i :: (List.range 32).flatMap fun j => [num (new i j), minus (num (old i j))]))
          ∧ ∀ j, j ≠ k.toNat → t.warp.sums.find? (fun c => c.tile == j) = s.warp.sums.find? fun c => c.tile == j))

/-- R226, R227: a compare examines every row and column that is not exempt and holds no NaN or infinity; with none failing the tile passes,
with exactly one of each their cell is corrected from the column's checksum, rounded by RNE or exact in 128 bits, and any other combination
fails; a Q128 tile on which QL has been raised passes. -/
def Sys2Proof.Claims.CompareResults : Prop :=
  ∀ (acc : Bool) (g : Grid) (c : TileSum), Sums32 c →
    let x := fun (i j : Nat) => held acc (cell g i j)
    let columnFails := fun (j : Nat) => j < 32 ∧ j ∉ c.exemptCols ∧ LineFails acc c.n ((List.range 32).map fun i => x i j) (colSum c j)
    let rowFails := fun (i : Nat) => i < 32 ∧ i ∉ c.exemptRows ∧ LineFails acc c.n ((List.range 32).map fun j => x i j) (rowSum c i)
    (acc = true → c.ql = true → compare acc g c = .passes)
    ∧ ((acc = false ∨ c.ql = false) →
      ((∀ j, ¬ columnFails j) → (∀ i, ¬ rowFails i) → compare acc g c = .passes)
      ∧ (∀ i j, rowFails i → columnFails j → (∀ r, rowFails r → r = i) → (∀ q, columnFails q → q = j) →
        let terms := colSum c j :: ((List.range 32).filter (· ≠ i)).map fun r => minus (num (x r j))
        (acc = true → ∀ v : Int, SumIs ⟨v, 0⟩ terms → -(2 ^ 127) ≤ v → v < 2 ^ 127 → compare acc g c = .corrects i j (BitVec.ofInt 128 v))
        ∧ (acc = true → (∀ v : Int, SumIs ⟨v, 0⟩ terms → v < -(2 ^ 127) ∨ 2 ^ 127 ≤ v) → compare acc g c = .fails)
        ∧ (acc = false → ∃ y f, compare acc g c = .corrects i j (BitVec.ofNat 128 y) ∧ ∃ d, SumIs d terms
          ∧ RoundedFin F32 0 0 false (decide (d.m < 0)) d.m.natAbs d.e (y, f)))
      ∧ (∀ i, rowFails i → (∀ j, ¬ columnFails j) → compare acc g c = .fails)
      ∧ (∀ j, columnFails j → (∀ i, ¬ rowFails i) → compare acc g c = .fails)
      ∧ (∀ i r, rowFails i → rowFails r → i ≠ r → compare acc g c = .fails)
      ∧ (∀ j q, columnFails j → columnFails q → j ≠ q → compare acc g c = .fails))

/-! ## Statements of several parts -/

/-- R119, R120, R121, R93: scalar arithmetic, logic, shifts, comparisons, immediates and division. -/
def Obligations.ScalarArithmetic : Prop := Claims.ScalarResults ∧ Claims.DivisionResults

/-- R122, R123, R124: `iwiden`, `iclamp` and `ishq` on scalars and on vectors. -/
def Obligations.IntervalInstructions : Prop := Claims.WidenResults ∧ Claims.ClampAndQueryResults

/-- R125, R126, R127, R129: where a branch, a jump and a call go, what they refine and save, and when one faults. -/
def Obligations.BranchesAndJumps : Prop := Claims.BranchResults ∧ Claims.JumpResults ∧ Claims.JumpFaults

/-- R154-R160, R162, R175: the integer, bitwise and untyped vector instructions. -/
def Obligations.VectorIntegers : Prop := Claims.VectorIntegerResults ∧ Claims.VectorLaneResults

/-- R94-R102, R110, R165-R168, R170: floating formats, and the floating vector instructions over all operands. (What R168 leaves open of an
approximate function is a free value, log 8.) -/
def Obligations.VectorFloats : Prop := Claims.VectorFloatResults ∧ Claims.FloatFormats ∧ Claims.FloatArithmetic ∧ Claims.FloatApproximations

/-- R97, R102-R106, R163, R171, R177: `vcvt` and `vscan`, conversions, orders and draws over all operands. -/
def Obligations.ConversionsAndScans : Prop := Claims.ConvertAndScanResults ∧ Claims.FloatConversions

/-- R161, R164, R171, R173, R174, R176: vector instructions that write a predicate or a scalar. (What becomes of a lone lane's NaN is
the model's choice, log 10.) -/
def Obligations.PredicatesAndReductions : Prop := Claims.PredicateResults ∧ Claims.VectorToScalarResults

/-- R139, R140, R142, R143, R145-R147: MODE, FLG, XS, the progress counters, `tfence` and `nop`. -/
def Obligations.ModeAndCounters : Prop := Claims.ModeResults ∧ Claims.FlagAndCounterResults

/-- R38, R144: every system register read and written, and the numbers that fault. -/
def Obligations.SystemRegisters : Prop := Claims.SystemRegisterResults ∧ Claims.SystemRegisterFaults

/-- R81, R134, R135, R136: what `rep` starts, the words its repetitions run, and which words may be repeated. -/
def Obligations.Repeats : Prop := Claims.RepResults ∧ Claims.RepetitionWords ∧ Claims.RepeatableWords

/-- R193: the records a fault leaves. -/
def Obligations.FaultRecords : Prop := Claims.OneFaultRecord ∧ Claims.LaneFaultRecords

/-- R197, R196, R380: `trap` and `bkpt`. (How a stop tells the debugger, and that a sample is taken as the word retires, are the model's
choices, logs 14, 35 and 55.) -/
def Obligations.SoftwareTrapsAndBreakpoints : Prop := Claims.SoftwareTraps ∧ Claims.DebuggerBreakpoint

/-- R198, R199, R200: the three returns from a trap, and when one faults. (What a return leaves of the lane trap and the faulted vector is the
model's choice, log 58.) -/
def Obligations.TrapReturns : Prop := Claims.TrapReturn ∧ Claims.TrapReturnFaults

/-- R186, R191: what becomes of an access outside its array, and that discharge changes no outcome. -/
def Obligations.BoundsChecks : Prop := Claims.DischargeChangesNoOutcome ∧ Claims.BoundsOutcomes

/-- R184, R192: `lda`, `ldb` and `slda`. -/
def Obligations.ArrayLoads : Prop := Claims.VectorLoadResults ∧ Claims.ScalarLoadResults

/-- R188, R185, R194, R17, R285, R287: `lds`, `slds`, `sts`, `ssts`, and when one faults. (The address in a record is that of log 15.) -/
def Obligations.Scratchpad : Prop := Claims.ScratchLoadResults ∧ Claims.OwnStoresPerformFirst ∧ Claims.ScratchStoreResults ∧ Claims.ScratchFaults

/-- R189, R190, R24: spills and fills, and that a filled shadow is right about its register. (The conventions of CRC-32C
are the common ones, log 12.) -/
def Obligations.SpillsAndFills : Prop := Claims.SpillAndFillResults ∧ Claims.FillsAreSound ∧ Claims.SpillAndFillFaults

/-- R180, R181, R183: `abind`, `abinds` and `aqry`, and when a binding faults. (The address in a faulting binding's record is the
model's choice, log 15.) -/
def Obligations.Bindings : Prop := Claims.BindingResults ∧ Claims.BindingFaults

/-- R295, R298, R2: a write changes its bytes and no other, and is read back. -/
def Obligations.WritesAndReads : Prop := Claims.WritesLand ∧ Claims.MemoryReadsAfterWrites

/-- R298-R302: atomics on global memory, and appends. -/
def Obligations.GlobalAtomics : Prop := Claims.GlobalAtomicResults ∧ Claims.AppendResults

/-- R245-R247, R304, R305, R307: fences, code maintenance, and waits for words. (The address in a record is that of log 15; that `waitg`
drops SHARED words, log 71.) -/
def Obligations.FencesAndWordWaits : Prop := Claims.FenceResults ∧ Claims.WordWaitResults

/-- R236, R239, R240, R242-R244, R248-R252: what a copy checks, arrivals, batches, streams and queues. (That an ARRIVAL adds the oldest
arrival a copy owes is the model's choice, log 66.) -/
def Obligations.BatchesAndQueues : Prop := Claims.CopyChecks ∧ Claims.ArrivalResults ∧ Claims.BatchResults ∧ Claims.QueueResults

/-- R253, R254, R288, R289: the barriers of a block and of a gang. -/
def Obligations.Barriers : Prop := Claims.BarrierResults ∧ Claims.BarrierFaults

/-- R211, R212, R214, R218, R223, R225-R228: tiles pinned, unpinned, cleared and checked, their checksums and how a compare uses them, and what
faults. -/
def Obligations.MatrixModes : Prop := Claims.MatrixModeResults ∧ Claims.MatrixFaults ∧ Claims.ChecksumResults ∧ Claims.CompareResults

/-- R217, R223, R224: feeds, and slices of tiles. -/
def Obligations.MatrixFeedsAndSlices : Prop := Claims.FeedResults ∧ Claims.SliceResults

/-- R219-R222, R229: tiles to and from memory, and the matrix grid's own steps. (That `tst.a` is checked as a store alone is the model's
choice, log 67.) -/
def Obligations.TileTransfersAndSteps : Prop := Claims.TransferChecks ∧ Claims.TileTransferResults ∧ Claims.MatrixStepResults

/-- R133, R258-R263: `spawn`, `spawn.w` and `exit`. (What a FREE slot holds, the address in the record of a header, the
ordinal of all ones in the record of a placing, and that a window reads 0 once its block has retired, are the model's choices, logs 2, 15, 16
and 80.) -/
def Obligations.SpawnAndExit : Prop := Claims.SpawnResults ∧ Claims.ExitResults

/-- R44, R230, R295, R296, R308, R310, R350, R358, R360, R362, R364, R369: memory's own steps, errors, and channels. (That a line has four
sectors, the ordinal, WHO and DETAIL of an ECC error's record and the recorder that takes it, what the owner of a poisoned word keeps, what is
unmapped and the codes of reports are the model's choices, logs 1, 16, 96, 93, 69 and 54.) -/
def Obligations.MemorySteps : Prop := Claims.MemoryEventResults ∧ Claims.ErrorEventResults ∧ Claims.ChannelResults

/-- R269, R270, R272, R280, R395: a fault delivered beyond its warp, the coalescer, and the host's going. -/
def Obligations.DeliveriesBeyondAWarp : Prop := Claims.DeliveryBeyondWarp ∧ Claims.CoalescerAndHost

/-- R39, R180, R189, R190, R265-R268: the layout of the images of warps, blocks and gangs, and that a warp's is read back. (A retired block has no
part in a gang's image: log 92.) -/
def Obligations.WarpImages : Prop := Claims.WarpImagesHoldTheWarp ∧ Claims.ImageLayouts

/-- R273-R278, R280, R281, R344, R346: warp halts, gang halts, and what their dumps hold. (That only a placed gang is halted, the order of
dumps, the time they name, which block comes first without a fault, the address of a scratchpad read, and the codes of reports are the
model's, logs 36, 89, 90, 34, 15 and 54.) -/
def Obligations.HaltsAndDumps : Prop := Claims.HaltResults ∧ Claims.DumpContents

/-- R331, R332, R335, R336, R345, R346, R370, R383: launches taken, leased, completed, journaled, restored and run again. (The order of REASON 5,
the CAUSE of a relaunch, the fourth sector of a line in an entry, which writes are flushed first, the codes of reports and the form of the
messages between modules are the model's, logs 95, 33, 1, 76, 54 and 42.) -/
def Obligations.Launches : Prop := Claims.LaunchTakeResults ∧ Claims.LaunchEndResults ∧ Claims.JournalResults

/-- R328, R330, R333, R338, R340, R341: control blocks, doorbells, quanta, aging and yielding. (Where a new region is linked in the tree,
that a reread lifts an earlier stop, that a block is read in plaintext, how page credits are rounded and the codes of reports are the model's
choices, logs 21, 84, 82 and 54.) -/
def Obligations.RegionSteps : Prop := Claims.RegionEventResults ∧ Claims.PlacementTimeResults

/-- R49, R232, R258, R264, R265, R268, R284, R336, R337, R342: gangs placed, evicted and restored. (A page credit rounded down, the tie
between dies, and where a record area without a translation lies, are the model's choices, logs 84, 91.) -/
def Obligations.GangsPlacedEvictedRestored : Prop := Claims.GangPlacement ∧ Claims.EvictionAndRestore

/-- R367, R372, R373, R375-R377: boot, power, the standby, attestation, keys, the clock and the host's windows. (The layout of a report,
what a window's edge and a register of BAR0 do, what survives power loss, and that the Monarch's own data start empty are the model's
choices, logs 22, 37, 44 and 4; how the clock follows samples between the limits, log 85.) -/
def Obligations.MonarchDuties : Prop := Claims.PowerResults ∧ Claims.MonarchServices

/-- R378-R380: Luna and the debugger. (The codes of the reasons to stop, how a command names a register, the ordinal of all ones
and WHO 0 of a SYNC and a watchdog's record, and that a handler reaches the trap registers alone, are the model's choices, logs 14, 23, 16 and 78.) -/
def Obligations.TraceAndDebugger : Prop := Claims.TraceAndDebugResults ∧ Claims.DebuggerRegisters

/-- R387-R389, R392, R396: links, pool tables, and regions that migrate. (Which recorder takes a port's event, the form of the messages
between modules, what a migration names, the ordinal and WHO of its record, how flits are counted and numbered, what
goes with a region and the codes of reports are the model's choices, logs 24, 42, 43, 16, 79, 98, 100 and 54.) -/
def Obligations.LinksAndTables : Prop := Claims.LinkResults ∧ Claims.TableAndMigrationResults
end

