-- ==== Sys2Proof/Laws/Memory.lean ====
section
/-!
SUPPORT. Memories as data: a read after a write, and that every operation keeps the canonical form.
-/

namespace Sys2Proof.Machine

/-! ## Sorted lists of cells -/

theorem sortedFrom_mono {lo lo' : Nat} {m : List Host.Cell} (h : lo ≤ lo') (hm : sortedFrom lo' m = true) :
    sortedFrom lo m = true := by
  cases m with
  | nil => rfl
  | cons c rest =>
    simp only [sortedFrom, Bool.and_eq_true, decide_eq_true_eq] at *
    exact ⟨by omega, hm.2⟩

theorem cellAt_none_of_below {lo a : Nat} {m : List Host.Cell} (hm : sortedFrom lo m = true) (h : a < lo) : cellAt m a = none := by
  cases m with
  | nil => rfl
  | cons c rest =>
    simp only [sortedFrom, Bool.and_eq_true, decide_eq_true_eq] at hm
    rw [cellAt, if_neg (by omega), if_pos (by omega)]

theorem sortedFrom_placeCell {lo a : Nat} {b : Byte} {m : List Host.Cell} (hm : sortedFrom lo m = true) (h : lo ≤ a) :
    sortedFrom lo (placeCell m a b) = true := by
  induction m generalizing lo with
  | nil => simp [placeCell, sortedFrom, h]
  | cons c rest ih =>
    obtain ⟨k, x⟩ := c
    simp only [sortedFrom, Bool.and_eq_true, decide_eq_true_eq] at hm
    simp only [placeCell]
    split
    · simp only [sortedFrom, Bool.and_eq_true, decide_eq_true_eq]
      exact ⟨h, by omega, hm.2⟩
    · split
      · subst k
        simpa [sortedFrom] using ⟨h, hm.2⟩
      · simp only [sortedFrom, Bool.and_eq_true, decide_eq_true_eq]
        exact ⟨hm.1, ih hm.2 (by omega)⟩

theorem sortedFrom_dropCell {lo a : Nat} {m : List Host.Cell} (hm : sortedFrom lo m = true) :
    sortedFrom lo (dropCell m a) = true := by
  induction m generalizing lo with
  | nil => rfl
  | cons c rest ih =>
    obtain ⟨k, x⟩ := c
    have hm' := hm
    simp only [sortedFrom, Bool.and_eq_true, decide_eq_true_eq] at hm
    simp only [dropCell]
    split
    · exact hm'
    · split
      · exact sortedFrom_mono (by omega) hm.2
      · simp only [sortedFrom, Bool.and_eq_true, decide_eq_true_eq]
        exact ⟨hm.1, ih hm.2⟩

theorem sortedFrom_placeCells {m cs : List Host.Cell} (hm : sortedFrom 0 m = true) : sortedFrom 0 (placeCells m cs) = true := by
  induction cs generalizing m with
  | nil => exact hm
  | cons c rest ih => exact ih (sortedFrom_placeCell hm (Nat.zero_le _))

theorem sortedFrom_filter {lo : Nat} {m : List Host.Cell} (p : Host.Cell → Bool) (hm : sortedFrom lo m = true) :
    sortedFrom lo (m.filter p) = true := by
  induction m generalizing lo with
  | nil => rfl
  | cons c rest ih =>
    obtain ⟨k, x⟩ := c
    simp only [sortedFrom, Bool.and_eq_true, decide_eq_true_eq] at hm
    rw [List.filter_cons]
    split
    · simp only [sortedFrom, Bool.and_eq_true, decide_eq_true_eq]
      exact ⟨hm.1, ih hm.2⟩
    · exact sortedFrom_mono (by omega) (ih hm.2)

theorem sortedFrom_foldl_dropCell {m cs : List Host.Cell} (hm : sortedFrom 0 m = true) :
    sortedFrom 0 (cs.foldl (fun m c => dropCell m c.1) m) = true := by
  induction cs generalizing m with
  | nil => exact hm
  | cons c rest ih => exact ih (sortedFrom_dropCell hm)

/-- The byte at an address after one is placed. -/
theorem cellAt_placeCell {a x : Nat} {b : Byte} {m : List Host.Cell} {lo : Nat} (hm : sortedFrom lo m = true) :
    cellAt (placeCell m a b) x = if x = a then some b else cellAt m x := by
  induction m generalizing lo with
  | nil => simp only [placeCell, cellAt]; split <;> split <;> first | rfl | omega | (split <;> first | rfl | omega)
  | cons c rest ih =>
    obtain ⟨k, y⟩ := c
    simp only [sortedFrom, Bool.and_eq_true, decide_eq_true_eq] at hm
    simp only [placeCell]
    split
    · simp only [cellAt]
      split
      · subst x; simp
      · rename_i h1 h2
        have hx : ¬ x = a := fun e => h2 e.symm
        simp only [hx, if_false]
        split
        · have : ¬ k = x := by omega
          simp only [this, if_false]
          have : x < k := by omega
          simp [this]
        · rfl
    · split
      · subst k
        simp only [cellAt]
        split
        · subst x; simp
        · rename_i h2
          have hx : ¬ x = a := fun e => h2 e.symm
          simp [hx]
      · simp only [cellAt]
        split
        · subst k
          have hx : ¬ x = a := by omega
          simp [hx]
        · split
          · have hx : ¬ x = a := by omega
            simp [hx]
          · exact ih hm.2

/-- The byte at an address after one is removed. -/
theorem cellAt_dropCell {a x : Nat} {m : List Host.Cell} {lo : Nat} (hm : sortedFrom lo m = true) :
    cellAt (dropCell m a) x = if x = a then none else cellAt m x := by
  induction m generalizing lo with
  | nil => simp [dropCell, cellAt]
  | cons c rest ih =>
    obtain ⟨k, y⟩ := c
    simp only [sortedFrom, Bool.and_eq_true, decide_eq_true_eq] at hm
    simp only [dropCell]
    split
    · simp only [cellAt]
      split
      · subst k
        have hx : ¬ x = a := by omega
        simp [hx]
      · split
        · split <;> rfl
        · split
          · subst x; omega
          · rfl
    · split
      · subst k
        split
        · subst x
          exact cellAt_none_of_below hm.2 (by omega)
        · rename_i h2
          have hx : ¬ a = x := fun e => h2 e.symm
          simp only [cellAt, hx, if_false]
          split
          · exact cellAt_none_of_below hm.2 (by omega)
          · rfl
      · simp only [cellAt]
        split
        · subst k
          have hx : ¬ x = a := by omega
          simp [hx]
        · split
          · split <;> rfl
          · exact ih hm.2

/-! ## Memories -/

namespace Memory

theorem sorted_of_wfFrom {lo : Nat} {m : Memory} (h : wfFrom lo m = true) : sortedFrom lo m = true := by
  induction m generalizing lo with
  | nil => rfl
  | cons c rest ih =>
    simp only [wfFrom, Bool.and_eq_true, decide_eq_true_eq] at h
    simp only [sortedFrom, Bool.and_eq_true, decide_eq_true_eq]
    exact ⟨h.1.1, ih h.2⟩

theorem wfFrom_mono {lo lo' : Nat} {m : Memory} (h : lo ≤ lo') (hm : wfFrom lo' m = true) : wfFrom lo m = true := by
  cases m with
  | nil => rfl
  | cons c rest =>
    simp only [wfFrom, Bool.and_eq_true, decide_eq_true_eq] at *
    exact ⟨⟨by omega, hm.1.2⟩, hm.2⟩

theorem wfFrom_placeCell {lo a : Nat} {b : Byte} {m : Memory} (hm : wfFrom lo m = true) (h : lo ≤ a) (hb : b ≠ blank) :
    wfFrom lo (placeCell m a b) = true := by
  induction m generalizing lo with
  | nil => simp [placeCell, wfFrom, h, hb]
  | cons c rest ih =>
    obtain ⟨k, x⟩ := c
    simp only [wfFrom, Bool.and_eq_true, decide_eq_true_eq, bne_iff_ne, ne_eq] at hm
    simp only [placeCell]
    split
    · simp only [wfFrom, Bool.and_eq_true, decide_eq_true_eq, bne_iff_ne, ne_eq]
      exact ⟨⟨h, hb⟩, ⟨by omega, hm.1.2⟩, hm.2⟩
    · split
      · subst k
        simp only [wfFrom, Bool.and_eq_true, decide_eq_true_eq, bne_iff_ne, ne_eq]
        exact ⟨⟨h, hb⟩, hm.2⟩
      · simp only [wfFrom, Bool.and_eq_true, decide_eq_true_eq, bne_iff_ne, ne_eq]
        exact ⟨hm.1, ih hm.2 (by omega)⟩

theorem wfFrom_dropCell {lo a : Nat} {m : Memory} (hm : wfFrom lo m = true) : wfFrom lo (dropCell m a) = true := by
  induction m generalizing lo with
  | nil => rfl
  | cons c rest ih =>
    obtain ⟨k, x⟩ := c
    have hm' := hm
    simp only [wfFrom, Bool.and_eq_true, decide_eq_true_eq, bne_iff_ne, ne_eq] at hm
    simp only [dropCell]
    split
    · exact hm'
    · split
      · exact wfFrom_mono (by omega) hm.2
      · simp only [wfFrom, Bool.and_eq_true, decide_eq_true_eq, bne_iff_ne, ne_eq]
        exact ⟨hm.1, ih hm.2⟩

theorem wf_put {m : Memory} (a : Nat) (b : Byte) (hm : m.wf = true) : (m.put a b).wf = true := by
  unfold put
  split
  · exact wfFrom_dropCell hm
  · exact wfFrom_placeCell hm (Nat.zero_le _) ‹_›

theorem wf_putCells {m : Memory} (cs : List Host.Cell) (hm : m.wf = true) : (m.putCells cs).wf = true := by
  induction cs generalizing m with
  | nil => exact hm
  | cons c rest ih => exact ih (wf_put _ _ hm)

theorem wf_write {m : Memory} (a : Nat) (bs : List Byte) (hm : m.wf = true) : (m.write a bs).wf = true := wf_putCells _ hm

theorem wf_filter {m : Memory} (p : Host.Cell → Bool) (hm : m.wf = true) : wf (m.filter p) = true := by
  suffices h : ∀ lo, wfFrom lo m = true → wfFrom lo (m.filter p) = true from h 0 hm
  clear hm
  induction m with
  | nil => intro _ _; rfl
  | cons c rest ih =>
    intro lo hm
    simp only [wfFrom, Bool.and_eq_true, decide_eq_true_eq] at hm
    rw [List.filter_cons]
    split
    · simp only [wfFrom, Bool.and_eq_true, decide_eq_true_eq]
      exact ⟨hm.1, ih _ hm.2⟩
    · exact wfFrom_mono (by omega) (ih _ hm.2)

/-- A read after a write to the same place gives the byte written, and a write leaves every other place alone. -/
theorem get_put {m : Memory} (a x : Nat) (b : Byte) (hm : m.wf = true) :
    (m.put a b).get x = if x = a then b else m.get x := by
  have hs := sorted_of_wfFrom hm
  unfold put get
  split
  · rw [cellAt_dropCell hs]
    split <;> simp_all
  · rw [cellAt_placeCell hs]
    split <;> simp_all

/-- Bytes written from an address on, read back. -/
theorem get_write {m : Memory} (a x : Nat) (bs : List Byte) (hm : m.wf = true) :
    (m.write a bs).get x = if a ≤ x ∧ x < a + bs.length then bs.getD (x - a) 0 else m.get x := by
  unfold write
  induction bs generalizing a m with
  | nil => simp [cellsFrom, putCells] <;> omega
  | cons b rest ih =>
    rw [cellsFrom, putCells, ih (a + 1) (wf_put a b hm), get_put _ _ _ hm]
    simp only [List.length_cons]
    by_cases h1 : x = a
    · subst x; simp <;> omega
    · by_cases h2 : a + 1 ≤ x ∧ x < a + 1 + rest.length
      · rw [if_pos h2, if_pos (by omega)]
        have : x - a = (x - (a + 1)) + 1 := by omega
        rw [this, List.getD_cons_succ]
      · rw [if_neg h2, if_neg h1, if_neg (by omega)]

/-- Equal memories are equal data: two canonical memories that read alike everywhere are one list. -/
theorem eq_of_get {m n : Memory} (hm : m.wf = true) (hn : n.wf = true) (h : ∀ a, m.get a = n.get a) : m = n := by
  suffices ∀ lo (m n : Memory), wfFrom lo m = true → wfFrom lo n = true → (∀ a, m.get a = n.get a) → m = n from
    this 0 m n hm hn h
  clear hm hn h
  intro lo m
  induction m generalizing lo with
  | nil =>
    intro n _ hn h
    cases n with
    | nil => rfl
    | cons c rest =>
      simp only [wfFrom, Bool.and_eq_true, decide_eq_true_eq, bne_iff_ne, ne_eq] at hn
      have := h c.1
      simp [get, cellAt] at this
      exact absurd this.symm hn.1.2
  | cons c rest ih =>
    intro n hm hn h
    have hm' := hm
    simp only [wfFrom, Bool.and_eq_true, decide_eq_true_eq, bne_iff_ne, ne_eq] at hm
    cases n with
    | nil =>
      have := h c.1
      simp [get, cellAt] at this
      exact absurd this hm.1.2
    | cons d rest' =>
      have hn' := hn
      simp only [wfFrom, Bool.and_eq_true, decide_eq_true_eq, bne_iff_ne, ne_eq] at hn
      have e : c.1 = d.1 := by
        rcases Nat.lt_trichotomy c.1 d.1 with hl | he | hl
        · have := h c.1
          rw [show Memory.get (d :: rest') c.1 = blank by
            simp only [get, cellAt]; rw [if_neg (by omega), if_pos hl]; rfl] at this
          simp [get, cellAt] at this
          exact absurd this hm.1.2
        · exact he
        · have := h d.1
          rw [show Memory.get (c :: rest) d.1 = blank by
            simp only [get, cellAt]; rw [if_neg (by omega), if_pos hl]; rfl] at this
          simp [get, cellAt] at this
          exact absurd this.symm hn.1.2
      have e2 : c.2 = d.2 := by
        have := h c.1
        simp only [get, cellAt, e] at this
        simpa using this
      have ec : c = d := Prod.ext e e2
      subst ec
      congr 1
      refine ih (c.1 + 1) rest' hm.2 hn.2 fun a => ?_
      by_cases ha : a < c.1 + 1
      · simp only [get, cellAt_none_of_below (sorted_of_wfFrom hm.2) ha, cellAt_none_of_below (sorted_of_wfFrom hn.2) ha]
      · have := h a
        simp only [get, cellAt] at this
        rw [if_neg (by omega), if_neg (by omega), if_neg (by omega), if_neg (by omega)] at this
        exact this

end Memory

end Sys2Proof.Machine
end

