-- ==== Sys2Proof/Laws/State.lean ====
section
/-!
SUPPORT. What each plain update of the state leaves alone, field by field: one lemma per field per update (`R.f` is field `f`
after update `R`), and the read of each register after the write of it.
-/

namespace Sys2Proof.Machine

variable (s : State)

/-! ## `modWarp` -/

@[simp] theorem State.modWarp_others (f : Warp → Warp) : (s.modWarp f).others = s.others := rfl
@[simp] theorem State.modWarp_cores (f : Warp → Warp) : (s.modWarp f).cores = s.cores := rfl
@[simp] theorem State.modWarp_clusters (f : Warp → Warp) : (s.modWarp f).clusters = s.clusters := rfl
@[simp] theorem State.modWarp_homes (f : Warp → Warp) : (s.modWarp f).homes = s.homes := rfl
@[simp] theorem State.modWarp_regions (f : Warp → Warp) : (s.modWarp f).regions = s.regions := rfl
@[simp] theorem State.modWarp_launches (f : Warp → Warp) : (s.modWarp f).launches = s.launches := rfl
@[simp] theorem State.modWarp_gangs (f : Warp → Warp) : (s.modWarp f).gangs = s.gangs := rfl
@[simp] theorem State.modWarp_monarch (f : Warp → Warp) : (s.modWarp f).monarch = s.monarch := rfl
@[simp] theorem State.modWarp_fabric (f : Warp → Warp) : (s.modWarp f).fabric = s.fabric := rfl
@[simp] theorem State.modWarp_agenda (f : Warp → Warp) : (s.modWarp f).agenda = s.agenda := rfl
@[simp] theorem State.modWarp_subject (f : Warp → Warp) : (s.modWarp f).subject = s.subject := rfl
@[simp] theorem State.modWarp_clock (f : Warp → Warp) : (s.modWarp f).clock = s.clock := rfl
@[simp] theorem State.modWarp_gtime (f : Warp → Warp) : (s.modWarp f).gtime = s.gtime := rfl
@[simp] theorem State.modWarp_warp (f : Warp → Warp) : (s.modWarp f).warp = f s.warp := rfl

/-! ## `putV` -/

@[simp] theorem State.putV_others (r : BitVec 7) (x : Lanes) (sh : Shadow) : (s.putV r x sh).others = s.others := rfl
@[simp] theorem State.putV_cores (r : BitVec 7) (x : Lanes) (sh : Shadow) : (s.putV r x sh).cores = s.cores := rfl
@[simp] theorem State.putV_clusters (r : BitVec 7) (x : Lanes) (sh : Shadow) : (s.putV r x sh).clusters = s.clusters := rfl
@[simp] theorem State.putV_homes (r : BitVec 7) (x : Lanes) (sh : Shadow) : (s.putV r x sh).homes = s.homes := rfl
@[simp] theorem State.putV_regions (r : BitVec 7) (x : Lanes) (sh : Shadow) : (s.putV r x sh).regions = s.regions := rfl
@[simp] theorem State.putV_launches (r : BitVec 7) (x : Lanes) (sh : Shadow) : (s.putV r x sh).launches = s.launches := rfl
@[simp] theorem State.putV_gangs (r : BitVec 7) (x : Lanes) (sh : Shadow) : (s.putV r x sh).gangs = s.gangs := rfl
@[simp] theorem State.putV_monarch (r : BitVec 7) (x : Lanes) (sh : Shadow) : (s.putV r x sh).monarch = s.monarch := rfl
@[simp] theorem State.putV_fabric (r : BitVec 7) (x : Lanes) (sh : Shadow) : (s.putV r x sh).fabric = s.fabric := rfl
@[simp] theorem State.putV_agenda (r : BitVec 7) (x : Lanes) (sh : Shadow) : (s.putV r x sh).agenda = s.agenda := rfl
@[simp] theorem State.putV_subject (r : BitVec 7) (x : Lanes) (sh : Shadow) : (s.putV r x sh).subject = s.subject := rfl
@[simp] theorem State.putV_clock (r : BitVec 7) (x : Lanes) (sh : Shadow) : (s.putV r x sh).clock = s.clock := rfl
@[simp] theorem State.putV_gtime (r : BitVec 7) (x : Lanes) (sh : Shadow) : (s.putV r x sh).gtime = s.gtime := rfl

/-! ## `writeA` -/

@[simp] theorem State.writeA_others (r : BitVec 4) (x : ArrayReg) : (s.writeA r x).others = s.others := rfl
@[simp] theorem State.writeA_cores (r : BitVec 4) (x : ArrayReg) : (s.writeA r x).cores = s.cores := rfl
@[simp] theorem State.writeA_clusters (r : BitVec 4) (x : ArrayReg) : (s.writeA r x).clusters = s.clusters := rfl
@[simp] theorem State.writeA_homes (r : BitVec 4) (x : ArrayReg) : (s.writeA r x).homes = s.homes := rfl
@[simp] theorem State.writeA_regions (r : BitVec 4) (x : ArrayReg) : (s.writeA r x).regions = s.regions := rfl
@[simp] theorem State.writeA_launches (r : BitVec 4) (x : ArrayReg) : (s.writeA r x).launches = s.launches := rfl
@[simp] theorem State.writeA_gangs (r : BitVec 4) (x : ArrayReg) : (s.writeA r x).gangs = s.gangs := rfl
@[simp] theorem State.writeA_monarch (r : BitVec 4) (x : ArrayReg) : (s.writeA r x).monarch = s.monarch := rfl
@[simp] theorem State.writeA_fabric (r : BitVec 4) (x : ArrayReg) : (s.writeA r x).fabric = s.fabric := rfl
@[simp] theorem State.writeA_agenda (r : BitVec 4) (x : ArrayReg) : (s.writeA r x).agenda = s.agenda := rfl
@[simp] theorem State.writeA_subject (r : BitVec 4) (x : ArrayReg) : (s.writeA r x).subject = s.subject := rfl
@[simp] theorem State.writeA_clock (r : BitVec 4) (x : ArrayReg) : (s.writeA r x).clock = s.clock := rfl
@[simp] theorem State.writeA_gtime (r : BitVec 4) (x : ArrayReg) : (s.writeA r x).gtime = s.gtime := rfl

/-! ## `writeF` -/

@[simp] theorem State.writeF_others (f : BitVec 2) (x : Lanes) : (s.writeF f x).others = s.others := rfl
@[simp] theorem State.writeF_cores (f : BitVec 2) (x : Lanes) : (s.writeF f x).cores = s.cores := rfl
@[simp] theorem State.writeF_clusters (f : BitVec 2) (x : Lanes) : (s.writeF f x).clusters = s.clusters := rfl
@[simp] theorem State.writeF_homes (f : BitVec 2) (x : Lanes) : (s.writeF f x).homes = s.homes := rfl
@[simp] theorem State.writeF_regions (f : BitVec 2) (x : Lanes) : (s.writeF f x).regions = s.regions := rfl
@[simp] theorem State.writeF_launches (f : BitVec 2) (x : Lanes) : (s.writeF f x).launches = s.launches := rfl
@[simp] theorem State.writeF_gangs (f : BitVec 2) (x : Lanes) : (s.writeF f x).gangs = s.gangs := rfl
@[simp] theorem State.writeF_monarch (f : BitVec 2) (x : Lanes) : (s.writeF f x).monarch = s.monarch := rfl
@[simp] theorem State.writeF_fabric (f : BitVec 2) (x : Lanes) : (s.writeF f x).fabric = s.fabric := rfl
@[simp] theorem State.writeF_agenda (f : BitVec 2) (x : Lanes) : (s.writeF f x).agenda = s.agenda := rfl
@[simp] theorem State.writeF_subject (f : BitVec 2) (x : Lanes) : (s.writeF f x).subject = s.subject := rfl
@[simp] theorem State.writeF_clock (f : BitVec 2) (x : Lanes) : (s.writeF f x).clock = s.clock := rfl
@[simp] theorem State.writeF_gtime (f : BitVec 2) (x : Lanes) : (s.writeF f x).gtime = s.gtime := rfl

/-! ## `setPc` -/

@[simp] theorem State.setPc_others (pc : BitVec 48) : (s.setPc pc).others = s.others := rfl
@[simp] theorem State.setPc_cores (pc : BitVec 48) : (s.setPc pc).cores = s.cores := rfl
@[simp] theorem State.setPc_clusters (pc : BitVec 48) : (s.setPc pc).clusters = s.clusters := rfl
@[simp] theorem State.setPc_homes (pc : BitVec 48) : (s.setPc pc).homes = s.homes := rfl
@[simp] theorem State.setPc_regions (pc : BitVec 48) : (s.setPc pc).regions = s.regions := rfl
@[simp] theorem State.setPc_launches (pc : BitVec 48) : (s.setPc pc).launches = s.launches := rfl
@[simp] theorem State.setPc_gangs (pc : BitVec 48) : (s.setPc pc).gangs = s.gangs := rfl
@[simp] theorem State.setPc_monarch (pc : BitVec 48) : (s.setPc pc).monarch = s.monarch := rfl
@[simp] theorem State.setPc_fabric (pc : BitVec 48) : (s.setPc pc).fabric = s.fabric := rfl
@[simp] theorem State.setPc_agenda (pc : BitVec 48) : (s.setPc pc).agenda = s.agenda := rfl
@[simp] theorem State.setPc_subject (pc : BitVec 48) : (s.setPc pc).subject = s.subject := rfl
@[simp] theorem State.setPc_clock (pc : BitVec 48) : (s.setPc pc).clock = s.clock := rfl
@[simp] theorem State.setPc_gtime (pc : BitVec 48) : (s.setPc pc).gtime = s.gtime := rfl

/-! ## `setActive` -/

@[simp] theorem State.setActive_others (m : Word) : (s.setActive m).others = s.others := rfl
@[simp] theorem State.setActive_cores (m : Word) : (s.setActive m).cores = s.cores := rfl
@[simp] theorem State.setActive_clusters (m : Word) : (s.setActive m).clusters = s.clusters := rfl
@[simp] theorem State.setActive_homes (m : Word) : (s.setActive m).homes = s.homes := rfl
@[simp] theorem State.setActive_regions (m : Word) : (s.setActive m).regions = s.regions := rfl
@[simp] theorem State.setActive_launches (m : Word) : (s.setActive m).launches = s.launches := rfl
@[simp] theorem State.setActive_gangs (m : Word) : (s.setActive m).gangs = s.gangs := rfl
@[simp] theorem State.setActive_monarch (m : Word) : (s.setActive m).monarch = s.monarch := rfl
@[simp] theorem State.setActive_fabric (m : Word) : (s.setActive m).fabric = s.fabric := rfl
@[simp] theorem State.setActive_agenda (m : Word) : (s.setActive m).agenda = s.agenda := rfl
@[simp] theorem State.setActive_subject (m : Word) : (s.setActive m).subject = s.subject := rfl
@[simp] theorem State.setActive_clock (m : Word) : (s.setActive m).clock = s.clock := rfl
@[simp] theorem State.setActive_gtime (m : Word) : (s.setActive m).gtime = s.gtime := rfl

/-! ## `setMode` -/

@[simp] theorem State.setMode_others (x : DWord) : (s.setMode x).others = s.others := rfl
@[simp] theorem State.setMode_cores (x : DWord) : (s.setMode x).cores = s.cores := rfl
@[simp] theorem State.setMode_clusters (x : DWord) : (s.setMode x).clusters = s.clusters := rfl
@[simp] theorem State.setMode_homes (x : DWord) : (s.setMode x).homes = s.homes := rfl
@[simp] theorem State.setMode_regions (x : DWord) : (s.setMode x).regions = s.regions := rfl
@[simp] theorem State.setMode_launches (x : DWord) : (s.setMode x).launches = s.launches := rfl
@[simp] theorem State.setMode_gangs (x : DWord) : (s.setMode x).gangs = s.gangs := rfl
@[simp] theorem State.setMode_monarch (x : DWord) : (s.setMode x).monarch = s.monarch := rfl
@[simp] theorem State.setMode_fabric (x : DWord) : (s.setMode x).fabric = s.fabric := rfl
@[simp] theorem State.setMode_agenda (x : DWord) : (s.setMode x).agenda = s.agenda := rfl
@[simp] theorem State.setMode_subject (x : DWord) : (s.setMode x).subject = s.subject := rfl
@[simp] theorem State.setMode_clock (x : DWord) : (s.setMode x).clock = s.clock := rfl
@[simp] theorem State.setMode_gtime (x : DWord) : (s.setMode x).gtime = s.gtime := rfl

/-! ## `orFlags` -/

@[simp] theorem State.orFlags_others (f : BitVec 8) : (s.orFlags f).others = s.others := rfl
@[simp] theorem State.orFlags_cores (f : BitVec 8) : (s.orFlags f).cores = s.cores := rfl
@[simp] theorem State.orFlags_clusters (f : BitVec 8) : (s.orFlags f).clusters = s.clusters := rfl
@[simp] theorem State.orFlags_homes (f : BitVec 8) : (s.orFlags f).homes = s.homes := rfl
@[simp] theorem State.orFlags_regions (f : BitVec 8) : (s.orFlags f).regions = s.regions := rfl
@[simp] theorem State.orFlags_launches (f : BitVec 8) : (s.orFlags f).launches = s.launches := rfl
@[simp] theorem State.orFlags_gangs (f : BitVec 8) : (s.orFlags f).gangs = s.gangs := rfl
@[simp] theorem State.orFlags_monarch (f : BitVec 8) : (s.orFlags f).monarch = s.monarch := rfl
@[simp] theorem State.orFlags_fabric (f : BitVec 8) : (s.orFlags f).fabric = s.fabric := rfl
@[simp] theorem State.orFlags_agenda (f : BitVec 8) : (s.orFlags f).agenda = s.agenda := rfl
@[simp] theorem State.orFlags_subject (f : BitVec 8) : (s.orFlags f).subject = s.subject := rfl
@[simp] theorem State.orFlags_clock (f : BitVec 8) : (s.orFlags f).clock = s.clock := rfl
@[simp] theorem State.orFlags_gtime (f : BitVec 8) : (s.orFlags f).gtime = s.gtime := rfl

/-! ## `setCore` -/

@[simp] theorem State.setCore_warp (c : Core) : (s.setCore c).warp = s.warp := rfl
@[simp] theorem State.setCore_others (c : Core) : (s.setCore c).others = s.others := rfl
@[simp] theorem State.setCore_clusters (c : Core) : (s.setCore c).clusters = s.clusters := rfl
@[simp] theorem State.setCore_homes (c : Core) : (s.setCore c).homes = s.homes := rfl
@[simp] theorem State.setCore_regions (c : Core) : (s.setCore c).regions = s.regions := rfl
@[simp] theorem State.setCore_launches (c : Core) : (s.setCore c).launches = s.launches := rfl
@[simp] theorem State.setCore_gangs (c : Core) : (s.setCore c).gangs = s.gangs := rfl
@[simp] theorem State.setCore_monarch (c : Core) : (s.setCore c).monarch = s.monarch := rfl
@[simp] theorem State.setCore_fabric (c : Core) : (s.setCore c).fabric = s.fabric := rfl
@[simp] theorem State.setCore_agenda (c : Core) : (s.setCore c).agenda = s.agenda := rfl
@[simp] theorem State.setCore_subject (c : Core) : (s.setCore c).subject = s.subject := rfl
@[simp] theorem State.setCore_clock (c : Core) : (s.setCore c).clock = s.clock := rfl
@[simp] theorem State.setCore_gtime (c : Core) : (s.setCore c).gtime = s.gtime := rfl
@[simp] theorem State.setCore_cores (c : Core) : (s.setCore c).cores = replaceWhere (fun x => x.pcn == c.pcn) c s.cores := rfl

/-! ## `modifyCore` -/

@[simp] theorem State.modifyCore_warp (pcn : Nat) (f : Core → Core) : (s.modifyCore pcn f).warp = s.warp := rfl
@[simp] theorem State.modifyCore_others (pcn : Nat) (f : Core → Core) : (s.modifyCore pcn f).others = s.others := rfl
@[simp] theorem State.modifyCore_clusters (pcn : Nat) (f : Core → Core) : (s.modifyCore pcn f).clusters = s.clusters := rfl
@[simp] theorem State.modifyCore_homes (pcn : Nat) (f : Core → Core) : (s.modifyCore pcn f).homes = s.homes := rfl
@[simp] theorem State.modifyCore_regions (pcn : Nat) (f : Core → Core) : (s.modifyCore pcn f).regions = s.regions := rfl
@[simp] theorem State.modifyCore_launches (pcn : Nat) (f : Core → Core) : (s.modifyCore pcn f).launches = s.launches := rfl
@[simp] theorem State.modifyCore_gangs (pcn : Nat) (f : Core → Core) : (s.modifyCore pcn f).gangs = s.gangs := rfl
@[simp] theorem State.modifyCore_monarch (pcn : Nat) (f : Core → Core) : (s.modifyCore pcn f).monarch = s.monarch := rfl
@[simp] theorem State.modifyCore_fabric (pcn : Nat) (f : Core → Core) : (s.modifyCore pcn f).fabric = s.fabric := rfl
@[simp] theorem State.modifyCore_agenda (pcn : Nat) (f : Core → Core) : (s.modifyCore pcn f).agenda = s.agenda := rfl
@[simp] theorem State.modifyCore_subject (pcn : Nat) (f : Core → Core) : (s.modifyCore pcn f).subject = s.subject := rfl
@[simp] theorem State.modifyCore_clock (pcn : Nat) (f : Core → Core) : (s.modifyCore pcn f).clock = s.clock := rfl
@[simp] theorem State.modifyCore_gtime (pcn : Nat) (f : Core → Core) : (s.modifyCore pcn f).gtime = s.gtime := rfl

/-! ## `setL1` -/

@[simp] theorem State.setL1_warp (pcn : Nat) (l : List L1Line) : (s.setL1 pcn l).warp = s.warp := rfl
@[simp] theorem State.setL1_others (pcn : Nat) (l : List L1Line) : (s.setL1 pcn l).others = s.others := rfl
@[simp] theorem State.setL1_clusters (pcn : Nat) (l : List L1Line) : (s.setL1 pcn l).clusters = s.clusters := rfl
@[simp] theorem State.setL1_homes (pcn : Nat) (l : List L1Line) : (s.setL1 pcn l).homes = s.homes := rfl
@[simp] theorem State.setL1_regions (pcn : Nat) (l : List L1Line) : (s.setL1 pcn l).regions = s.regions := rfl
@[simp] theorem State.setL1_launches (pcn : Nat) (l : List L1Line) : (s.setL1 pcn l).launches = s.launches := rfl
@[simp] theorem State.setL1_gangs (pcn : Nat) (l : List L1Line) : (s.setL1 pcn l).gangs = s.gangs := rfl
@[simp] theorem State.setL1_monarch (pcn : Nat) (l : List L1Line) : (s.setL1 pcn l).monarch = s.monarch := rfl
@[simp] theorem State.setL1_fabric (pcn : Nat) (l : List L1Line) : (s.setL1 pcn l).fabric = s.fabric := rfl
@[simp] theorem State.setL1_agenda (pcn : Nat) (l : List L1Line) : (s.setL1 pcn l).agenda = s.agenda := rfl
@[simp] theorem State.setL1_subject (pcn : Nat) (l : List L1Line) : (s.setL1 pcn l).subject = s.subject := rfl
@[simp] theorem State.setL1_clock (pcn : Nat) (l : List L1Line) : (s.setL1 pcn l).clock = s.clock := rfl
@[simp] theorem State.setL1_gtime (pcn : Nat) (l : List L1Line) : (s.setL1 pcn l).gtime = s.gtime := rfl

/-! ## `setCluster` -/

@[simp] theorem State.setCluster_warp (c : Cluster) : (s.setCluster c).warp = s.warp := rfl
@[simp] theorem State.setCluster_others (c : Cluster) : (s.setCluster c).others = s.others := rfl
@[simp] theorem State.setCluster_cores (c : Cluster) : (s.setCluster c).cores = s.cores := rfl
@[simp] theorem State.setCluster_homes (c : Cluster) : (s.setCluster c).homes = s.homes := rfl
@[simp] theorem State.setCluster_regions (c : Cluster) : (s.setCluster c).regions = s.regions := rfl
@[simp] theorem State.setCluster_launches (c : Cluster) : (s.setCluster c).launches = s.launches := rfl
@[simp] theorem State.setCluster_gangs (c : Cluster) : (s.setCluster c).gangs = s.gangs := rfl
@[simp] theorem State.setCluster_monarch (c : Cluster) : (s.setCluster c).monarch = s.monarch := rfl
@[simp] theorem State.setCluster_fabric (c : Cluster) : (s.setCluster c).fabric = s.fabric := rfl
@[simp] theorem State.setCluster_agenda (c : Cluster) : (s.setCluster c).agenda = s.agenda := rfl
@[simp] theorem State.setCluster_subject (c : Cluster) : (s.setCluster c).subject = s.subject := rfl
@[simp] theorem State.setCluster_clock (c : Cluster) : (s.setCluster c).clock = s.clock := rfl
@[simp] theorem State.setCluster_gtime (c : Cluster) : (s.setCluster c).gtime = s.gtime := rfl
@[simp] theorem State.setCluster_clusters (c : Cluster) : (s.setCluster c).clusters = replaceWhere (fun x => x.id == c.id) c s.clusters := rfl

/-! ## `modifyRegion` -/

@[simp] theorem State.modifyRegion_warp (rid : Nat) (f : Region → Region) : (s.modifyRegion rid f).warp = s.warp := rfl
@[simp] theorem State.modifyRegion_others (rid : Nat) (f : Region → Region) : (s.modifyRegion rid f).others = s.others := rfl
@[simp] theorem State.modifyRegion_cores (rid : Nat) (f : Region → Region) : (s.modifyRegion rid f).cores = s.cores := rfl
@[simp] theorem State.modifyRegion_clusters (rid : Nat) (f : Region → Region) : (s.modifyRegion rid f).clusters = s.clusters := rfl
@[simp] theorem State.modifyRegion_homes (rid : Nat) (f : Region → Region) : (s.modifyRegion rid f).homes = s.homes := rfl
@[simp] theorem State.modifyRegion_launches (rid : Nat) (f : Region → Region) : (s.modifyRegion rid f).launches = s.launches := rfl
@[simp] theorem State.modifyRegion_gangs (rid : Nat) (f : Region → Region) : (s.modifyRegion rid f).gangs = s.gangs := rfl
@[simp] theorem State.modifyRegion_monarch (rid : Nat) (f : Region → Region) : (s.modifyRegion rid f).monarch = s.monarch := rfl
@[simp] theorem State.modifyRegion_fabric (rid : Nat) (f : Region → Region) : (s.modifyRegion rid f).fabric = s.fabric := rfl
@[simp] theorem State.modifyRegion_agenda (rid : Nat) (f : Region → Region) : (s.modifyRegion rid f).agenda = s.agenda := rfl
@[simp] theorem State.modifyRegion_subject (rid : Nat) (f : Region → Region) : (s.modifyRegion rid f).subject = s.subject := rfl
@[simp] theorem State.modifyRegion_clock (rid : Nat) (f : Region → Region) : (s.modifyRegion rid f).clock = s.clock := rfl
@[simp] theorem State.modifyRegion_gtime (rid : Nat) (f : Region → Region) : (s.modifyRegion rid f).gtime = s.gtime := rfl
@[simp] theorem State.modifyRegion_regions (rid : Nat) (f : Region → Region) : (s.modifyRegion rid f).regions = changeWhere (fun r => r.rid == rid) f s.regions := rfl

/-! ## `modifyLaunch` -/

@[simp] theorem State.modifyLaunch_warp (id : Nat) (f : Launch → Launch) : (s.modifyLaunch id f).warp = s.warp := rfl
@[simp] theorem State.modifyLaunch_others (id : Nat) (f : Launch → Launch) : (s.modifyLaunch id f).others = s.others := rfl
@[simp] theorem State.modifyLaunch_cores (id : Nat) (f : Launch → Launch) : (s.modifyLaunch id f).cores = s.cores := rfl
@[simp] theorem State.modifyLaunch_clusters (id : Nat) (f : Launch → Launch) : (s.modifyLaunch id f).clusters = s.clusters := rfl
@[simp] theorem State.modifyLaunch_homes (id : Nat) (f : Launch → Launch) : (s.modifyLaunch id f).homes = s.homes := rfl
@[simp] theorem State.modifyLaunch_regions (id : Nat) (f : Launch → Launch) : (s.modifyLaunch id f).regions = s.regions := rfl
@[simp] theorem State.modifyLaunch_gangs (id : Nat) (f : Launch → Launch) : (s.modifyLaunch id f).gangs = s.gangs := rfl
@[simp] theorem State.modifyLaunch_monarch (id : Nat) (f : Launch → Launch) : (s.modifyLaunch id f).monarch = s.monarch := rfl
@[simp] theorem State.modifyLaunch_fabric (id : Nat) (f : Launch → Launch) : (s.modifyLaunch id f).fabric = s.fabric := rfl
@[simp] theorem State.modifyLaunch_agenda (id : Nat) (f : Launch → Launch) : (s.modifyLaunch id f).agenda = s.agenda := rfl
@[simp] theorem State.modifyLaunch_subject (id : Nat) (f : Launch → Launch) : (s.modifyLaunch id f).subject = s.subject := rfl
@[simp] theorem State.modifyLaunch_clock (id : Nat) (f : Launch → Launch) : (s.modifyLaunch id f).clock = s.clock := rfl
@[simp] theorem State.modifyLaunch_gtime (id : Nat) (f : Launch → Launch) : (s.modifyLaunch id f).gtime = s.gtime := rfl
@[simp] theorem State.modifyLaunch_launches (id : Nat) (f : Launch → Launch) : (s.modifyLaunch id f).launches = changeWhere (fun l => l.id == id) f s.launches := rfl

/-! ## `modifyGang` -/

@[simp] theorem State.modifyGang_warp (launch gang : Nat) (f : Gang → Gang) : (s.modifyGang launch gang f).warp = s.warp := rfl
@[simp] theorem State.modifyGang_others (launch gang : Nat) (f : Gang → Gang) : (s.modifyGang launch gang f).others = s.others := rfl
@[simp] theorem State.modifyGang_cores (launch gang : Nat) (f : Gang → Gang) : (s.modifyGang launch gang f).cores = s.cores := rfl
@[simp] theorem State.modifyGang_clusters (launch gang : Nat) (f : Gang → Gang) : (s.modifyGang launch gang f).clusters = s.clusters := rfl
@[simp] theorem State.modifyGang_homes (launch gang : Nat) (f : Gang → Gang) : (s.modifyGang launch gang f).homes = s.homes := rfl
@[simp] theorem State.modifyGang_regions (launch gang : Nat) (f : Gang → Gang) : (s.modifyGang launch gang f).regions = s.regions := rfl
@[simp] theorem State.modifyGang_launches (launch gang : Nat) (f : Gang → Gang) : (s.modifyGang launch gang f).launches = s.launches := rfl
@[simp] theorem State.modifyGang_monarch (launch gang : Nat) (f : Gang → Gang) : (s.modifyGang launch gang f).monarch = s.monarch := rfl
@[simp] theorem State.modifyGang_fabric (launch gang : Nat) (f : Gang → Gang) : (s.modifyGang launch gang f).fabric = s.fabric := rfl
@[simp] theorem State.modifyGang_agenda (launch gang : Nat) (f : Gang → Gang) : (s.modifyGang launch gang f).agenda = s.agenda := rfl
@[simp] theorem State.modifyGang_subject (launch gang : Nat) (f : Gang → Gang) : (s.modifyGang launch gang f).subject = s.subject := rfl
@[simp] theorem State.modifyGang_clock (launch gang : Nat) (f : Gang → Gang) : (s.modifyGang launch gang f).clock = s.clock := rfl
@[simp] theorem State.modifyGang_gtime (launch gang : Nat) (f : Gang → Gang) : (s.modifyGang launch gang f).gtime = s.gtime := rfl
@[simp] theorem State.modifyGang_gangs (launch gang : Nat) (f : Gang → Gang) : (s.modifyGang launch gang f).gangs = changeWhere (fun g => g.launch == launch && g.index == gang) f s.gangs := rfl

/-! ## `setOwners` -/

@[simp] theorem State.setOwners_warp (o : List OwnRec) : (s.setOwners o).warp = s.warp := rfl
@[simp] theorem State.setOwners_others (o : List OwnRec) : (s.setOwners o).others = s.others := rfl
@[simp] theorem State.setOwners_cores (o : List OwnRec) : (s.setOwners o).cores = s.cores := rfl
@[simp] theorem State.setOwners_clusters (o : List OwnRec) : (s.setOwners o).clusters = s.clusters := rfl
@[simp] theorem State.setOwners_regions (o : List OwnRec) : (s.setOwners o).regions = s.regions := rfl
@[simp] theorem State.setOwners_launches (o : List OwnRec) : (s.setOwners o).launches = s.launches := rfl
@[simp] theorem State.setOwners_gangs (o : List OwnRec) : (s.setOwners o).gangs = s.gangs := rfl
@[simp] theorem State.setOwners_monarch (o : List OwnRec) : (s.setOwners o).monarch = s.monarch := rfl
@[simp] theorem State.setOwners_fabric (o : List OwnRec) : (s.setOwners o).fabric = s.fabric := rfl
@[simp] theorem State.setOwners_agenda (o : List OwnRec) : (s.setOwners o).agenda = s.agenda := rfl
@[simp] theorem State.setOwners_subject (o : List OwnRec) : (s.setOwners o).subject = s.subject := rfl
@[simp] theorem State.setOwners_clock (o : List OwnRec) : (s.setOwners o).clock = s.clock := rfl
@[simp] theorem State.setOwners_gtime (o : List OwnRec) : (s.setOwners o).gtime = s.gtime := rfl
@[simp] theorem State.setOwners_homes_mem (o : List OwnRec) : (s.setOwners o).homes.mem = s.homes.mem := rfl
@[simp] theorem State.setOwners_homes_fresh (o : List OwnRec) : (s.setOwners o).homes.fresh = s.homes.fresh := rfl
@[simp] theorem State.setOwners_homes_poison (o : List OwnRec) : (s.setOwners o).homes.poison = s.homes.poison := rfl
@[simp] theorem State.setOwners_homes_owners (o : List OwnRec) : (s.setOwners o).homes.owners = o := rfl
@[simp] theorem State.setOwners_homes_lines (o : List OwnRec) : (s.setOwners o).homes.lines = s.homes.lines := rfl
@[simp] theorem State.setOwners_homes_marks (o : List OwnRec) : (s.setOwners o).homes.marks = s.homes.marks := rfl
@[simp] theorem State.setOwners_homes_msc (o : List OwnRec) : (s.setOwners o).homes.msc = s.homes.msc := rfl
@[simp] theorem State.setOwners_homes_channels (o : List OwnRec) : (s.setOwners o).homes.channels = s.homes.channels := rfl
@[simp] theorem State.setOwners_homes_stored (o : List OwnRec) : (s.setOwners o).homes.stored = s.homes.stored := rfl

/-! ## `setLines` -/

@[simp] theorem State.setLines_warp (o : List SliceLine) : (s.setLines o).warp = s.warp := rfl
@[simp] theorem State.setLines_others (o : List SliceLine) : (s.setLines o).others = s.others := rfl
@[simp] theorem State.setLines_cores (o : List SliceLine) : (s.setLines o).cores = s.cores := rfl
@[simp] theorem State.setLines_clusters (o : List SliceLine) : (s.setLines o).clusters = s.clusters := rfl
@[simp] theorem State.setLines_regions (o : List SliceLine) : (s.setLines o).regions = s.regions := rfl
@[simp] theorem State.setLines_launches (o : List SliceLine) : (s.setLines o).launches = s.launches := rfl
@[simp] theorem State.setLines_gangs (o : List SliceLine) : (s.setLines o).gangs = s.gangs := rfl
@[simp] theorem State.setLines_monarch (o : List SliceLine) : (s.setLines o).monarch = s.monarch := rfl
@[simp] theorem State.setLines_fabric (o : List SliceLine) : (s.setLines o).fabric = s.fabric := rfl
@[simp] theorem State.setLines_agenda (o : List SliceLine) : (s.setLines o).agenda = s.agenda := rfl
@[simp] theorem State.setLines_subject (o : List SliceLine) : (s.setLines o).subject = s.subject := rfl
@[simp] theorem State.setLines_clock (o : List SliceLine) : (s.setLines o).clock = s.clock := rfl
@[simp] theorem State.setLines_gtime (o : List SliceLine) : (s.setLines o).gtime = s.gtime := rfl
@[simp] theorem State.setLines_homes_mem (o : List SliceLine) : (s.setLines o).homes.mem = s.homes.mem := rfl
@[simp] theorem State.setLines_homes_fresh (o : List SliceLine) : (s.setLines o).homes.fresh = s.homes.fresh := rfl
@[simp] theorem State.setLines_homes_poison (o : List SliceLine) : (s.setLines o).homes.poison = s.homes.poison := rfl
@[simp] theorem State.setLines_homes_owners (o : List SliceLine) : (s.setLines o).homes.owners = s.homes.owners := rfl
@[simp] theorem State.setLines_homes_lines (o : List SliceLine) : (s.setLines o).homes.lines = o := rfl
@[simp] theorem State.setLines_homes_marks (o : List SliceLine) : (s.setLines o).homes.marks = s.homes.marks := rfl
@[simp] theorem State.setLines_homes_msc (o : List SliceLine) : (s.setLines o).homes.msc = s.homes.msc := rfl
@[simp] theorem State.setLines_homes_channels (o : List SliceLine) : (s.setLines o).homes.channels = s.homes.channels := rfl
@[simp] theorem State.setLines_homes_stored (o : List SliceLine) : (s.setLines o).homes.stored = s.homes.stored := rfl

/-! ## `setPoisons` -/

@[simp] theorem State.setPoisons_warp (o : List (Nat × BitVec 12)) : (s.setPoisons o).warp = s.warp := rfl
@[simp] theorem State.setPoisons_others (o : List (Nat × BitVec 12)) : (s.setPoisons o).others = s.others := rfl
@[simp] theorem State.setPoisons_cores (o : List (Nat × BitVec 12)) : (s.setPoisons o).cores = s.cores := rfl
@[simp] theorem State.setPoisons_clusters (o : List (Nat × BitVec 12)) : (s.setPoisons o).clusters = s.clusters := rfl
@[simp] theorem State.setPoisons_regions (o : List (Nat × BitVec 12)) : (s.setPoisons o).regions = s.regions := rfl
@[simp] theorem State.setPoisons_launches (o : List (Nat × BitVec 12)) : (s.setPoisons o).launches = s.launches := rfl
@[simp] theorem State.setPoisons_gangs (o : List (Nat × BitVec 12)) : (s.setPoisons o).gangs = s.gangs := rfl
@[simp] theorem State.setPoisons_monarch (o : List (Nat × BitVec 12)) : (s.setPoisons o).monarch = s.monarch := rfl
@[simp] theorem State.setPoisons_fabric (o : List (Nat × BitVec 12)) : (s.setPoisons o).fabric = s.fabric := rfl
@[simp] theorem State.setPoisons_agenda (o : List (Nat × BitVec 12)) : (s.setPoisons o).agenda = s.agenda := rfl
@[simp] theorem State.setPoisons_subject (o : List (Nat × BitVec 12)) : (s.setPoisons o).subject = s.subject := rfl
@[simp] theorem State.setPoisons_clock (o : List (Nat × BitVec 12)) : (s.setPoisons o).clock = s.clock := rfl
@[simp] theorem State.setPoisons_gtime (o : List (Nat × BitVec 12)) : (s.setPoisons o).gtime = s.gtime := rfl
@[simp] theorem State.setPoisons_homes_mem (o : List (Nat × BitVec 12)) : (s.setPoisons o).homes.mem = s.homes.mem := rfl
@[simp] theorem State.setPoisons_homes_fresh (o : List (Nat × BitVec 12)) : (s.setPoisons o).homes.fresh = s.homes.fresh := rfl
@[simp] theorem State.setPoisons_homes_poison (o : List (Nat × BitVec 12)) : (s.setPoisons o).homes.poison = o := rfl
@[simp] theorem State.setPoisons_homes_owners (o : List (Nat × BitVec 12)) : (s.setPoisons o).homes.owners = s.homes.owners := rfl
@[simp] theorem State.setPoisons_homes_lines (o : List (Nat × BitVec 12)) : (s.setPoisons o).homes.lines = s.homes.lines := rfl
@[simp] theorem State.setPoisons_homes_marks (o : List (Nat × BitVec 12)) : (s.setPoisons o).homes.marks = s.homes.marks := rfl
@[simp] theorem State.setPoisons_homes_msc (o : List (Nat × BitVec 12)) : (s.setPoisons o).homes.msc = s.homes.msc := rfl
@[simp] theorem State.setPoisons_homes_channels (o : List (Nat × BitVec 12)) : (s.setPoisons o).homes.channels = s.homes.channels := rfl
@[simp] theorem State.setPoisons_homes_stored (o : List (Nat × BitVec 12)) : (s.setPoisons o).homes.stored = s.homes.stored := rfl

/-! ## `setMarks` -/

@[simp] theorem State.setMarks_warp (o : List LineMark) : (s.setMarks o).warp = s.warp := rfl
@[simp] theorem State.setMarks_others (o : List LineMark) : (s.setMarks o).others = s.others := rfl
@[simp] theorem State.setMarks_cores (o : List LineMark) : (s.setMarks o).cores = s.cores := rfl
@[simp] theorem State.setMarks_clusters (o : List LineMark) : (s.setMarks o).clusters = s.clusters := rfl
@[simp] theorem State.setMarks_regions (o : List LineMark) : (s.setMarks o).regions = s.regions := rfl
@[simp] theorem State.setMarks_launches (o : List LineMark) : (s.setMarks o).launches = s.launches := rfl
@[simp] theorem State.setMarks_gangs (o : List LineMark) : (s.setMarks o).gangs = s.gangs := rfl
@[simp] theorem State.setMarks_monarch (o : List LineMark) : (s.setMarks o).monarch = s.monarch := rfl
@[simp] theorem State.setMarks_fabric (o : List LineMark) : (s.setMarks o).fabric = s.fabric := rfl
@[simp] theorem State.setMarks_agenda (o : List LineMark) : (s.setMarks o).agenda = s.agenda := rfl
@[simp] theorem State.setMarks_subject (o : List LineMark) : (s.setMarks o).subject = s.subject := rfl
@[simp] theorem State.setMarks_clock (o : List LineMark) : (s.setMarks o).clock = s.clock := rfl
@[simp] theorem State.setMarks_gtime (o : List LineMark) : (s.setMarks o).gtime = s.gtime := rfl
@[simp] theorem State.setMarks_homes_mem (o : List LineMark) : (s.setMarks o).homes.mem = s.homes.mem := rfl
@[simp] theorem State.setMarks_homes_fresh (o : List LineMark) : (s.setMarks o).homes.fresh = s.homes.fresh := rfl
@[simp] theorem State.setMarks_homes_poison (o : List LineMark) : (s.setMarks o).homes.poison = s.homes.poison := rfl
@[simp] theorem State.setMarks_homes_owners (o : List LineMark) : (s.setMarks o).homes.owners = s.homes.owners := rfl
@[simp] theorem State.setMarks_homes_lines (o : List LineMark) : (s.setMarks o).homes.lines = s.homes.lines := rfl
@[simp] theorem State.setMarks_homes_marks (o : List LineMark) : (s.setMarks o).homes.marks = o := rfl
@[simp] theorem State.setMarks_homes_msc (o : List LineMark) : (s.setMarks o).homes.msc = s.homes.msc := rfl
@[simp] theorem State.setMarks_homes_channels (o : List LineMark) : (s.setMarks o).homes.channels = s.homes.channels := rfl
@[simp] theorem State.setMarks_homes_stored (o : List LineMark) : (s.setMarks o).homes.stored = s.homes.stored := rfl

/-! ## `setMsc` -/

@[simp] theorem State.setMsc_warp (o : List MscTag) : (s.setMsc o).warp = s.warp := rfl
@[simp] theorem State.setMsc_others (o : List MscTag) : (s.setMsc o).others = s.others := rfl
@[simp] theorem State.setMsc_cores (o : List MscTag) : (s.setMsc o).cores = s.cores := rfl
@[simp] theorem State.setMsc_clusters (o : List MscTag) : (s.setMsc o).clusters = s.clusters := rfl
@[simp] theorem State.setMsc_regions (o : List MscTag) : (s.setMsc o).regions = s.regions := rfl
@[simp] theorem State.setMsc_launches (o : List MscTag) : (s.setMsc o).launches = s.launches := rfl
@[simp] theorem State.setMsc_gangs (o : List MscTag) : (s.setMsc o).gangs = s.gangs := rfl
@[simp] theorem State.setMsc_monarch (o : List MscTag) : (s.setMsc o).monarch = s.monarch := rfl
@[simp] theorem State.setMsc_fabric (o : List MscTag) : (s.setMsc o).fabric = s.fabric := rfl
@[simp] theorem State.setMsc_agenda (o : List MscTag) : (s.setMsc o).agenda = s.agenda := rfl
@[simp] theorem State.setMsc_subject (o : List MscTag) : (s.setMsc o).subject = s.subject := rfl
@[simp] theorem State.setMsc_clock (o : List MscTag) : (s.setMsc o).clock = s.clock := rfl
@[simp] theorem State.setMsc_gtime (o : List MscTag) : (s.setMsc o).gtime = s.gtime := rfl
@[simp] theorem State.setMsc_homes_mem (o : List MscTag) : (s.setMsc o).homes.mem = s.homes.mem := rfl
@[simp] theorem State.setMsc_homes_fresh (o : List MscTag) : (s.setMsc o).homes.fresh = s.homes.fresh := rfl
@[simp] theorem State.setMsc_homes_poison (o : List MscTag) : (s.setMsc o).homes.poison = s.homes.poison := rfl
@[simp] theorem State.setMsc_homes_owners (o : List MscTag) : (s.setMsc o).homes.owners = s.homes.owners := rfl
@[simp] theorem State.setMsc_homes_lines (o : List MscTag) : (s.setMsc o).homes.lines = s.homes.lines := rfl
@[simp] theorem State.setMsc_homes_marks (o : List MscTag) : (s.setMsc o).homes.marks = s.homes.marks := rfl
@[simp] theorem State.setMsc_homes_msc (o : List MscTag) : (s.setMsc o).homes.msc = o := rfl
@[simp] theorem State.setMsc_homes_channels (o : List MscTag) : (s.setMsc o).homes.channels = s.homes.channels := rfl
@[simp] theorem State.setMsc_homes_stored (o : List MscTag) : (s.setMsc o).homes.stored = s.homes.stored := rfl

/-! ## `setMem` -/

@[simp] theorem State.setMem_warp (o : Memory) : (s.setMem o).warp = s.warp := rfl
@[simp] theorem State.setMem_others (o : Memory) : (s.setMem o).others = s.others := rfl
@[simp] theorem State.setMem_cores (o : Memory) : (s.setMem o).cores = s.cores := rfl
@[simp] theorem State.setMem_clusters (o : Memory) : (s.setMem o).clusters = s.clusters := rfl
@[simp] theorem State.setMem_regions (o : Memory) : (s.setMem o).regions = s.regions := rfl
@[simp] theorem State.setMem_launches (o : Memory) : (s.setMem o).launches = s.launches := rfl
@[simp] theorem State.setMem_gangs (o : Memory) : (s.setMem o).gangs = s.gangs := rfl
@[simp] theorem State.setMem_monarch (o : Memory) : (s.setMem o).monarch = s.monarch := rfl
@[simp] theorem State.setMem_fabric (o : Memory) : (s.setMem o).fabric = s.fabric := rfl
@[simp] theorem State.setMem_agenda (o : Memory) : (s.setMem o).agenda = s.agenda := rfl
@[simp] theorem State.setMem_subject (o : Memory) : (s.setMem o).subject = s.subject := rfl
@[simp] theorem State.setMem_clock (o : Memory) : (s.setMem o).clock = s.clock := rfl
@[simp] theorem State.setMem_gtime (o : Memory) : (s.setMem o).gtime = s.gtime := rfl
@[simp] theorem State.setMem_homes_mem (o : Memory) : (s.setMem o).homes.mem = o := rfl
@[simp] theorem State.setMem_homes_fresh (o : Memory) : (s.setMem o).homes.fresh = s.homes.fresh := rfl
@[simp] theorem State.setMem_homes_poison (o : Memory) : (s.setMem o).homes.poison = s.homes.poison := rfl
@[simp] theorem State.setMem_homes_owners (o : Memory) : (s.setMem o).homes.owners = s.homes.owners := rfl
@[simp] theorem State.setMem_homes_lines (o : Memory) : (s.setMem o).homes.lines = s.homes.lines := rfl
@[simp] theorem State.setMem_homes_marks (o : Memory) : (s.setMem o).homes.marks = s.homes.marks := rfl
@[simp] theorem State.setMem_homes_msc (o : Memory) : (s.setMem o).homes.msc = s.homes.msc := rfl
@[simp] theorem State.setMem_homes_channels (o : Memory) : (s.setMem o).homes.channels = s.homes.channels := rfl
@[simp] theorem State.setMem_homes_stored (o : Memory) : (s.setMem o).homes.stored = s.homes.stored := rfl

/-! ## `setFresh` -/

@[simp] theorem State.setFresh_warp (o : List Host.Cell) : (s.setFresh o).warp = s.warp := rfl
@[simp] theorem State.setFresh_others (o : List Host.Cell) : (s.setFresh o).others = s.others := rfl
@[simp] theorem State.setFresh_cores (o : List Host.Cell) : (s.setFresh o).cores = s.cores := rfl
@[simp] theorem State.setFresh_clusters (o : List Host.Cell) : (s.setFresh o).clusters = s.clusters := rfl
@[simp] theorem State.setFresh_regions (o : List Host.Cell) : (s.setFresh o).regions = s.regions := rfl
@[simp] theorem State.setFresh_launches (o : List Host.Cell) : (s.setFresh o).launches = s.launches := rfl
@[simp] theorem State.setFresh_gangs (o : List Host.Cell) : (s.setFresh o).gangs = s.gangs := rfl
@[simp] theorem State.setFresh_monarch (o : List Host.Cell) : (s.setFresh o).monarch = s.monarch := rfl
@[simp] theorem State.setFresh_fabric (o : List Host.Cell) : (s.setFresh o).fabric = s.fabric := rfl
@[simp] theorem State.setFresh_agenda (o : List Host.Cell) : (s.setFresh o).agenda = s.agenda := rfl
@[simp] theorem State.setFresh_subject (o : List Host.Cell) : (s.setFresh o).subject = s.subject := rfl
@[simp] theorem State.setFresh_clock (o : List Host.Cell) : (s.setFresh o).clock = s.clock := rfl
@[simp] theorem State.setFresh_gtime (o : List Host.Cell) : (s.setFresh o).gtime = s.gtime := rfl
@[simp] theorem State.setFresh_homes_mem (o : List Host.Cell) : (s.setFresh o).homes.mem = s.homes.mem := rfl
@[simp] theorem State.setFresh_homes_fresh (o : List Host.Cell) : (s.setFresh o).homes.fresh = o := rfl
@[simp] theorem State.setFresh_homes_poison (o : List Host.Cell) : (s.setFresh o).homes.poison = s.homes.poison := rfl
@[simp] theorem State.setFresh_homes_owners (o : List Host.Cell) : (s.setFresh o).homes.owners = s.homes.owners := rfl
@[simp] theorem State.setFresh_homes_lines (o : List Host.Cell) : (s.setFresh o).homes.lines = s.homes.lines := rfl
@[simp] theorem State.setFresh_homes_marks (o : List Host.Cell) : (s.setFresh o).homes.marks = s.homes.marks := rfl
@[simp] theorem State.setFresh_homes_msc (o : List Host.Cell) : (s.setFresh o).homes.msc = s.homes.msc := rfl
@[simp] theorem State.setFresh_homes_channels (o : List Host.Cell) : (s.setFresh o).homes.channels = s.homes.channels := rfl
@[simp] theorem State.setFresh_homes_stored (o : List Host.Cell) : (s.setFresh o).homes.stored = s.homes.stored := rfl

/-! ## `setStored` -/

@[simp] theorem State.setStored_warp (o : List (Nat × BitVec 12)) : (s.setStored o).warp = s.warp := rfl
@[simp] theorem State.setStored_others (o : List (Nat × BitVec 12)) : (s.setStored o).others = s.others := rfl
@[simp] theorem State.setStored_cores (o : List (Nat × BitVec 12)) : (s.setStored o).cores = s.cores := rfl
@[simp] theorem State.setStored_clusters (o : List (Nat × BitVec 12)) : (s.setStored o).clusters = s.clusters := rfl
@[simp] theorem State.setStored_regions (o : List (Nat × BitVec 12)) : (s.setStored o).regions = s.regions := rfl
@[simp] theorem State.setStored_launches (o : List (Nat × BitVec 12)) : (s.setStored o).launches = s.launches := rfl
@[simp] theorem State.setStored_gangs (o : List (Nat × BitVec 12)) : (s.setStored o).gangs = s.gangs := rfl
@[simp] theorem State.setStored_monarch (o : List (Nat × BitVec 12)) : (s.setStored o).monarch = s.monarch := rfl
@[simp] theorem State.setStored_fabric (o : List (Nat × BitVec 12)) : (s.setStored o).fabric = s.fabric := rfl
@[simp] theorem State.setStored_agenda (o : List (Nat × BitVec 12)) : (s.setStored o).agenda = s.agenda := rfl
@[simp] theorem State.setStored_subject (o : List (Nat × BitVec 12)) : (s.setStored o).subject = s.subject := rfl
@[simp] theorem State.setStored_clock (o : List (Nat × BitVec 12)) : (s.setStored o).clock = s.clock := rfl
@[simp] theorem State.setStored_gtime (o : List (Nat × BitVec 12)) : (s.setStored o).gtime = s.gtime := rfl
@[simp] theorem State.setStored_homes_mem (o : List (Nat × BitVec 12)) : (s.setStored o).homes.mem = s.homes.mem := rfl
@[simp] theorem State.setStored_homes_fresh (o : List (Nat × BitVec 12)) : (s.setStored o).homes.fresh = s.homes.fresh := rfl
@[simp] theorem State.setStored_homes_poison (o : List (Nat × BitVec 12)) : (s.setStored o).homes.poison = s.homes.poison := rfl
@[simp] theorem State.setStored_homes_stored (o : List (Nat × BitVec 12)) : (s.setStored o).homes.stored = o := rfl
@[simp] theorem State.setStored_homes_owners (o : List (Nat × BitVec 12)) : (s.setStored o).homes.owners = s.homes.owners := rfl
@[simp] theorem State.setStored_homes_lines (o : List (Nat × BitVec 12)) : (s.setStored o).homes.lines = s.homes.lines := rfl
@[simp] theorem State.setStored_homes_marks (o : List (Nat × BitVec 12)) : (s.setStored o).homes.marks = s.homes.marks := rfl
@[simp] theorem State.setStored_homes_msc (o : List (Nat × BitVec 12)) : (s.setStored o).homes.msc = s.homes.msc := rfl
@[simp] theorem State.setStored_homes_channels (o : List (Nat × BitVec 12)) : (s.setStored o).homes.channels = s.homes.channels := rfl

/-! ## `setChannels` -/

@[simp] theorem State.setChannels_warp (o : List Channel) : (s.setChannels o).warp = s.warp := rfl
@[simp] theorem State.setChannels_others (o : List Channel) : (s.setChannels o).others = s.others := rfl
@[simp] theorem State.setChannels_cores (o : List Channel) : (s.setChannels o).cores = s.cores := rfl
@[simp] theorem State.setChannels_clusters (o : List Channel) : (s.setChannels o).clusters = s.clusters := rfl
@[simp] theorem State.setChannels_regions (o : List Channel) : (s.setChannels o).regions = s.regions := rfl
@[simp] theorem State.setChannels_launches (o : List Channel) : (s.setChannels o).launches = s.launches := rfl
@[simp] theorem State.setChannels_gangs (o : List Channel) : (s.setChannels o).gangs = s.gangs := rfl
@[simp] theorem State.setChannels_monarch (o : List Channel) : (s.setChannels o).monarch = s.monarch := rfl
@[simp] theorem State.setChannels_fabric (o : List Channel) : (s.setChannels o).fabric = s.fabric := rfl
@[simp] theorem State.setChannels_agenda (o : List Channel) : (s.setChannels o).agenda = s.agenda := rfl
@[simp] theorem State.setChannels_subject (o : List Channel) : (s.setChannels o).subject = s.subject := rfl
@[simp] theorem State.setChannels_clock (o : List Channel) : (s.setChannels o).clock = s.clock := rfl
@[simp] theorem State.setChannels_gtime (o : List Channel) : (s.setChannels o).gtime = s.gtime := rfl
@[simp] theorem State.setChannels_homes_mem (o : List Channel) : (s.setChannels o).homes.mem = s.homes.mem := rfl
@[simp] theorem State.setChannels_homes_fresh (o : List Channel) : (s.setChannels o).homes.fresh = s.homes.fresh := rfl
@[simp] theorem State.setChannels_homes_poison (o : List Channel) : (s.setChannels o).homes.poison = s.homes.poison := rfl
@[simp] theorem State.setChannels_homes_stored (o : List Channel) : (s.setChannels o).homes.stored = s.homes.stored := rfl
@[simp] theorem State.setChannels_homes_owners (o : List Channel) : (s.setChannels o).homes.owners = s.homes.owners := rfl
@[simp] theorem State.setChannels_homes_lines (o : List Channel) : (s.setChannels o).homes.lines = s.homes.lines := rfl
@[simp] theorem State.setChannels_homes_marks (o : List Channel) : (s.setChannels o).homes.marks = s.homes.marks := rfl
@[simp] theorem State.setChannels_homes_msc (o : List Channel) : (s.setChannels o).homes.msc = s.homes.msc := rfl
@[simp] theorem State.setChannels_homes_channels (o : List Channel) : (s.setChannels o).homes.channels = o := rfl

/-! ## `report` -/

@[simp] theorem State.report_warp (code : Nat) (data : List Nat) : (s.report code data).warp = s.warp := rfl
@[simp] theorem State.report_others (code : Nat) (data : List Nat) : (s.report code data).others = s.others := rfl
@[simp] theorem State.report_cores (code : Nat) (data : List Nat) : (s.report code data).cores = s.cores := rfl
@[simp] theorem State.report_clusters (code : Nat) (data : List Nat) : (s.report code data).clusters = s.clusters := rfl
@[simp] theorem State.report_homes (code : Nat) (data : List Nat) : (s.report code data).homes = s.homes := rfl
@[simp] theorem State.report_regions (code : Nat) (data : List Nat) : (s.report code data).regions = s.regions := rfl
@[simp] theorem State.report_launches (code : Nat) (data : List Nat) : (s.report code data).launches = s.launches := rfl
@[simp] theorem State.report_gangs (code : Nat) (data : List Nat) : (s.report code data).gangs = s.gangs := rfl
@[simp] theorem State.report_fabric (code : Nat) (data : List Nat) : (s.report code data).fabric = s.fabric := rfl
@[simp] theorem State.report_agenda (code : Nat) (data : List Nat) : (s.report code data).agenda = s.agenda := rfl
@[simp] theorem State.report_subject (code : Nat) (data : List Nat) : (s.report code data).subject = s.subject := rfl
@[simp] theorem State.report_clock (code : Nat) (data : List Nat) : (s.report code data).clock = s.clock := rfl
@[simp] theorem State.report_gtime (code : Nat) (data : List Nat) : (s.report code data).gtime = s.gtime := rfl

/-! ## The warp after `putV` -/

@[simp] theorem State.putV_warp_pcn (r : BitVec 7) (x : Lanes) (sh : Shadow) : (s.putV r x sh).warp.pcn = s.warp.pcn := rfl
@[simp] theorem State.putV_warp_cw (r : BitVec 7) (x : Lanes) (sh : Shadow) : (s.putV r x sh).warp.cw = s.warp.cw := rfl
@[simp] theorem State.putV_warp_status (r : BitVec 7) (x : Lanes) (sh : Shadow) : (s.putV r x sh).warp.status = s.warp.status := rfl
@[simp] theorem State.putV_warp_launch (r : BitVec 7) (x : Lanes) (sh : Shadow) : (s.putV r x sh).warp.launch = s.warp.launch := rfl
@[simp] theorem State.putV_warp_gang (r : BitVec 7) (x : Lanes) (sh : Shadow) : (s.putV r x sh).warp.gang = s.warp.gang := rfl
@[simp] theorem State.putV_warp_block (r : BitVec 7) (x : Lanes) (sh : Shadow) : (s.putV r x sh).warp.block = s.warp.block := rfl
@[simp] theorem State.putV_warp_index (r : BitVec 7) (x : Lanes) (sh : Shadow) : (s.putV r x sh).warp.index = s.warp.index := rfl
@[simp] theorem State.putV_warp_rid (r : BitVec 7) (x : Lanes) (sh : Shadow) : (s.putV r x sh).warp.rid = s.warp.rid := rfl
@[simp] theorem State.putV_warp_khdr (r : BitVec 7) (x : Lanes) (sh : Shadow) : (s.putV r x sh).warp.khdr = s.warp.khdr := rfl
@[simp] theorem State.putV_warp_varch (r : BitVec 7) (x : Lanes) (sh : Shadow) : (s.putV r x sh).warp.varch = s.warp.varch := rfl
@[simp] theorem State.putV_warp_vren (r : BitVec 7) (x : Lanes) (sh : Shadow) : (s.putV r x sh).warp.vren = s.warp.vren := rfl
@[simp] theorem State.putV_warp_trapvec (r : BitVec 7) (x : Lanes) (sh : Shadow) : (s.putV r x sh).warp.trapvec = s.warp.trapvec := rfl
@[simp] theorem State.putV_warp_recVa (r : BitVec 7) (x : Lanes) (sh : Shadow) : (s.putV r x sh).warp.recVa = s.warp.recVa := rfl
@[simp] theorem State.putV_warp_recAt (r : BitVec 7) (x : Lanes) (sh : Shadow) : (s.putV r x sh).warp.recAt = s.warp.recAt := rfl
@[simp] theorem State.putV_warp_laneTrap (r : BitVec 7) (x : Lanes) (sh : Shadow) : (s.putV r x sh).warp.laneTrap = s.warp.laneTrap := rfl
@[simp] theorem State.putV_warp_ahead (r : BitVec 7) (x : Lanes) (sh : Shadow) : (s.putV r x sh).warp.ahead = s.warp.ahead := rfl
@[simp] theorem State.putV_warp_taken (r : BitVec 7) (x : Lanes) (sh : Shadow) : (s.putV r x sh).warp.taken = s.warp.taken := rfl
@[simp] theorem State.putV_warp_distrust (r : BitVec 7) (x : Lanes) (sh : Shadow) : (s.putV r x sh).warp.distrust = s.warp.distrust := rfl
@[simp] theorem State.putV_warp_resumedRep (r : BitVec 7) (x : Lanes) (sh : Shadow) : (s.putV r x sh).warp.resumedRep = s.warp.resumedRep := rfl
@[simp] theorem State.putV_warp_departed (r : BitVec 7) (x : Lanes) (sh : Shadow) : (s.putV r x sh).warp.departed = s.warp.departed := rfl
@[simp] theorem State.putV_warp_pc (r : BitVec 7) (x : Lanes) (sh : Shadow) : (s.putV r x sh).warp.pc = s.warp.pc := rfl
@[simp] theorem State.putV_warp_active (r : BitVec 7) (x : Lanes) (sh : Shadow) : (s.putV r x sh).warp.active = s.warp.active := rfl
@[simp] theorem State.putV_warp_stack (r : BitVec 7) (x : Lanes) (sh : Shadow) : (s.putV r x sh).warp.stack = s.warp.stack := rfl
@[simp] theorem State.putV_warp_sreg (r : BitVec 7) (x : Lanes) (sh : Shadow) : (s.putV r x sh).warp.sreg = s.warp.sreg := rfl
@[simp] theorem State.putV_warp_sshd (r : BitVec 7) (x : Lanes) (sh : Shadow) : (s.putV r x sh).warp.sshd = s.warp.sshd := rfl
@[simp] theorem State.putV_warp_preg (r : BitVec 7) (x : Lanes) (sh : Shadow) : (s.putV r x sh).warp.preg = s.warp.preg := rfl
@[simp] theorem State.putV_warp_areg (r : BitVec 7) (x : Lanes) (sh : Shadow) : (s.putV r x sh).warp.areg = s.warp.areg := rfl
@[simp] theorem State.putV_warp_mode (r : BitVec 7) (x : Lanes) (sh : Shadow) : (s.putV r x sh).warp.mode = s.warp.mode := rfl
@[simp] theorem State.putV_warp_flg (r : BitVec 7) (x : Lanes) (sh : Shadow) : (s.putV r x sh).warp.flg = s.warp.flg := rfl
@[simp] theorem State.putV_warp_xs0 (r : BitVec 7) (x : Lanes) (sh : Shadow) : (s.putV r x sh).warp.xs0 = s.warp.xs0 := rfl
@[simp] theorem State.putV_warp_xs1 (r : BitVec 7) (x : Lanes) (sh : Shadow) : (s.putV r x sh).warp.xs1 = s.warp.xs1 := rfl
@[simp] theorem State.putV_warp_xrep (r : BitVec 7) (x : Lanes) (sh : Shadow) : (s.putV r x sh).warp.xrep = s.warp.xrep := rfl
@[simp] theorem State.putV_warp_xpc (r : BitVec 7) (x : Lanes) (sh : Shadow) : (s.putV r x sh).warp.xpc = s.warp.xpc := rfl
@[simp] theorem State.putV_warp_xmask (r : BitVec 7) (x : Lanes) (sh : Shadow) : (s.putV r x sh).warp.xmask = s.warp.xmask := rfl
@[simp] theorem State.putV_warp_xcause (r : BitVec 7) (x : Lanes) (sh : Shadow) : (s.putV r x sh).warp.xcause = s.warp.xcause := rfl
@[simp] theorem State.putV_warp_xrec (r : BitVec 7) (x : Lanes) (sh : Shadow) : (s.putV r x sh).warp.xrec = s.warp.xrec := rfl
@[simp] theorem State.putV_warp_feeds (r : BitVec 7) (x : Lanes) (sh : Shadow) : (s.putV r x sh).warp.feeds = s.warp.feeds := rfl
@[simp] theorem State.putV_warp_tdepth (r : BitVec 7) (x : Lanes) (sh : Shadow) : (s.putV r x sh).warp.tdepth = s.warp.tdepth := rfl
@[simp] theorem State.putV_warp_repip (r : BitVec 7) (x : Lanes) (sh : Shadow) : (s.putV r x sh).warp.repip = s.warp.repip := rfl
@[simp] theorem State.putV_warp_pin (r : BitVec 7) (x : Lanes) (sh : Shadow) : (s.putV r x sh).warp.pin = s.warp.pin := rfl
@[simp] theorem State.putV_warp_tileAcc (r : BitVec 7) (x : Lanes) (sh : Shadow) : (s.putV r x sh).warp.tileAcc = s.warp.tileAcc := rfl
@[simp] theorem State.putV_warp_sums (r : BitVec 7) (x : Lanes) (sh : Shadow) : (s.putV r x sh).warp.sums = s.warp.sums := rfl
@[simp] theorem State.putV_warp_dupCount (r : BitVec 7) (x : Lanes) (sh : Shadow) : (s.putV r x sh).warp.dupCount = s.warp.dupCount := rfl
@[simp] theorem State.putV_warp_lastSeal (r : BitVec 7) (x : Lanes) (sh : Shadow) : (s.putV r x sh).warp.lastSeal = s.warp.lastSeal := rfl
@[simp] theorem State.putV_warp_exclude (r : BitVec 7) (x : Lanes) (sh : Shadow) : (s.putV r x sh).warp.exclude = s.warp.exclude := rfl
@[simp] theorem State.putV_warp_rerun (r : BitVec 7) (x : Lanes) (sh : Shadow) : (s.putV r x sh).warp.rerun = s.warp.rerun := rfl
@[simp] theorem State.putV_warp_rep (r : BitVec 7) (x : Lanes) (sh : Shadow) : (s.putV r x sh).warp.rep = s.warp.rep := rfl
@[simp] theorem State.putV_warp_wait (r : BitVec 7) (x : Lanes) (sh : Shadow) : (s.putV r x sh).warp.wait = s.warp.wait := rfl
@[simp] theorem State.putV_warp_stores (r : BitVec 7) (x : Lanes) (sh : Shadow) : (s.putV r x sh).warp.stores = s.warp.stores := rfl
@[simp] theorem State.putV_warp_clkOff (r : BitVec 7) (x : Lanes) (sh : Shadow) : (s.putV r x sh).warp.clkOff = s.warp.clkOff := rfl
@[simp] theorem State.putV_warp_pending (r : BitVec 7) (x : Lanes) (sh : Shadow) : (s.putV r x sh).warp.pending = s.warp.pending := rfl
@[simp] theorem State.putV_warp_records (r : BitVec 7) (x : Lanes) (sh : Shadow) : (s.putV r x sh).warp.records = s.warp.records := rfl
@[simp] theorem State.putV_warp_backoff (r : BitVec 7) (x : Lanes) (sh : Shadow) : (s.putV r x sh).warp.backoff = s.warp.backoff := rfl
@[simp] theorem State.putV_warp_permit (r : BitVec 7) (x : Lanes) (sh : Shadow) : (s.putV r x sh).warp.permit = s.warp.permit := rfl
@[simp] theorem State.putV_warp_stepping (r : BitVec 7) (x : Lanes) (sh : Shadow) : (s.putV r x sh).warp.stepping = s.warp.stepping := rfl
@[simp] theorem State.putV_warp_resumed (r : BitVec 7) (x : Lanes) (sh : Shadow) : (s.putV r x sh).warp.resumed = s.warp.resumed := rfl
@[simp] theorem State.putV_warp_causalHits (r : BitVec 7) (x : Lanes) (sh : Shadow) : (s.putV r x sh).warp.causalHits = s.warp.causalHits := rfl
@[simp] theorem State.putV_warp_hold (r : BitVec 7) (x : Lanes) (sh : Shadow) : (s.putV r x sh).warp.hold = s.warp.hold := rfl
@[simp] theorem State.putV_warp_waitSince (r : BitVec 7) (x : Lanes) (sh : Shadow) : (s.putV r x sh).warp.waitSince = s.warp.waitSince := rfl
@[simp] theorem State.putV_warp_haltCause (r : BitVec 7) (x : Lanes) (sh : Shadow) : (s.putV r x sh).warp.haltCause = s.warp.haltCause := rfl

/-! ## The warp after `writeA` -/

@[simp] theorem State.writeA_warp_pcn (r : BitVec 4) (x : ArrayReg) : (s.writeA r x).warp.pcn = s.warp.pcn := rfl
@[simp] theorem State.writeA_warp_cw (r : BitVec 4) (x : ArrayReg) : (s.writeA r x).warp.cw = s.warp.cw := rfl
@[simp] theorem State.writeA_warp_status (r : BitVec 4) (x : ArrayReg) : (s.writeA r x).warp.status = s.warp.status := rfl
@[simp] theorem State.writeA_warp_launch (r : BitVec 4) (x : ArrayReg) : (s.writeA r x).warp.launch = s.warp.launch := rfl
@[simp] theorem State.writeA_warp_gang (r : BitVec 4) (x : ArrayReg) : (s.writeA r x).warp.gang = s.warp.gang := rfl
@[simp] theorem State.writeA_warp_block (r : BitVec 4) (x : ArrayReg) : (s.writeA r x).warp.block = s.warp.block := rfl
@[simp] theorem State.writeA_warp_index (r : BitVec 4) (x : ArrayReg) : (s.writeA r x).warp.index = s.warp.index := rfl
@[simp] theorem State.writeA_warp_rid (r : BitVec 4) (x : ArrayReg) : (s.writeA r x).warp.rid = s.warp.rid := rfl
@[simp] theorem State.writeA_warp_khdr (r : BitVec 4) (x : ArrayReg) : (s.writeA r x).warp.khdr = s.warp.khdr := rfl
@[simp] theorem State.writeA_warp_varch (r : BitVec 4) (x : ArrayReg) : (s.writeA r x).warp.varch = s.warp.varch := rfl
@[simp] theorem State.writeA_warp_vren (r : BitVec 4) (x : ArrayReg) : (s.writeA r x).warp.vren = s.warp.vren := rfl
@[simp] theorem State.writeA_warp_trapvec (r : BitVec 4) (x : ArrayReg) : (s.writeA r x).warp.trapvec = s.warp.trapvec := rfl
@[simp] theorem State.writeA_warp_recVa (r : BitVec 4) (x : ArrayReg) : (s.writeA r x).warp.recVa = s.warp.recVa := rfl
@[simp] theorem State.writeA_warp_recAt (r : BitVec 4) (x : ArrayReg) : (s.writeA r x).warp.recAt = s.warp.recAt := rfl
@[simp] theorem State.writeA_warp_laneTrap (r : BitVec 4) (x : ArrayReg) : (s.writeA r x).warp.laneTrap = s.warp.laneTrap := rfl
@[simp] theorem State.writeA_warp_ahead (r : BitVec 4) (x : ArrayReg) : (s.writeA r x).warp.ahead = s.warp.ahead := rfl
@[simp] theorem State.writeA_warp_taken (r : BitVec 4) (x : ArrayReg) : (s.writeA r x).warp.taken = s.warp.taken := rfl
@[simp] theorem State.writeA_warp_distrust (r : BitVec 4) (x : ArrayReg) : (s.writeA r x).warp.distrust = s.warp.distrust := rfl
@[simp] theorem State.writeA_warp_resumedRep (r : BitVec 4) (x : ArrayReg) : (s.writeA r x).warp.resumedRep = s.warp.resumedRep := rfl
@[simp] theorem State.writeA_warp_departed (r : BitVec 4) (x : ArrayReg) : (s.writeA r x).warp.departed = s.warp.departed := rfl
@[simp] theorem State.writeA_warp_pc (r : BitVec 4) (x : ArrayReg) : (s.writeA r x).warp.pc = s.warp.pc := rfl
@[simp] theorem State.writeA_warp_active (r : BitVec 4) (x : ArrayReg) : (s.writeA r x).warp.active = s.warp.active := rfl
@[simp] theorem State.writeA_warp_stack (r : BitVec 4) (x : ArrayReg) : (s.writeA r x).warp.stack = s.warp.stack := rfl
@[simp] theorem State.writeA_warp_sreg (r : BitVec 4) (x : ArrayReg) : (s.writeA r x).warp.sreg = s.warp.sreg := rfl
@[simp] theorem State.writeA_warp_sshd (r : BitVec 4) (x : ArrayReg) : (s.writeA r x).warp.sshd = s.warp.sshd := rfl
@[simp] theorem State.writeA_warp_vreg (r : BitVec 4) (x : ArrayReg) : (s.writeA r x).warp.vreg = s.warp.vreg := rfl
@[simp] theorem State.writeA_warp_vshd (r : BitVec 4) (x : ArrayReg) : (s.writeA r x).warp.vshd = s.warp.vshd := rfl
@[simp] theorem State.writeA_warp_preg (r : BitVec 4) (x : ArrayReg) : (s.writeA r x).warp.preg = s.warp.preg := rfl
@[simp] theorem State.writeA_warp_mode (r : BitVec 4) (x : ArrayReg) : (s.writeA r x).warp.mode = s.warp.mode := rfl
@[simp] theorem State.writeA_warp_flg (r : BitVec 4) (x : ArrayReg) : (s.writeA r x).warp.flg = s.warp.flg := rfl
@[simp] theorem State.writeA_warp_xs0 (r : BitVec 4) (x : ArrayReg) : (s.writeA r x).warp.xs0 = s.warp.xs0 := rfl
@[simp] theorem State.writeA_warp_xs1 (r : BitVec 4) (x : ArrayReg) : (s.writeA r x).warp.xs1 = s.warp.xs1 := rfl
@[simp] theorem State.writeA_warp_xrep (r : BitVec 4) (x : ArrayReg) : (s.writeA r x).warp.xrep = s.warp.xrep := rfl
@[simp] theorem State.writeA_warp_xpc (r : BitVec 4) (x : ArrayReg) : (s.writeA r x).warp.xpc = s.warp.xpc := rfl
@[simp] theorem State.writeA_warp_xmask (r : BitVec 4) (x : ArrayReg) : (s.writeA r x).warp.xmask = s.warp.xmask := rfl
@[simp] theorem State.writeA_warp_xcause (r : BitVec 4) (x : ArrayReg) : (s.writeA r x).warp.xcause = s.warp.xcause := rfl
@[simp] theorem State.writeA_warp_xrec (r : BitVec 4) (x : ArrayReg) : (s.writeA r x).warp.xrec = s.warp.xrec := rfl
@[simp] theorem State.writeA_warp_feeds (r : BitVec 4) (x : ArrayReg) : (s.writeA r x).warp.feeds = s.warp.feeds := rfl
@[simp] theorem State.writeA_warp_tdepth (r : BitVec 4) (x : ArrayReg) : (s.writeA r x).warp.tdepth = s.warp.tdepth := rfl
@[simp] theorem State.writeA_warp_repip (r : BitVec 4) (x : ArrayReg) : (s.writeA r x).warp.repip = s.warp.repip := rfl
@[simp] theorem State.writeA_warp_pin (r : BitVec 4) (x : ArrayReg) : (s.writeA r x).warp.pin = s.warp.pin := rfl
@[simp] theorem State.writeA_warp_tileAcc (r : BitVec 4) (x : ArrayReg) : (s.writeA r x).warp.tileAcc = s.warp.tileAcc := rfl
@[simp] theorem State.writeA_warp_sums (r : BitVec 4) (x : ArrayReg) : (s.writeA r x).warp.sums = s.warp.sums := rfl
@[simp] theorem State.writeA_warp_dupCount (r : BitVec 4) (x : ArrayReg) : (s.writeA r x).warp.dupCount = s.warp.dupCount := rfl
@[simp] theorem State.writeA_warp_lastSeal (r : BitVec 4) (x : ArrayReg) : (s.writeA r x).warp.lastSeal = s.warp.lastSeal := rfl
@[simp] theorem State.writeA_warp_exclude (r : BitVec 4) (x : ArrayReg) : (s.writeA r x).warp.exclude = s.warp.exclude := rfl
@[simp] theorem State.writeA_warp_rerun (r : BitVec 4) (x : ArrayReg) : (s.writeA r x).warp.rerun = s.warp.rerun := rfl
@[simp] theorem State.writeA_warp_rep (r : BitVec 4) (x : ArrayReg) : (s.writeA r x).warp.rep = s.warp.rep := rfl
@[simp] theorem State.writeA_warp_wait (r : BitVec 4) (x : ArrayReg) : (s.writeA r x).warp.wait = s.warp.wait := rfl
@[simp] theorem State.writeA_warp_stores (r : BitVec 4) (x : ArrayReg) : (s.writeA r x).warp.stores = s.warp.stores := rfl
@[simp] theorem State.writeA_warp_clkOff (r : BitVec 4) (x : ArrayReg) : (s.writeA r x).warp.clkOff = s.warp.clkOff := rfl
@[simp] theorem State.writeA_warp_pending (r : BitVec 4) (x : ArrayReg) : (s.writeA r x).warp.pending = s.warp.pending := rfl
@[simp] theorem State.writeA_warp_records (r : BitVec 4) (x : ArrayReg) : (s.writeA r x).warp.records = s.warp.records := rfl
@[simp] theorem State.writeA_warp_backoff (r : BitVec 4) (x : ArrayReg) : (s.writeA r x).warp.backoff = s.warp.backoff := rfl
@[simp] theorem State.writeA_warp_permit (r : BitVec 4) (x : ArrayReg) : (s.writeA r x).warp.permit = s.warp.permit := rfl
@[simp] theorem State.writeA_warp_stepping (r : BitVec 4) (x : ArrayReg) : (s.writeA r x).warp.stepping = s.warp.stepping := rfl
@[simp] theorem State.writeA_warp_resumed (r : BitVec 4) (x : ArrayReg) : (s.writeA r x).warp.resumed = s.warp.resumed := rfl
@[simp] theorem State.writeA_warp_causalHits (r : BitVec 4) (x : ArrayReg) : (s.writeA r x).warp.causalHits = s.warp.causalHits := rfl
@[simp] theorem State.writeA_warp_hold (r : BitVec 4) (x : ArrayReg) : (s.writeA r x).warp.hold = s.warp.hold := rfl
@[simp] theorem State.writeA_warp_waitSince (r : BitVec 4) (x : ArrayReg) : (s.writeA r x).warp.waitSince = s.warp.waitSince := rfl
@[simp] theorem State.writeA_warp_haltCause (r : BitVec 4) (x : ArrayReg) : (s.writeA r x).warp.haltCause = s.warp.haltCause := rfl

/-! ## The warp after `writeF` -/

@[simp] theorem State.writeF_warp_pcn (f : BitVec 2) (x : Lanes) : (s.writeF f x).warp.pcn = s.warp.pcn := rfl
@[simp] theorem State.writeF_warp_cw (f : BitVec 2) (x : Lanes) : (s.writeF f x).warp.cw = s.warp.cw := rfl
@[simp] theorem State.writeF_warp_status (f : BitVec 2) (x : Lanes) : (s.writeF f x).warp.status = s.warp.status := rfl
@[simp] theorem State.writeF_warp_launch (f : BitVec 2) (x : Lanes) : (s.writeF f x).warp.launch = s.warp.launch := rfl
@[simp] theorem State.writeF_warp_gang (f : BitVec 2) (x : Lanes) : (s.writeF f x).warp.gang = s.warp.gang := rfl
@[simp] theorem State.writeF_warp_block (f : BitVec 2) (x : Lanes) : (s.writeF f x).warp.block = s.warp.block := rfl
@[simp] theorem State.writeF_warp_index (f : BitVec 2) (x : Lanes) : (s.writeF f x).warp.index = s.warp.index := rfl
@[simp] theorem State.writeF_warp_rid (f : BitVec 2) (x : Lanes) : (s.writeF f x).warp.rid = s.warp.rid := rfl
@[simp] theorem State.writeF_warp_khdr (f : BitVec 2) (x : Lanes) : (s.writeF f x).warp.khdr = s.warp.khdr := rfl
@[simp] theorem State.writeF_warp_varch (f : BitVec 2) (x : Lanes) : (s.writeF f x).warp.varch = s.warp.varch := rfl
@[simp] theorem State.writeF_warp_vren (f : BitVec 2) (x : Lanes) : (s.writeF f x).warp.vren = s.warp.vren := rfl
@[simp] theorem State.writeF_warp_trapvec (f : BitVec 2) (x : Lanes) : (s.writeF f x).warp.trapvec = s.warp.trapvec := rfl
@[simp] theorem State.writeF_warp_recVa (f : BitVec 2) (x : Lanes) : (s.writeF f x).warp.recVa = s.warp.recVa := rfl
@[simp] theorem State.writeF_warp_recAt (f : BitVec 2) (x : Lanes) : (s.writeF f x).warp.recAt = s.warp.recAt := rfl
@[simp] theorem State.writeF_warp_laneTrap (f : BitVec 2) (x : Lanes) : (s.writeF f x).warp.laneTrap = s.warp.laneTrap := rfl
@[simp] theorem State.writeF_warp_ahead (f : BitVec 2) (x : Lanes) : (s.writeF f x).warp.ahead = s.warp.ahead := rfl
@[simp] theorem State.writeF_warp_taken (f : BitVec 2) (x : Lanes) : (s.writeF f x).warp.taken = s.warp.taken := rfl
@[simp] theorem State.writeF_warp_distrust (f : BitVec 2) (x : Lanes) : (s.writeF f x).warp.distrust = s.warp.distrust := rfl
@[simp] theorem State.writeF_warp_resumedRep (f : BitVec 2) (x : Lanes) : (s.writeF f x).warp.resumedRep = s.warp.resumedRep := rfl
@[simp] theorem State.writeF_warp_departed (f : BitVec 2) (x : Lanes) : (s.writeF f x).warp.departed = s.warp.departed := rfl
@[simp] theorem State.writeF_warp_pc (f : BitVec 2) (x : Lanes) : (s.writeF f x).warp.pc = s.warp.pc := rfl
@[simp] theorem State.writeF_warp_active (f : BitVec 2) (x : Lanes) : (s.writeF f x).warp.active = s.warp.active := rfl
@[simp] theorem State.writeF_warp_stack (f : BitVec 2) (x : Lanes) : (s.writeF f x).warp.stack = s.warp.stack := rfl
@[simp] theorem State.writeF_warp_sreg (f : BitVec 2) (x : Lanes) : (s.writeF f x).warp.sreg = s.warp.sreg := rfl
@[simp] theorem State.writeF_warp_sshd (f : BitVec 2) (x : Lanes) : (s.writeF f x).warp.sshd = s.warp.sshd := rfl
@[simp] theorem State.writeF_warp_vreg (f : BitVec 2) (x : Lanes) : (s.writeF f x).warp.vreg = s.warp.vreg := rfl
@[simp] theorem State.writeF_warp_vshd (f : BitVec 2) (x : Lanes) : (s.writeF f x).warp.vshd = s.warp.vshd := rfl
@[simp] theorem State.writeF_warp_preg (f : BitVec 2) (x : Lanes) : (s.writeF f x).warp.preg = s.warp.preg := rfl
@[simp] theorem State.writeF_warp_areg (f : BitVec 2) (x : Lanes) : (s.writeF f x).warp.areg = s.warp.areg := rfl
@[simp] theorem State.writeF_warp_mode (f : BitVec 2) (x : Lanes) : (s.writeF f x).warp.mode = s.warp.mode := rfl
@[simp] theorem State.writeF_warp_flg (f : BitVec 2) (x : Lanes) : (s.writeF f x).warp.flg = s.warp.flg := rfl
@[simp] theorem State.writeF_warp_xs0 (f : BitVec 2) (x : Lanes) : (s.writeF f x).warp.xs0 = s.warp.xs0 := rfl
@[simp] theorem State.writeF_warp_xs1 (f : BitVec 2) (x : Lanes) : (s.writeF f x).warp.xs1 = s.warp.xs1 := rfl
@[simp] theorem State.writeF_warp_xrep (f : BitVec 2) (x : Lanes) : (s.writeF f x).warp.xrep = s.warp.xrep := rfl
@[simp] theorem State.writeF_warp_xpc (f : BitVec 2) (x : Lanes) : (s.writeF f x).warp.xpc = s.warp.xpc := rfl
@[simp] theorem State.writeF_warp_xmask (f : BitVec 2) (x : Lanes) : (s.writeF f x).warp.xmask = s.warp.xmask := rfl
@[simp] theorem State.writeF_warp_xcause (f : BitVec 2) (x : Lanes) : (s.writeF f x).warp.xcause = s.warp.xcause := rfl
@[simp] theorem State.writeF_warp_xrec (f : BitVec 2) (x : Lanes) : (s.writeF f x).warp.xrec = s.warp.xrec := rfl
@[simp] theorem State.writeF_warp_tdepth (f : BitVec 2) (x : Lanes) : (s.writeF f x).warp.tdepth = s.warp.tdepth := rfl
@[simp] theorem State.writeF_warp_repip (f : BitVec 2) (x : Lanes) : (s.writeF f x).warp.repip = s.warp.repip := rfl
@[simp] theorem State.writeF_warp_pin (f : BitVec 2) (x : Lanes) : (s.writeF f x).warp.pin = s.warp.pin := rfl
@[simp] theorem State.writeF_warp_tileAcc (f : BitVec 2) (x : Lanes) : (s.writeF f x).warp.tileAcc = s.warp.tileAcc := rfl
@[simp] theorem State.writeF_warp_sums (f : BitVec 2) (x : Lanes) : (s.writeF f x).warp.sums = s.warp.sums := rfl
@[simp] theorem State.writeF_warp_dupCount (f : BitVec 2) (x : Lanes) : (s.writeF f x).warp.dupCount = s.warp.dupCount := rfl
@[simp] theorem State.writeF_warp_lastSeal (f : BitVec 2) (x : Lanes) : (s.writeF f x).warp.lastSeal = s.warp.lastSeal := rfl
@[simp] theorem State.writeF_warp_exclude (f : BitVec 2) (x : Lanes) : (s.writeF f x).warp.exclude = s.warp.exclude := rfl
@[simp] theorem State.writeF_warp_rerun (f : BitVec 2) (x : Lanes) : (s.writeF f x).warp.rerun = s.warp.rerun := rfl
@[simp] theorem State.writeF_warp_rep (f : BitVec 2) (x : Lanes) : (s.writeF f x).warp.rep = s.warp.rep := rfl
@[simp] theorem State.writeF_warp_wait (f : BitVec 2) (x : Lanes) : (s.writeF f x).warp.wait = s.warp.wait := rfl
@[simp] theorem State.writeF_warp_stores (f : BitVec 2) (x : Lanes) : (s.writeF f x).warp.stores = s.warp.stores := rfl
@[simp] theorem State.writeF_warp_clkOff (f : BitVec 2) (x : Lanes) : (s.writeF f x).warp.clkOff = s.warp.clkOff := rfl
@[simp] theorem State.writeF_warp_pending (f : BitVec 2) (x : Lanes) : (s.writeF f x).warp.pending = s.warp.pending := rfl
@[simp] theorem State.writeF_warp_records (f : BitVec 2) (x : Lanes) : (s.writeF f x).warp.records = s.warp.records := rfl
@[simp] theorem State.writeF_warp_backoff (f : BitVec 2) (x : Lanes) : (s.writeF f x).warp.backoff = s.warp.backoff := rfl
@[simp] theorem State.writeF_warp_permit (f : BitVec 2) (x : Lanes) : (s.writeF f x).warp.permit = s.warp.permit := rfl
@[simp] theorem State.writeF_warp_stepping (f : BitVec 2) (x : Lanes) : (s.writeF f x).warp.stepping = s.warp.stepping := rfl
@[simp] theorem State.writeF_warp_resumed (f : BitVec 2) (x : Lanes) : (s.writeF f x).warp.resumed = s.warp.resumed := rfl
@[simp] theorem State.writeF_warp_causalHits (f : BitVec 2) (x : Lanes) : (s.writeF f x).warp.causalHits = s.warp.causalHits := rfl
@[simp] theorem State.writeF_warp_hold (f : BitVec 2) (x : Lanes) : (s.writeF f x).warp.hold = s.warp.hold := rfl
@[simp] theorem State.writeF_warp_waitSince (f : BitVec 2) (x : Lanes) : (s.writeF f x).warp.waitSince = s.warp.waitSince := rfl
@[simp] theorem State.writeF_warp_haltCause (f : BitVec 2) (x : Lanes) : (s.writeF f x).warp.haltCause = s.warp.haltCause := rfl

/-! ## The warp after `setPc` -/

@[simp] theorem State.setPc_warp_pcn (pc : BitVec 48) : (s.setPc pc).warp.pcn = s.warp.pcn := rfl
@[simp] theorem State.setPc_warp_cw (pc : BitVec 48) : (s.setPc pc).warp.cw = s.warp.cw := rfl
@[simp] theorem State.setPc_warp_status (pc : BitVec 48) : (s.setPc pc).warp.status = s.warp.status := rfl
@[simp] theorem State.setPc_warp_launch (pc : BitVec 48) : (s.setPc pc).warp.launch = s.warp.launch := rfl
@[simp] theorem State.setPc_warp_gang (pc : BitVec 48) : (s.setPc pc).warp.gang = s.warp.gang := rfl
@[simp] theorem State.setPc_warp_block (pc : BitVec 48) : (s.setPc pc).warp.block = s.warp.block := rfl
@[simp] theorem State.setPc_warp_index (pc : BitVec 48) : (s.setPc pc).warp.index = s.warp.index := rfl
@[simp] theorem State.setPc_warp_rid (pc : BitVec 48) : (s.setPc pc).warp.rid = s.warp.rid := rfl
@[simp] theorem State.setPc_warp_khdr (pc : BitVec 48) : (s.setPc pc).warp.khdr = s.warp.khdr := rfl
@[simp] theorem State.setPc_warp_varch (pc : BitVec 48) : (s.setPc pc).warp.varch = s.warp.varch := rfl
@[simp] theorem State.setPc_warp_vren (pc : BitVec 48) : (s.setPc pc).warp.vren = s.warp.vren := rfl
@[simp] theorem State.setPc_warp_trapvec (pc : BitVec 48) : (s.setPc pc).warp.trapvec = s.warp.trapvec := rfl
@[simp] theorem State.setPc_warp_recVa (pc : BitVec 48) : (s.setPc pc).warp.recVa = s.warp.recVa := rfl
@[simp] theorem State.setPc_warp_recAt (pc : BitVec 48) : (s.setPc pc).warp.recAt = s.warp.recAt := rfl
@[simp] theorem State.setPc_warp_laneTrap (pc : BitVec 48) : (s.setPc pc).warp.laneTrap = s.warp.laneTrap := rfl
@[simp] theorem State.setPc_warp_ahead (pc : BitVec 48) : (s.setPc pc).warp.ahead = s.warp.ahead := rfl
@[simp] theorem State.setPc_warp_taken (pc : BitVec 48) : (s.setPc pc).warp.taken = s.warp.taken := rfl
@[simp] theorem State.setPc_warp_distrust (pc : BitVec 48) : (s.setPc pc).warp.distrust = s.warp.distrust := rfl
@[simp] theorem State.setPc_warp_resumedRep (pc : BitVec 48) : (s.setPc pc).warp.resumedRep = s.warp.resumedRep := rfl
@[simp] theorem State.setPc_warp_departed (pc : BitVec 48) : (s.setPc pc).warp.departed = s.warp.departed := rfl
@[simp] theorem State.setPc_warp_pc (pc : BitVec 48) : (s.setPc pc).warp.pc = pc := rfl
@[simp] theorem State.setPc_warp_active (pc : BitVec 48) : (s.setPc pc).warp.active = s.warp.active := rfl
@[simp] theorem State.setPc_warp_stack (pc : BitVec 48) : (s.setPc pc).warp.stack = s.warp.stack := rfl
@[simp] theorem State.setPc_warp_sreg (pc : BitVec 48) : (s.setPc pc).warp.sreg = s.warp.sreg := rfl
@[simp] theorem State.setPc_warp_sshd (pc : BitVec 48) : (s.setPc pc).warp.sshd = s.warp.sshd := rfl
@[simp] theorem State.setPc_warp_vreg (pc : BitVec 48) : (s.setPc pc).warp.vreg = s.warp.vreg := rfl
@[simp] theorem State.setPc_warp_vshd (pc : BitVec 48) : (s.setPc pc).warp.vshd = s.warp.vshd := rfl
@[simp] theorem State.setPc_warp_preg (pc : BitVec 48) : (s.setPc pc).warp.preg = s.warp.preg := rfl
@[simp] theorem State.setPc_warp_areg (pc : BitVec 48) : (s.setPc pc).warp.areg = s.warp.areg := rfl
@[simp] theorem State.setPc_warp_mode (pc : BitVec 48) : (s.setPc pc).warp.mode = s.warp.mode := rfl
@[simp] theorem State.setPc_warp_flg (pc : BitVec 48) : (s.setPc pc).warp.flg = s.warp.flg := rfl
@[simp] theorem State.setPc_warp_xs0 (pc : BitVec 48) : (s.setPc pc).warp.xs0 = s.warp.xs0 := rfl
@[simp] theorem State.setPc_warp_xs1 (pc : BitVec 48) : (s.setPc pc).warp.xs1 = s.warp.xs1 := rfl
@[simp] theorem State.setPc_warp_xrep (pc : BitVec 48) : (s.setPc pc).warp.xrep = s.warp.xrep := rfl
@[simp] theorem State.setPc_warp_xpc (pc : BitVec 48) : (s.setPc pc).warp.xpc = s.warp.xpc := rfl
@[simp] theorem State.setPc_warp_xmask (pc : BitVec 48) : (s.setPc pc).warp.xmask = s.warp.xmask := rfl
@[simp] theorem State.setPc_warp_xcause (pc : BitVec 48) : (s.setPc pc).warp.xcause = s.warp.xcause := rfl
@[simp] theorem State.setPc_warp_xrec (pc : BitVec 48) : (s.setPc pc).warp.xrec = s.warp.xrec := rfl
@[simp] theorem State.setPc_warp_feeds (pc : BitVec 48) : (s.setPc pc).warp.feeds = s.warp.feeds := rfl
@[simp] theorem State.setPc_warp_tdepth (pc : BitVec 48) : (s.setPc pc).warp.tdepth = s.warp.tdepth := rfl
@[simp] theorem State.setPc_warp_repip (pc : BitVec 48) : (s.setPc pc).warp.repip = s.warp.repip := rfl
@[simp] theorem State.setPc_warp_pin (pc : BitVec 48) : (s.setPc pc).warp.pin = s.warp.pin := rfl
@[simp] theorem State.setPc_warp_tileAcc (pc : BitVec 48) : (s.setPc pc).warp.tileAcc = s.warp.tileAcc := rfl
@[simp] theorem State.setPc_warp_sums (pc : BitVec 48) : (s.setPc pc).warp.sums = s.warp.sums := rfl
@[simp] theorem State.setPc_warp_dupCount (pc : BitVec 48) : (s.setPc pc).warp.dupCount = s.warp.dupCount := rfl
@[simp] theorem State.setPc_warp_lastSeal (pc : BitVec 48) : (s.setPc pc).warp.lastSeal = s.warp.lastSeal := rfl
@[simp] theorem State.setPc_warp_exclude (pc : BitVec 48) : (s.setPc pc).warp.exclude = s.warp.exclude := rfl
@[simp] theorem State.setPc_warp_rerun (pc : BitVec 48) : (s.setPc pc).warp.rerun = s.warp.rerun := rfl
@[simp] theorem State.setPc_warp_rep (pc : BitVec 48) : (s.setPc pc).warp.rep = s.warp.rep := rfl
@[simp] theorem State.setPc_warp_wait (pc : BitVec 48) : (s.setPc pc).warp.wait = s.warp.wait := rfl
@[simp] theorem State.setPc_warp_stores (pc : BitVec 48) : (s.setPc pc).warp.stores = s.warp.stores := rfl
@[simp] theorem State.setPc_warp_clkOff (pc : BitVec 48) : (s.setPc pc).warp.clkOff = s.warp.clkOff := rfl
@[simp] theorem State.setPc_warp_pending (pc : BitVec 48) : (s.setPc pc).warp.pending = s.warp.pending := rfl
@[simp] theorem State.setPc_warp_records (pc : BitVec 48) : (s.setPc pc).warp.records = s.warp.records := rfl
@[simp] theorem State.setPc_warp_backoff (pc : BitVec 48) : (s.setPc pc).warp.backoff = s.warp.backoff := rfl
@[simp] theorem State.setPc_warp_permit (pc : BitVec 48) : (s.setPc pc).warp.permit = s.warp.permit := rfl
@[simp] theorem State.setPc_warp_stepping (pc : BitVec 48) : (s.setPc pc).warp.stepping = s.warp.stepping := rfl
@[simp] theorem State.setPc_warp_resumed (pc : BitVec 48) : (s.setPc pc).warp.resumed = s.warp.resumed := rfl
@[simp] theorem State.setPc_warp_causalHits (pc : BitVec 48) : (s.setPc pc).warp.causalHits = s.warp.causalHits := rfl
@[simp] theorem State.setPc_warp_hold (pc : BitVec 48) : (s.setPc pc).warp.hold = s.warp.hold := rfl
@[simp] theorem State.setPc_warp_waitSince (pc : BitVec 48) : (s.setPc pc).warp.waitSince = s.warp.waitSince := rfl
@[simp] theorem State.setPc_warp_haltCause (pc : BitVec 48) : (s.setPc pc).warp.haltCause = s.warp.haltCause := rfl

/-! ## The warp after `setActive` -/

@[simp] theorem State.setActive_warp_pcn (m : Word) : (s.setActive m).warp.pcn = s.warp.pcn := rfl
@[simp] theorem State.setActive_warp_cw (m : Word) : (s.setActive m).warp.cw = s.warp.cw := rfl
@[simp] theorem State.setActive_warp_status (m : Word) : (s.setActive m).warp.status = s.warp.status := rfl
@[simp] theorem State.setActive_warp_launch (m : Word) : (s.setActive m).warp.launch = s.warp.launch := rfl
@[simp] theorem State.setActive_warp_gang (m : Word) : (s.setActive m).warp.gang = s.warp.gang := rfl
@[simp] theorem State.setActive_warp_block (m : Word) : (s.setActive m).warp.block = s.warp.block := rfl
@[simp] theorem State.setActive_warp_index (m : Word) : (s.setActive m).warp.index = s.warp.index := rfl
@[simp] theorem State.setActive_warp_rid (m : Word) : (s.setActive m).warp.rid = s.warp.rid := rfl
@[simp] theorem State.setActive_warp_khdr (m : Word) : (s.setActive m).warp.khdr = s.warp.khdr := rfl
@[simp] theorem State.setActive_warp_varch (m : Word) : (s.setActive m).warp.varch = s.warp.varch := rfl
@[simp] theorem State.setActive_warp_vren (m : Word) : (s.setActive m).warp.vren = s.warp.vren := rfl
@[simp] theorem State.setActive_warp_trapvec (m : Word) : (s.setActive m).warp.trapvec = s.warp.trapvec := rfl
@[simp] theorem State.setActive_warp_recVa (m : Word) : (s.setActive m).warp.recVa = s.warp.recVa := rfl
@[simp] theorem State.setActive_warp_recAt (m : Word) : (s.setActive m).warp.recAt = s.warp.recAt := rfl
@[simp] theorem State.setActive_warp_laneTrap (m : Word) : (s.setActive m).warp.laneTrap = s.warp.laneTrap := rfl
@[simp] theorem State.setActive_warp_ahead (m : Word) : (s.setActive m).warp.ahead = s.warp.ahead := rfl
@[simp] theorem State.setActive_warp_taken (m : Word) : (s.setActive m).warp.taken = s.warp.taken := rfl
@[simp] theorem State.setActive_warp_distrust (m : Word) : (s.setActive m).warp.distrust = s.warp.distrust := rfl
@[simp] theorem State.setActive_warp_resumedRep (m : Word) : (s.setActive m).warp.resumedRep = s.warp.resumedRep := rfl
@[simp] theorem State.setActive_warp_departed (m : Word) : (s.setActive m).warp.departed = s.warp.departed := rfl
@[simp] theorem State.setActive_warp_pc (m : Word) : (s.setActive m).warp.pc = s.warp.pc := rfl
@[simp] theorem State.setActive_warp_active (m : Word) : (s.setActive m).warp.active = m := rfl
@[simp] theorem State.setActive_warp_stack (m : Word) : (s.setActive m).warp.stack = s.warp.stack := rfl
@[simp] theorem State.setActive_warp_sreg (m : Word) : (s.setActive m).warp.sreg = s.warp.sreg := rfl
@[simp] theorem State.setActive_warp_sshd (m : Word) : (s.setActive m).warp.sshd = s.warp.sshd := rfl
@[simp] theorem State.setActive_warp_vreg (m : Word) : (s.setActive m).warp.vreg = s.warp.vreg := rfl
@[simp] theorem State.setActive_warp_vshd (m : Word) : (s.setActive m).warp.vshd = s.warp.vshd := rfl
@[simp] theorem State.setActive_warp_preg (m : Word) : (s.setActive m).warp.preg = s.warp.preg := rfl
@[simp] theorem State.setActive_warp_areg (m : Word) : (s.setActive m).warp.areg = s.warp.areg := rfl
@[simp] theorem State.setActive_warp_mode (m : Word) : (s.setActive m).warp.mode = s.warp.mode := rfl
@[simp] theorem State.setActive_warp_flg (m : Word) : (s.setActive m).warp.flg = s.warp.flg := rfl
@[simp] theorem State.setActive_warp_xs0 (m : Word) : (s.setActive m).warp.xs0 = s.warp.xs0 := rfl
@[simp] theorem State.setActive_warp_xs1 (m : Word) : (s.setActive m).warp.xs1 = s.warp.xs1 := rfl
@[simp] theorem State.setActive_warp_xrep (m : Word) : (s.setActive m).warp.xrep = s.warp.xrep := rfl
@[simp] theorem State.setActive_warp_xpc (m : Word) : (s.setActive m).warp.xpc = s.warp.xpc := rfl
@[simp] theorem State.setActive_warp_xmask (m : Word) : (s.setActive m).warp.xmask = s.warp.xmask := rfl
@[simp] theorem State.setActive_warp_xcause (m : Word) : (s.setActive m).warp.xcause = s.warp.xcause := rfl
@[simp] theorem State.setActive_warp_xrec (m : Word) : (s.setActive m).warp.xrec = s.warp.xrec := rfl
@[simp] theorem State.setActive_warp_feeds (m : Word) : (s.setActive m).warp.feeds = s.warp.feeds := rfl
@[simp] theorem State.setActive_warp_tdepth (m : Word) : (s.setActive m).warp.tdepth = s.warp.tdepth := rfl
@[simp] theorem State.setActive_warp_repip (m : Word) : (s.setActive m).warp.repip = s.warp.repip := rfl
@[simp] theorem State.setActive_warp_pin (m : Word) : (s.setActive m).warp.pin = s.warp.pin := rfl
@[simp] theorem State.setActive_warp_tileAcc (m : Word) : (s.setActive m).warp.tileAcc = s.warp.tileAcc := rfl
@[simp] theorem State.setActive_warp_sums (m : Word) : (s.setActive m).warp.sums = s.warp.sums := rfl
@[simp] theorem State.setActive_warp_dupCount (m : Word) : (s.setActive m).warp.dupCount = s.warp.dupCount := rfl
@[simp] theorem State.setActive_warp_lastSeal (m : Word) : (s.setActive m).warp.lastSeal = s.warp.lastSeal := rfl
@[simp] theorem State.setActive_warp_exclude (m : Word) : (s.setActive m).warp.exclude = s.warp.exclude := rfl
@[simp] theorem State.setActive_warp_rerun (m : Word) : (s.setActive m).warp.rerun = s.warp.rerun := rfl
@[simp] theorem State.setActive_warp_rep (m : Word) : (s.setActive m).warp.rep = s.warp.rep := rfl
@[simp] theorem State.setActive_warp_wait (m : Word) : (s.setActive m).warp.wait = s.warp.wait := rfl
@[simp] theorem State.setActive_warp_stores (m : Word) : (s.setActive m).warp.stores = s.warp.stores := rfl
@[simp] theorem State.setActive_warp_clkOff (m : Word) : (s.setActive m).warp.clkOff = s.warp.clkOff := rfl
@[simp] theorem State.setActive_warp_pending (m : Word) : (s.setActive m).warp.pending = s.warp.pending := rfl
@[simp] theorem State.setActive_warp_records (m : Word) : (s.setActive m).warp.records = s.warp.records := rfl
@[simp] theorem State.setActive_warp_backoff (m : Word) : (s.setActive m).warp.backoff = s.warp.backoff := rfl
@[simp] theorem State.setActive_warp_permit (m : Word) : (s.setActive m).warp.permit = s.warp.permit := rfl
@[simp] theorem State.setActive_warp_stepping (m : Word) : (s.setActive m).warp.stepping = s.warp.stepping := rfl
@[simp] theorem State.setActive_warp_resumed (m : Word) : (s.setActive m).warp.resumed = s.warp.resumed := rfl
@[simp] theorem State.setActive_warp_causalHits (m : Word) : (s.setActive m).warp.causalHits = s.warp.causalHits := rfl
@[simp] theorem State.setActive_warp_hold (m : Word) : (s.setActive m).warp.hold = s.warp.hold := rfl
@[simp] theorem State.setActive_warp_waitSince (m : Word) : (s.setActive m).warp.waitSince = s.warp.waitSince := rfl
@[simp] theorem State.setActive_warp_haltCause (m : Word) : (s.setActive m).warp.haltCause = s.warp.haltCause := rfl

/-! ## The warp after `setMode` -/

@[simp] theorem State.setMode_warp_pcn (x : DWord) : (s.setMode x).warp.pcn = s.warp.pcn := rfl
@[simp] theorem State.setMode_warp_cw (x : DWord) : (s.setMode x).warp.cw = s.warp.cw := rfl
@[simp] theorem State.setMode_warp_status (x : DWord) : (s.setMode x).warp.status = s.warp.status := rfl
@[simp] theorem State.setMode_warp_launch (x : DWord) : (s.setMode x).warp.launch = s.warp.launch := rfl
@[simp] theorem State.setMode_warp_gang (x : DWord) : (s.setMode x).warp.gang = s.warp.gang := rfl
@[simp] theorem State.setMode_warp_block (x : DWord) : (s.setMode x).warp.block = s.warp.block := rfl
@[simp] theorem State.setMode_warp_index (x : DWord) : (s.setMode x).warp.index = s.warp.index := rfl
@[simp] theorem State.setMode_warp_rid (x : DWord) : (s.setMode x).warp.rid = s.warp.rid := rfl
@[simp] theorem State.setMode_warp_khdr (x : DWord) : (s.setMode x).warp.khdr = s.warp.khdr := rfl
@[simp] theorem State.setMode_warp_varch (x : DWord) : (s.setMode x).warp.varch = s.warp.varch := rfl
@[simp] theorem State.setMode_warp_vren (x : DWord) : (s.setMode x).warp.vren = s.warp.vren := rfl
@[simp] theorem State.setMode_warp_trapvec (x : DWord) : (s.setMode x).warp.trapvec = s.warp.trapvec := rfl
@[simp] theorem State.setMode_warp_recVa (x : DWord) : (s.setMode x).warp.recVa = s.warp.recVa := rfl
@[simp] theorem State.setMode_warp_recAt (x : DWord) : (s.setMode x).warp.recAt = s.warp.recAt := rfl
@[simp] theorem State.setMode_warp_laneTrap (x : DWord) : (s.setMode x).warp.laneTrap = s.warp.laneTrap := rfl
@[simp] theorem State.setMode_warp_ahead (x : DWord) : (s.setMode x).warp.ahead = s.warp.ahead := rfl
@[simp] theorem State.setMode_warp_taken (x : DWord) : (s.setMode x).warp.taken = s.warp.taken := rfl
@[simp] theorem State.setMode_warp_distrust (x : DWord) : (s.setMode x).warp.distrust = s.warp.distrust := rfl
@[simp] theorem State.setMode_warp_resumedRep (x : DWord) : (s.setMode x).warp.resumedRep = s.warp.resumedRep := rfl
@[simp] theorem State.setMode_warp_departed (x : DWord) : (s.setMode x).warp.departed = s.warp.departed := rfl
@[simp] theorem State.setMode_warp_pc (x : DWord) : (s.setMode x).warp.pc = s.warp.pc := rfl
@[simp] theorem State.setMode_warp_active (x : DWord) : (s.setMode x).warp.active = s.warp.active := rfl
@[simp] theorem State.setMode_warp_stack (x : DWord) : (s.setMode x).warp.stack = s.warp.stack := rfl
@[simp] theorem State.setMode_warp_sreg (x : DWord) : (s.setMode x).warp.sreg = s.warp.sreg := rfl
@[simp] theorem State.setMode_warp_sshd (x : DWord) : (s.setMode x).warp.sshd = s.warp.sshd := rfl
@[simp] theorem State.setMode_warp_vreg (x : DWord) : (s.setMode x).warp.vreg = s.warp.vreg := rfl
@[simp] theorem State.setMode_warp_vshd (x : DWord) : (s.setMode x).warp.vshd = s.warp.vshd := rfl
@[simp] theorem State.setMode_warp_preg (x : DWord) : (s.setMode x).warp.preg = s.warp.preg := rfl
@[simp] theorem State.setMode_warp_areg (x : DWord) : (s.setMode x).warp.areg = s.warp.areg := rfl
@[simp] theorem State.setMode_warp_mode (x : DWord) : (s.setMode x).warp.mode = x &&& 0x000000FF3FF7FFFF#64 := rfl
@[simp] theorem State.setMode_warp_flg (x : DWord) : (s.setMode x).warp.flg = s.warp.flg := rfl
@[simp] theorem State.setMode_warp_xs0 (x : DWord) : (s.setMode x).warp.xs0 = s.warp.xs0 := rfl
@[simp] theorem State.setMode_warp_xs1 (x : DWord) : (s.setMode x).warp.xs1 = s.warp.xs1 := rfl
@[simp] theorem State.setMode_warp_xrep (x : DWord) : (s.setMode x).warp.xrep = s.warp.xrep := rfl
@[simp] theorem State.setMode_warp_xpc (x : DWord) : (s.setMode x).warp.xpc = s.warp.xpc := rfl
@[simp] theorem State.setMode_warp_xmask (x : DWord) : (s.setMode x).warp.xmask = s.warp.xmask := rfl
@[simp] theorem State.setMode_warp_xcause (x : DWord) : (s.setMode x).warp.xcause = s.warp.xcause := rfl
@[simp] theorem State.setMode_warp_xrec (x : DWord) : (s.setMode x).warp.xrec = s.warp.xrec := rfl
@[simp] theorem State.setMode_warp_feeds (x : DWord) : (s.setMode x).warp.feeds = s.warp.feeds := rfl
@[simp] theorem State.setMode_warp_tdepth (x : DWord) : (s.setMode x).warp.tdepth = s.warp.tdepth := rfl
@[simp] theorem State.setMode_warp_repip (x : DWord) : (s.setMode x).warp.repip = s.warp.repip := rfl
@[simp] theorem State.setMode_warp_pin (x : DWord) : (s.setMode x).warp.pin = s.warp.pin := rfl
@[simp] theorem State.setMode_warp_tileAcc (x : DWord) : (s.setMode x).warp.tileAcc = s.warp.tileAcc := rfl
@[simp] theorem State.setMode_warp_sums (x : DWord) : (s.setMode x).warp.sums = s.warp.sums := rfl
@[simp] theorem State.setMode_warp_dupCount (x : DWord) : (s.setMode x).warp.dupCount = s.warp.dupCount := rfl
@[simp] theorem State.setMode_warp_lastSeal (x : DWord) : (s.setMode x).warp.lastSeal = s.warp.lastSeal := rfl
@[simp] theorem State.setMode_warp_exclude (x : DWord) : (s.setMode x).warp.exclude = s.warp.exclude := rfl
@[simp] theorem State.setMode_warp_rerun (x : DWord) : (s.setMode x).warp.rerun = s.warp.rerun := rfl
@[simp] theorem State.setMode_warp_rep (x : DWord) : (s.setMode x).warp.rep = s.warp.rep := rfl
@[simp] theorem State.setMode_warp_wait (x : DWord) : (s.setMode x).warp.wait = s.warp.wait := rfl
@[simp] theorem State.setMode_warp_stores (x : DWord) : (s.setMode x).warp.stores = s.warp.stores := rfl
@[simp] theorem State.setMode_warp_clkOff (x : DWord) : (s.setMode x).warp.clkOff = s.warp.clkOff := rfl
@[simp] theorem State.setMode_warp_pending (x : DWord) : (s.setMode x).warp.pending = s.warp.pending := rfl
@[simp] theorem State.setMode_warp_records (x : DWord) : (s.setMode x).warp.records = s.warp.records := rfl
@[simp] theorem State.setMode_warp_backoff (x : DWord) : (s.setMode x).warp.backoff = s.warp.backoff := rfl
@[simp] theorem State.setMode_warp_permit (x : DWord) : (s.setMode x).warp.permit = s.warp.permit := rfl
@[simp] theorem State.setMode_warp_stepping (x : DWord) : (s.setMode x).warp.stepping = s.warp.stepping := rfl
@[simp] theorem State.setMode_warp_resumed (x : DWord) : (s.setMode x).warp.resumed = s.warp.resumed := rfl
@[simp] theorem State.setMode_warp_causalHits (x : DWord) : (s.setMode x).warp.causalHits = s.warp.causalHits := rfl
@[simp] theorem State.setMode_warp_hold (x : DWord) : (s.setMode x).warp.hold = s.warp.hold := rfl
@[simp] theorem State.setMode_warp_waitSince (x : DWord) : (s.setMode x).warp.waitSince = s.warp.waitSince := rfl
@[simp] theorem State.setMode_warp_haltCause (x : DWord) : (s.setMode x).warp.haltCause = s.warp.haltCause := rfl

/-! ## The warp after `orFlags` -/

@[simp] theorem State.orFlags_warp_pcn (f : BitVec 8) : (s.orFlags f).warp.pcn = s.warp.pcn := rfl
@[simp] theorem State.orFlags_warp_cw (f : BitVec 8) : (s.orFlags f).warp.cw = s.warp.cw := rfl
@[simp] theorem State.orFlags_warp_status (f : BitVec 8) : (s.orFlags f).warp.status = s.warp.status := rfl
@[simp] theorem State.orFlags_warp_launch (f : BitVec 8) : (s.orFlags f).warp.launch = s.warp.launch := rfl
@[simp] theorem State.orFlags_warp_gang (f : BitVec 8) : (s.orFlags f).warp.gang = s.warp.gang := rfl
@[simp] theorem State.orFlags_warp_block (f : BitVec 8) : (s.orFlags f).warp.block = s.warp.block := rfl
@[simp] theorem State.orFlags_warp_index (f : BitVec 8) : (s.orFlags f).warp.index = s.warp.index := rfl
@[simp] theorem State.orFlags_warp_rid (f : BitVec 8) : (s.orFlags f).warp.rid = s.warp.rid := rfl
@[simp] theorem State.orFlags_warp_khdr (f : BitVec 8) : (s.orFlags f).warp.khdr = s.warp.khdr := rfl
@[simp] theorem State.orFlags_warp_varch (f : BitVec 8) : (s.orFlags f).warp.varch = s.warp.varch := rfl
@[simp] theorem State.orFlags_warp_vren (f : BitVec 8) : (s.orFlags f).warp.vren = s.warp.vren := rfl
@[simp] theorem State.orFlags_warp_trapvec (f : BitVec 8) : (s.orFlags f).warp.trapvec = s.warp.trapvec := rfl
@[simp] theorem State.orFlags_warp_recVa (f : BitVec 8) : (s.orFlags f).warp.recVa = s.warp.recVa := rfl
@[simp] theorem State.orFlags_warp_recAt (f : BitVec 8) : (s.orFlags f).warp.recAt = s.warp.recAt := rfl
@[simp] theorem State.orFlags_warp_laneTrap (f : BitVec 8) : (s.orFlags f).warp.laneTrap = s.warp.laneTrap := rfl
@[simp] theorem State.orFlags_warp_ahead (f : BitVec 8) : (s.orFlags f).warp.ahead = s.warp.ahead := rfl
@[simp] theorem State.orFlags_warp_taken (f : BitVec 8) : (s.orFlags f).warp.taken = s.warp.taken := rfl
@[simp] theorem State.orFlags_warp_distrust (f : BitVec 8) : (s.orFlags f).warp.distrust = s.warp.distrust := rfl
@[simp] theorem State.orFlags_warp_resumedRep (f : BitVec 8) : (s.orFlags f).warp.resumedRep = s.warp.resumedRep := rfl
@[simp] theorem State.orFlags_warp_departed (f : BitVec 8) : (s.orFlags f).warp.departed = s.warp.departed := rfl
@[simp] theorem State.orFlags_warp_pc (f : BitVec 8) : (s.orFlags f).warp.pc = s.warp.pc := rfl
@[simp] theorem State.orFlags_warp_active (f : BitVec 8) : (s.orFlags f).warp.active = s.warp.active := rfl
@[simp] theorem State.orFlags_warp_stack (f : BitVec 8) : (s.orFlags f).warp.stack = s.warp.stack := rfl
@[simp] theorem State.orFlags_warp_sreg (f : BitVec 8) : (s.orFlags f).warp.sreg = s.warp.sreg := rfl
@[simp] theorem State.orFlags_warp_sshd (f : BitVec 8) : (s.orFlags f).warp.sshd = s.warp.sshd := rfl
@[simp] theorem State.orFlags_warp_vreg (f : BitVec 8) : (s.orFlags f).warp.vreg = s.warp.vreg := rfl
@[simp] theorem State.orFlags_warp_vshd (f : BitVec 8) : (s.orFlags f).warp.vshd = s.warp.vshd := rfl
@[simp] theorem State.orFlags_warp_preg (f : BitVec 8) : (s.orFlags f).warp.preg = s.warp.preg := rfl
@[simp] theorem State.orFlags_warp_areg (f : BitVec 8) : (s.orFlags f).warp.areg = s.warp.areg := rfl
@[simp] theorem State.orFlags_warp_mode (f : BitVec 8) : (s.orFlags f).warp.mode = s.warp.mode := rfl
@[simp] theorem State.orFlags_warp_flg (f : BitVec 8) : (s.orFlags f).warp.flg = s.warp.flg ||| f := rfl
@[simp] theorem State.orFlags_warp_xs0 (f : BitVec 8) : (s.orFlags f).warp.xs0 = s.warp.xs0 := rfl
@[simp] theorem State.orFlags_warp_xs1 (f : BitVec 8) : (s.orFlags f).warp.xs1 = s.warp.xs1 := rfl
@[simp] theorem State.orFlags_warp_xrep (f : BitVec 8) : (s.orFlags f).warp.xrep = s.warp.xrep := rfl
@[simp] theorem State.orFlags_warp_xpc (f : BitVec 8) : (s.orFlags f).warp.xpc = s.warp.xpc := rfl
@[simp] theorem State.orFlags_warp_xmask (f : BitVec 8) : (s.orFlags f).warp.xmask = s.warp.xmask := rfl
@[simp] theorem State.orFlags_warp_xcause (f : BitVec 8) : (s.orFlags f).warp.xcause = s.warp.xcause := rfl
@[simp] theorem State.orFlags_warp_xrec (f : BitVec 8) : (s.orFlags f).warp.xrec = s.warp.xrec := rfl
@[simp] theorem State.orFlags_warp_feeds (f : BitVec 8) : (s.orFlags f).warp.feeds = s.warp.feeds := rfl
@[simp] theorem State.orFlags_warp_tdepth (f : BitVec 8) : (s.orFlags f).warp.tdepth = s.warp.tdepth := rfl
@[simp] theorem State.orFlags_warp_repip (f : BitVec 8) : (s.orFlags f).warp.repip = s.warp.repip := rfl
@[simp] theorem State.orFlags_warp_pin (f : BitVec 8) : (s.orFlags f).warp.pin = s.warp.pin := rfl
@[simp] theorem State.orFlags_warp_tileAcc (f : BitVec 8) : (s.orFlags f).warp.tileAcc = s.warp.tileAcc := rfl
@[simp] theorem State.orFlags_warp_sums (f : BitVec 8) : (s.orFlags f).warp.sums = s.warp.sums := rfl
@[simp] theorem State.orFlags_warp_dupCount (f : BitVec 8) : (s.orFlags f).warp.dupCount = s.warp.dupCount := rfl
@[simp] theorem State.orFlags_warp_lastSeal (f : BitVec 8) : (s.orFlags f).warp.lastSeal = s.warp.lastSeal := rfl
@[simp] theorem State.orFlags_warp_exclude (f : BitVec 8) : (s.orFlags f).warp.exclude = s.warp.exclude := rfl
@[simp] theorem State.orFlags_warp_rerun (f : BitVec 8) : (s.orFlags f).warp.rerun = s.warp.rerun := rfl
@[simp] theorem State.orFlags_warp_rep (f : BitVec 8) : (s.orFlags f).warp.rep = s.warp.rep := rfl
@[simp] theorem State.orFlags_warp_wait (f : BitVec 8) : (s.orFlags f).warp.wait = s.warp.wait := rfl
@[simp] theorem State.orFlags_warp_stores (f : BitVec 8) : (s.orFlags f).warp.stores = s.warp.stores := rfl
@[simp] theorem State.orFlags_warp_clkOff (f : BitVec 8) : (s.orFlags f).warp.clkOff = s.warp.clkOff := rfl
@[simp] theorem State.orFlags_warp_pending (f : BitVec 8) : (s.orFlags f).warp.pending = s.warp.pending := rfl
@[simp] theorem State.orFlags_warp_records (f : BitVec 8) : (s.orFlags f).warp.records = s.warp.records := rfl
@[simp] theorem State.orFlags_warp_backoff (f : BitVec 8) : (s.orFlags f).warp.backoff = s.warp.backoff := rfl
@[simp] theorem State.orFlags_warp_permit (f : BitVec 8) : (s.orFlags f).warp.permit = s.warp.permit := rfl
@[simp] theorem State.orFlags_warp_stepping (f : BitVec 8) : (s.orFlags f).warp.stepping = s.warp.stepping := rfl
@[simp] theorem State.orFlags_warp_resumed (f : BitVec 8) : (s.orFlags f).warp.resumed = s.warp.resumed := rfl
@[simp] theorem State.orFlags_warp_causalHits (f : BitVec 8) : (s.orFlags f).warp.causalHits = s.warp.causalHits := rfl
@[simp] theorem State.orFlags_warp_hold (f : BitVec 8) : (s.orFlags f).warp.hold = s.warp.hold := rfl
@[simp] theorem State.orFlags_warp_waitSince (f : BitVec 8) : (s.orFlags f).warp.waitSince = s.warp.waitSince := rfl
@[simp] theorem State.orFlags_warp_haltCause (f : BitVec 8) : (s.orFlags f).warp.haltCause = s.warp.haltCause := rfl

/-! ## `writeS` (its register may be hard-wired) -/

@[simp] theorem State.writeS_others (r : BitVec 7) (x : DWord) (sh : Shadow) : (s.writeS r x sh).others = s.others := by unfold State.writeS; split <;> rfl
@[simp] theorem State.writeS_cores (r : BitVec 7) (x : DWord) (sh : Shadow) : (s.writeS r x sh).cores = s.cores := by unfold State.writeS; split <;> rfl
@[simp] theorem State.writeS_clusters (r : BitVec 7) (x : DWord) (sh : Shadow) : (s.writeS r x sh).clusters = s.clusters := by unfold State.writeS; split <;> rfl
@[simp] theorem State.writeS_homes (r : BitVec 7) (x : DWord) (sh : Shadow) : (s.writeS r x sh).homes = s.homes := by unfold State.writeS; split <;> rfl
@[simp] theorem State.writeS_regions (r : BitVec 7) (x : DWord) (sh : Shadow) : (s.writeS r x sh).regions = s.regions := by unfold State.writeS; split <;> rfl
@[simp] theorem State.writeS_launches (r : BitVec 7) (x : DWord) (sh : Shadow) : (s.writeS r x sh).launches = s.launches := by unfold State.writeS; split <;> rfl
@[simp] theorem State.writeS_gangs (r : BitVec 7) (x : DWord) (sh : Shadow) : (s.writeS r x sh).gangs = s.gangs := by unfold State.writeS; split <;> rfl
@[simp] theorem State.writeS_monarch (r : BitVec 7) (x : DWord) (sh : Shadow) : (s.writeS r x sh).monarch = s.monarch := by unfold State.writeS; split <;> rfl
@[simp] theorem State.writeS_fabric (r : BitVec 7) (x : DWord) (sh : Shadow) : (s.writeS r x sh).fabric = s.fabric := by unfold State.writeS; split <;> rfl
@[simp] theorem State.writeS_agenda (r : BitVec 7) (x : DWord) (sh : Shadow) : (s.writeS r x sh).agenda = s.agenda := by unfold State.writeS; split <;> rfl
@[simp] theorem State.writeS_subject (r : BitVec 7) (x : DWord) (sh : Shadow) : (s.writeS r x sh).subject = s.subject := by unfold State.writeS; split <;> rfl
@[simp] theorem State.writeS_clock (r : BitVec 7) (x : DWord) (sh : Shadow) : (s.writeS r x sh).clock = s.clock := by unfold State.writeS; split <;> rfl
@[simp] theorem State.writeS_gtime (r : BitVec 7) (x : DWord) (sh : Shadow) : (s.writeS r x sh).gtime = s.gtime := by unfold State.writeS; split <;> rfl
@[simp] theorem State.writeS_warp_pcn (r : BitVec 7) (x : DWord) (sh : Shadow) : (s.writeS r x sh).warp.pcn = s.warp.pcn := by unfold State.writeS; split <;> rfl
@[simp] theorem State.writeS_warp_cw (r : BitVec 7) (x : DWord) (sh : Shadow) : (s.writeS r x sh).warp.cw = s.warp.cw := by unfold State.writeS; split <;> rfl
@[simp] theorem State.writeS_warp_status (r : BitVec 7) (x : DWord) (sh : Shadow) : (s.writeS r x sh).warp.status = s.warp.status := by unfold State.writeS; split <;> rfl
@[simp] theorem State.writeS_warp_launch (r : BitVec 7) (x : DWord) (sh : Shadow) : (s.writeS r x sh).warp.launch = s.warp.launch := by unfold State.writeS; split <;> rfl
@[simp] theorem State.writeS_warp_gang (r : BitVec 7) (x : DWord) (sh : Shadow) : (s.writeS r x sh).warp.gang = s.warp.gang := by unfold State.writeS; split <;> rfl
@[simp] theorem State.writeS_warp_block (r : BitVec 7) (x : DWord) (sh : Shadow) : (s.writeS r x sh).warp.block = s.warp.block := by unfold State.writeS; split <;> rfl
@[simp] theorem State.writeS_warp_index (r : BitVec 7) (x : DWord) (sh : Shadow) : (s.writeS r x sh).warp.index = s.warp.index := by unfold State.writeS; split <;> rfl
@[simp] theorem State.writeS_warp_rid (r : BitVec 7) (x : DWord) (sh : Shadow) : (s.writeS r x sh).warp.rid = s.warp.rid := by unfold State.writeS; split <;> rfl
@[simp] theorem State.writeS_warp_khdr (r : BitVec 7) (x : DWord) (sh : Shadow) : (s.writeS r x sh).warp.khdr = s.warp.khdr := by unfold State.writeS; split <;> rfl
@[simp] theorem State.writeS_warp_varch (r : BitVec 7) (x : DWord) (sh : Shadow) : (s.writeS r x sh).warp.varch = s.warp.varch := by unfold State.writeS; split <;> rfl
@[simp] theorem State.writeS_warp_vren (r : BitVec 7) (x : DWord) (sh : Shadow) : (s.writeS r x sh).warp.vren = s.warp.vren := by unfold State.writeS; split <;> rfl
@[simp] theorem State.writeS_warp_trapvec (r : BitVec 7) (x : DWord) (sh : Shadow) : (s.writeS r x sh).warp.trapvec = s.warp.trapvec := by unfold State.writeS; split <;> rfl
@[simp] theorem State.writeS_warp_recVa (r : BitVec 7) (x : DWord) (sh : Shadow) : (s.writeS r x sh).warp.recVa = s.warp.recVa := by unfold State.writeS; split <;> rfl
@[simp] theorem State.writeS_warp_recAt (r : BitVec 7) (x : DWord) (sh : Shadow) : (s.writeS r x sh).warp.recAt = s.warp.recAt := by unfold State.writeS; split <;> rfl
@[simp] theorem State.writeS_warp_laneTrap (r : BitVec 7) (x : DWord) (sh : Shadow) : (s.writeS r x sh).warp.laneTrap = s.warp.laneTrap := by unfold State.writeS; split <;> rfl
@[simp] theorem State.writeS_warp_ahead (r : BitVec 7) (x : DWord) (sh : Shadow) : (s.writeS r x sh).warp.ahead = s.warp.ahead := by unfold State.writeS; split <;> rfl
@[simp] theorem State.writeS_warp_taken (r : BitVec 7) (x : DWord) (sh : Shadow) : (s.writeS r x sh).warp.taken = s.warp.taken := by unfold State.writeS; split <;> rfl
@[simp] theorem State.writeS_warp_distrust (r : BitVec 7) (x : DWord) (sh : Shadow) : (s.writeS r x sh).warp.distrust = s.warp.distrust := by unfold State.writeS; split <;> rfl
@[simp] theorem State.writeS_warp_resumedRep (r : BitVec 7) (x : DWord) (sh : Shadow) : (s.writeS r x sh).warp.resumedRep = s.warp.resumedRep := by unfold State.writeS; split <;> rfl
@[simp] theorem State.writeS_warp_departed (r : BitVec 7) (x : DWord) (sh : Shadow) : (s.writeS r x sh).warp.departed = s.warp.departed := by unfold State.writeS; split <;> rfl
@[simp] theorem State.writeS_warp_pc (r : BitVec 7) (x : DWord) (sh : Shadow) : (s.writeS r x sh).warp.pc = s.warp.pc := by unfold State.writeS; split <;> rfl
@[simp] theorem State.writeS_warp_active (r : BitVec 7) (x : DWord) (sh : Shadow) : (s.writeS r x sh).warp.active = s.warp.active := by unfold State.writeS; split <;> rfl
@[simp] theorem State.writeS_warp_stack (r : BitVec 7) (x : DWord) (sh : Shadow) : (s.writeS r x sh).warp.stack = s.warp.stack := by unfold State.writeS; split <;> rfl
@[simp] theorem State.writeS_warp_vreg (r : BitVec 7) (x : DWord) (sh : Shadow) : (s.writeS r x sh).warp.vreg = s.warp.vreg := by unfold State.writeS; split <;> rfl
@[simp] theorem State.writeS_warp_vshd (r : BitVec 7) (x : DWord) (sh : Shadow) : (s.writeS r x sh).warp.vshd = s.warp.vshd := by unfold State.writeS; split <;> rfl
@[simp] theorem State.writeS_warp_preg (r : BitVec 7) (x : DWord) (sh : Shadow) : (s.writeS r x sh).warp.preg = s.warp.preg := by unfold State.writeS; split <;> rfl
@[simp] theorem State.writeS_warp_areg (r : BitVec 7) (x : DWord) (sh : Shadow) : (s.writeS r x sh).warp.areg = s.warp.areg := by unfold State.writeS; split <;> rfl
@[simp] theorem State.writeS_warp_mode (r : BitVec 7) (x : DWord) (sh : Shadow) : (s.writeS r x sh).warp.mode = s.warp.mode := by unfold State.writeS; split <;> rfl
@[simp] theorem State.writeS_warp_flg (r : BitVec 7) (x : DWord) (sh : Shadow) : (s.writeS r x sh).warp.flg = s.warp.flg := by unfold State.writeS; split <;> rfl
@[simp] theorem State.writeS_warp_xs0 (r : BitVec 7) (x : DWord) (sh : Shadow) : (s.writeS r x sh).warp.xs0 = s.warp.xs0 := by unfold State.writeS; split <;> rfl
@[simp] theorem State.writeS_warp_xs1 (r : BitVec 7) (x : DWord) (sh : Shadow) : (s.writeS r x sh).warp.xs1 = s.warp.xs1 := by unfold State.writeS; split <;> rfl
@[simp] theorem State.writeS_warp_xrep (r : BitVec 7) (x : DWord) (sh : Shadow) : (s.writeS r x sh).warp.xrep = s.warp.xrep := by unfold State.writeS; split <;> rfl
@[simp] theorem State.writeS_warp_xpc (r : BitVec 7) (x : DWord) (sh : Shadow) : (s.writeS r x sh).warp.xpc = s.warp.xpc := by unfold State.writeS; split <;> rfl
@[simp] theorem State.writeS_warp_xmask (r : BitVec 7) (x : DWord) (sh : Shadow) : (s.writeS r x sh).warp.xmask = s.warp.xmask := by unfold State.writeS; split <;> rfl
@[simp] theorem State.writeS_warp_xcause (r : BitVec 7) (x : DWord) (sh : Shadow) : (s.writeS r x sh).warp.xcause = s.warp.xcause := by unfold State.writeS; split <;> rfl
@[simp] theorem State.writeS_warp_xrec (r : BitVec 7) (x : DWord) (sh : Shadow) : (s.writeS r x sh).warp.xrec = s.warp.xrec := by unfold State.writeS; split <;> rfl
@[simp] theorem State.writeS_warp_feeds (r : BitVec 7) (x : DWord) (sh : Shadow) : (s.writeS r x sh).warp.feeds = s.warp.feeds := by unfold State.writeS; split <;> rfl
@[simp] theorem State.writeS_warp_tdepth (r : BitVec 7) (x : DWord) (sh : Shadow) : (s.writeS r x sh).warp.tdepth = s.warp.tdepth := by unfold State.writeS; split <;> rfl
@[simp] theorem State.writeS_warp_repip (r : BitVec 7) (x : DWord) (sh : Shadow) : (s.writeS r x sh).warp.repip = s.warp.repip := by unfold State.writeS; split <;> rfl
@[simp] theorem State.writeS_warp_pin (r : BitVec 7) (x : DWord) (sh : Shadow) : (s.writeS r x sh).warp.pin = s.warp.pin := by unfold State.writeS; split <;> rfl
@[simp] theorem State.writeS_warp_tileAcc (r : BitVec 7) (x : DWord) (sh : Shadow) : (s.writeS r x sh).warp.tileAcc = s.warp.tileAcc := by unfold State.writeS; split <;> rfl
@[simp] theorem State.writeS_warp_sums (r : BitVec 7) (x : DWord) (sh : Shadow) : (s.writeS r x sh).warp.sums = s.warp.sums := by unfold State.writeS; split <;> rfl
@[simp] theorem State.writeS_warp_dupCount (r : BitVec 7) (x : DWord) (sh : Shadow) : (s.writeS r x sh).warp.dupCount = s.warp.dupCount := by unfold State.writeS; split <;> rfl
@[simp] theorem State.writeS_warp_lastSeal (r : BitVec 7) (x : DWord) (sh : Shadow) : (s.writeS r x sh).warp.lastSeal = s.warp.lastSeal := by unfold State.writeS; split <;> rfl
@[simp] theorem State.writeS_warp_exclude (r : BitVec 7) (x : DWord) (sh : Shadow) : (s.writeS r x sh).warp.exclude = s.warp.exclude := by unfold State.writeS; split <;> rfl
@[simp] theorem State.writeS_warp_rerun (r : BitVec 7) (x : DWord) (sh : Shadow) : (s.writeS r x sh).warp.rerun = s.warp.rerun := by unfold State.writeS; split <;> rfl
@[simp] theorem State.writeS_warp_rep (r : BitVec 7) (x : DWord) (sh : Shadow) : (s.writeS r x sh).warp.rep = s.warp.rep := by unfold State.writeS; split <;> rfl
@[simp] theorem State.writeS_warp_wait (r : BitVec 7) (x : DWord) (sh : Shadow) : (s.writeS r x sh).warp.wait = s.warp.wait := by unfold State.writeS; split <;> rfl
@[simp] theorem State.writeS_warp_stores (r : BitVec 7) (x : DWord) (sh : Shadow) : (s.writeS r x sh).warp.stores = s.warp.stores := by unfold State.writeS; split <;> rfl
@[simp] theorem State.writeS_warp_clkOff (r : BitVec 7) (x : DWord) (sh : Shadow) : (s.writeS r x sh).warp.clkOff = s.warp.clkOff := by unfold State.writeS; split <;> rfl
@[simp] theorem State.writeS_warp_pending (r : BitVec 7) (x : DWord) (sh : Shadow) : (s.writeS r x sh).warp.pending = s.warp.pending := by unfold State.writeS; split <;> rfl
@[simp] theorem State.writeS_warp_records (r : BitVec 7) (x : DWord) (sh : Shadow) : (s.writeS r x sh).warp.records = s.warp.records := by unfold State.writeS; split <;> rfl
@[simp] theorem State.writeS_warp_backoff (r : BitVec 7) (x : DWord) (sh : Shadow) : (s.writeS r x sh).warp.backoff = s.warp.backoff := by unfold State.writeS; split <;> rfl
@[simp] theorem State.writeS_warp_permit (r : BitVec 7) (x : DWord) (sh : Shadow) : (s.writeS r x sh).warp.permit = s.warp.permit := by unfold State.writeS; split <;> rfl
@[simp] theorem State.writeS_warp_stepping (r : BitVec 7) (x : DWord) (sh : Shadow) : (s.writeS r x sh).warp.stepping = s.warp.stepping := by unfold State.writeS; split <;> rfl
@[simp] theorem State.writeS_warp_resumed (r : BitVec 7) (x : DWord) (sh : Shadow) : (s.writeS r x sh).warp.resumed = s.warp.resumed := by unfold State.writeS; split <;> rfl
@[simp] theorem State.writeS_warp_causalHits (r : BitVec 7) (x : DWord) (sh : Shadow) : (s.writeS r x sh).warp.causalHits = s.warp.causalHits := by unfold State.writeS; split <;> rfl
@[simp] theorem State.writeS_warp_hold (r : BitVec 7) (x : DWord) (sh : Shadow) : (s.writeS r x sh).warp.hold = s.warp.hold := by unfold State.writeS; split <;> rfl
@[simp] theorem State.writeS_warp_waitSince (r : BitVec 7) (x : DWord) (sh : Shadow) : (s.writeS r x sh).warp.waitSince = s.warp.waitSince := by unfold State.writeS; split <;> rfl
@[simp] theorem State.writeS_warp_haltCause (r : BitVec 7) (x : DWord) (sh : Shadow) : (s.writeS r x sh).warp.haltCause = s.warp.haltCause := by unfold State.writeS; split <;> rfl

/-! ## `refineS` (its register may be hard-wired) -/

@[simp] theorem State.refineS_others (r : BitVec 7) (sh : Shadow) : (s.refineS r sh).others = s.others := by unfold State.refineS; split <;> rfl
@[simp] theorem State.refineS_cores (r : BitVec 7) (sh : Shadow) : (s.refineS r sh).cores = s.cores := by unfold State.refineS; split <;> rfl
@[simp] theorem State.refineS_clusters (r : BitVec 7) (sh : Shadow) : (s.refineS r sh).clusters = s.clusters := by unfold State.refineS; split <;> rfl
@[simp] theorem State.refineS_homes (r : BitVec 7) (sh : Shadow) : (s.refineS r sh).homes = s.homes := by unfold State.refineS; split <;> rfl
@[simp] theorem State.refineS_regions (r : BitVec 7) (sh : Shadow) : (s.refineS r sh).regions = s.regions := by unfold State.refineS; split <;> rfl
@[simp] theorem State.refineS_launches (r : BitVec 7) (sh : Shadow) : (s.refineS r sh).launches = s.launches := by unfold State.refineS; split <;> rfl
@[simp] theorem State.refineS_gangs (r : BitVec 7) (sh : Shadow) : (s.refineS r sh).gangs = s.gangs := by unfold State.refineS; split <;> rfl
@[simp] theorem State.refineS_monarch (r : BitVec 7) (sh : Shadow) : (s.refineS r sh).monarch = s.monarch := by unfold State.refineS; split <;> rfl
@[simp] theorem State.refineS_fabric (r : BitVec 7) (sh : Shadow) : (s.refineS r sh).fabric = s.fabric := by unfold State.refineS; split <;> rfl
@[simp] theorem State.refineS_agenda (r : BitVec 7) (sh : Shadow) : (s.refineS r sh).agenda = s.agenda := by unfold State.refineS; split <;> rfl
@[simp] theorem State.refineS_subject (r : BitVec 7) (sh : Shadow) : (s.refineS r sh).subject = s.subject := by unfold State.refineS; split <;> rfl
@[simp] theorem State.refineS_clock (r : BitVec 7) (sh : Shadow) : (s.refineS r sh).clock = s.clock := by unfold State.refineS; split <;> rfl
@[simp] theorem State.refineS_gtime (r : BitVec 7) (sh : Shadow) : (s.refineS r sh).gtime = s.gtime := by unfold State.refineS; split <;> rfl
@[simp] theorem State.refineS_warp_pcn (r : BitVec 7) (sh : Shadow) : (s.refineS r sh).warp.pcn = s.warp.pcn := by unfold State.refineS; split <;> rfl
@[simp] theorem State.refineS_warp_cw (r : BitVec 7) (sh : Shadow) : (s.refineS r sh).warp.cw = s.warp.cw := by unfold State.refineS; split <;> rfl
@[simp] theorem State.refineS_warp_status (r : BitVec 7) (sh : Shadow) : (s.refineS r sh).warp.status = s.warp.status := by unfold State.refineS; split <;> rfl
@[simp] theorem State.refineS_warp_launch (r : BitVec 7) (sh : Shadow) : (s.refineS r sh).warp.launch = s.warp.launch := by unfold State.refineS; split <;> rfl
@[simp] theorem State.refineS_warp_gang (r : BitVec 7) (sh : Shadow) : (s.refineS r sh).warp.gang = s.warp.gang := by unfold State.refineS; split <;> rfl
@[simp] theorem State.refineS_warp_block (r : BitVec 7) (sh : Shadow) : (s.refineS r sh).warp.block = s.warp.block := by unfold State.refineS; split <;> rfl
@[simp] theorem State.refineS_warp_index (r : BitVec 7) (sh : Shadow) : (s.refineS r sh).warp.index = s.warp.index := by unfold State.refineS; split <;> rfl
@[simp] theorem State.refineS_warp_rid (r : BitVec 7) (sh : Shadow) : (s.refineS r sh).warp.rid = s.warp.rid := by unfold State.refineS; split <;> rfl
@[simp] theorem State.refineS_warp_khdr (r : BitVec 7) (sh : Shadow) : (s.refineS r sh).warp.khdr = s.warp.khdr := by unfold State.refineS; split <;> rfl
@[simp] theorem State.refineS_warp_varch (r : BitVec 7) (sh : Shadow) : (s.refineS r sh).warp.varch = s.warp.varch := by unfold State.refineS; split <;> rfl
@[simp] theorem State.refineS_warp_vren (r : BitVec 7) (sh : Shadow) : (s.refineS r sh).warp.vren = s.warp.vren := by unfold State.refineS; split <;> rfl
@[simp] theorem State.refineS_warp_trapvec (r : BitVec 7) (sh : Shadow) : (s.refineS r sh).warp.trapvec = s.warp.trapvec := by unfold State.refineS; split <;> rfl
@[simp] theorem State.refineS_warp_recVa (r : BitVec 7) (sh : Shadow) : (s.refineS r sh).warp.recVa = s.warp.recVa := by unfold State.refineS; split <;> rfl
@[simp] theorem State.refineS_warp_recAt (r : BitVec 7) (sh : Shadow) : (s.refineS r sh).warp.recAt = s.warp.recAt := by unfold State.refineS; split <;> rfl
@[simp] theorem State.refineS_warp_laneTrap (r : BitVec 7) (sh : Shadow) : (s.refineS r sh).warp.laneTrap = s.warp.laneTrap := by unfold State.refineS; split <;> rfl
@[simp] theorem State.refineS_warp_ahead (r : BitVec 7) (sh : Shadow) : (s.refineS r sh).warp.ahead = s.warp.ahead := by unfold State.refineS; split <;> rfl
@[simp] theorem State.refineS_warp_taken (r : BitVec 7) (sh : Shadow) : (s.refineS r sh).warp.taken = s.warp.taken := by unfold State.refineS; split <;> rfl
@[simp] theorem State.refineS_warp_distrust (r : BitVec 7) (sh : Shadow) : (s.refineS r sh).warp.distrust = s.warp.distrust := by unfold State.refineS; split <;> rfl
@[simp] theorem State.refineS_warp_resumedRep (r : BitVec 7) (sh : Shadow) : (s.refineS r sh).warp.resumedRep = s.warp.resumedRep := by unfold State.refineS; split <;> rfl
@[simp] theorem State.refineS_warp_departed (r : BitVec 7) (sh : Shadow) : (s.refineS r sh).warp.departed = s.warp.departed := by unfold State.refineS; split <;> rfl
@[simp] theorem State.refineS_warp_pc (r : BitVec 7) (sh : Shadow) : (s.refineS r sh).warp.pc = s.warp.pc := by unfold State.refineS; split <;> rfl
@[simp] theorem State.refineS_warp_active (r : BitVec 7) (sh : Shadow) : (s.refineS r sh).warp.active = s.warp.active := by unfold State.refineS; split <;> rfl
@[simp] theorem State.refineS_warp_stack (r : BitVec 7) (sh : Shadow) : (s.refineS r sh).warp.stack = s.warp.stack := by unfold State.refineS; split <;> rfl
@[simp] theorem State.refineS_warp_sreg (r : BitVec 7) (sh : Shadow) : (s.refineS r sh).warp.sreg = s.warp.sreg := by unfold State.refineS; split <;> rfl
@[simp] theorem State.refineS_warp_vreg (r : BitVec 7) (sh : Shadow) : (s.refineS r sh).warp.vreg = s.warp.vreg := by unfold State.refineS; split <;> rfl
@[simp] theorem State.refineS_warp_vshd (r : BitVec 7) (sh : Shadow) : (s.refineS r sh).warp.vshd = s.warp.vshd := by unfold State.refineS; split <;> rfl
@[simp] theorem State.refineS_warp_preg (r : BitVec 7) (sh : Shadow) : (s.refineS r sh).warp.preg = s.warp.preg := by unfold State.refineS; split <;> rfl
@[simp] theorem State.refineS_warp_areg (r : BitVec 7) (sh : Shadow) : (s.refineS r sh).warp.areg = s.warp.areg := by unfold State.refineS; split <;> rfl
@[simp] theorem State.refineS_warp_mode (r : BitVec 7) (sh : Shadow) : (s.refineS r sh).warp.mode = s.warp.mode := by unfold State.refineS; split <;> rfl
@[simp] theorem State.refineS_warp_flg (r : BitVec 7) (sh : Shadow) : (s.refineS r sh).warp.flg = s.warp.flg := by unfold State.refineS; split <;> rfl
@[simp] theorem State.refineS_warp_xs0 (r : BitVec 7) (sh : Shadow) : (s.refineS r sh).warp.xs0 = s.warp.xs0 := by unfold State.refineS; split <;> rfl
@[simp] theorem State.refineS_warp_xs1 (r : BitVec 7) (sh : Shadow) : (s.refineS r sh).warp.xs1 = s.warp.xs1 := by unfold State.refineS; split <;> rfl
@[simp] theorem State.refineS_warp_xrep (r : BitVec 7) (sh : Shadow) : (s.refineS r sh).warp.xrep = s.warp.xrep := by unfold State.refineS; split <;> rfl
@[simp] theorem State.refineS_warp_xpc (r : BitVec 7) (sh : Shadow) : (s.refineS r sh).warp.xpc = s.warp.xpc := by unfold State.refineS; split <;> rfl
@[simp] theorem State.refineS_warp_xmask (r : BitVec 7) (sh : Shadow) : (s.refineS r sh).warp.xmask = s.warp.xmask := by unfold State.refineS; split <;> rfl
@[simp] theorem State.refineS_warp_xcause (r : BitVec 7) (sh : Shadow) : (s.refineS r sh).warp.xcause = s.warp.xcause := by unfold State.refineS; split <;> rfl
@[simp] theorem State.refineS_warp_xrec (r : BitVec 7) (sh : Shadow) : (s.refineS r sh).warp.xrec = s.warp.xrec := by unfold State.refineS; split <;> rfl
@[simp] theorem State.refineS_warp_feeds (r : BitVec 7) (sh : Shadow) : (s.refineS r sh).warp.feeds = s.warp.feeds := by unfold State.refineS; split <;> rfl
@[simp] theorem State.refineS_warp_tdepth (r : BitVec 7) (sh : Shadow) : (s.refineS r sh).warp.tdepth = s.warp.tdepth := by unfold State.refineS; split <;> rfl
@[simp] theorem State.refineS_warp_repip (r : BitVec 7) (sh : Shadow) : (s.refineS r sh).warp.repip = s.warp.repip := by unfold State.refineS; split <;> rfl
@[simp] theorem State.refineS_warp_pin (r : BitVec 7) (sh : Shadow) : (s.refineS r sh).warp.pin = s.warp.pin := by unfold State.refineS; split <;> rfl
@[simp] theorem State.refineS_warp_tileAcc (r : BitVec 7) (sh : Shadow) : (s.refineS r sh).warp.tileAcc = s.warp.tileAcc := by unfold State.refineS; split <;> rfl
@[simp] theorem State.refineS_warp_sums (r : BitVec 7) (sh : Shadow) : (s.refineS r sh).warp.sums = s.warp.sums := by unfold State.refineS; split <;> rfl
@[simp] theorem State.refineS_warp_dupCount (r : BitVec 7) (sh : Shadow) : (s.refineS r sh).warp.dupCount = s.warp.dupCount := by unfold State.refineS; split <;> rfl
@[simp] theorem State.refineS_warp_lastSeal (r : BitVec 7) (sh : Shadow) : (s.refineS r sh).warp.lastSeal = s.warp.lastSeal := by unfold State.refineS; split <;> rfl
@[simp] theorem State.refineS_warp_exclude (r : BitVec 7) (sh : Shadow) : (s.refineS r sh).warp.exclude = s.warp.exclude := by unfold State.refineS; split <;> rfl
@[simp] theorem State.refineS_warp_rerun (r : BitVec 7) (sh : Shadow) : (s.refineS r sh).warp.rerun = s.warp.rerun := by unfold State.refineS; split <;> rfl
@[simp] theorem State.refineS_warp_rep (r : BitVec 7) (sh : Shadow) : (s.refineS r sh).warp.rep = s.warp.rep := by unfold State.refineS; split <;> rfl
@[simp] theorem State.refineS_warp_wait (r : BitVec 7) (sh : Shadow) : (s.refineS r sh).warp.wait = s.warp.wait := by unfold State.refineS; split <;> rfl
@[simp] theorem State.refineS_warp_stores (r : BitVec 7) (sh : Shadow) : (s.refineS r sh).warp.stores = s.warp.stores := by unfold State.refineS; split <;> rfl
@[simp] theorem State.refineS_warp_clkOff (r : BitVec 7) (sh : Shadow) : (s.refineS r sh).warp.clkOff = s.warp.clkOff := by unfold State.refineS; split <;> rfl
@[simp] theorem State.refineS_warp_pending (r : BitVec 7) (sh : Shadow) : (s.refineS r sh).warp.pending = s.warp.pending := by unfold State.refineS; split <;> rfl
@[simp] theorem State.refineS_warp_records (r : BitVec 7) (sh : Shadow) : (s.refineS r sh).warp.records = s.warp.records := by unfold State.refineS; split <;> rfl
@[simp] theorem State.refineS_warp_backoff (r : BitVec 7) (sh : Shadow) : (s.refineS r sh).warp.backoff = s.warp.backoff := by unfold State.refineS; split <;> rfl
@[simp] theorem State.refineS_warp_permit (r : BitVec 7) (sh : Shadow) : (s.refineS r sh).warp.permit = s.warp.permit := by unfold State.refineS; split <;> rfl
@[simp] theorem State.refineS_warp_stepping (r : BitVec 7) (sh : Shadow) : (s.refineS r sh).warp.stepping = s.warp.stepping := by unfold State.refineS; split <;> rfl
@[simp] theorem State.refineS_warp_resumed (r : BitVec 7) (sh : Shadow) : (s.refineS r sh).warp.resumed = s.warp.resumed := by unfold State.refineS; split <;> rfl
@[simp] theorem State.refineS_warp_causalHits (r : BitVec 7) (sh : Shadow) : (s.refineS r sh).warp.causalHits = s.warp.causalHits := by unfold State.refineS; split <;> rfl
@[simp] theorem State.refineS_warp_hold (r : BitVec 7) (sh : Shadow) : (s.refineS r sh).warp.hold = s.warp.hold := by unfold State.refineS; split <;> rfl
@[simp] theorem State.refineS_warp_waitSince (r : BitVec 7) (sh : Shadow) : (s.refineS r sh).warp.waitSince = s.warp.waitSince := by unfold State.refineS; split <;> rfl
@[simp] theorem State.refineS_warp_haltCause (r : BitVec 7) (sh : Shadow) : (s.refineS r sh).warp.haltCause = s.warp.haltCause := by unfold State.refineS; split <;> rfl

/-! ## `writeP` (its register may be hard-wired) -/

@[simp] theorem State.writeP_others {n : Nat} (r : BitVec n) (mask x : Word) : (s.writeP r mask x).others = s.others := by unfold State.writeP; split <;> rfl
@[simp] theorem State.writeP_cores {n : Nat} (r : BitVec n) (mask x : Word) : (s.writeP r mask x).cores = s.cores := by unfold State.writeP; split <;> rfl
@[simp] theorem State.writeP_clusters {n : Nat} (r : BitVec n) (mask x : Word) : (s.writeP r mask x).clusters = s.clusters := by unfold State.writeP; split <;> rfl
@[simp] theorem State.writeP_homes {n : Nat} (r : BitVec n) (mask x : Word) : (s.writeP r mask x).homes = s.homes := by unfold State.writeP; split <;> rfl
@[simp] theorem State.writeP_regions {n : Nat} (r : BitVec n) (mask x : Word) : (s.writeP r mask x).regions = s.regions := by unfold State.writeP; split <;> rfl
@[simp] theorem State.writeP_launches {n : Nat} (r : BitVec n) (mask x : Word) : (s.writeP r mask x).launches = s.launches := by unfold State.writeP; split <;> rfl
@[simp] theorem State.writeP_gangs {n : Nat} (r : BitVec n) (mask x : Word) : (s.writeP r mask x).gangs = s.gangs := by unfold State.writeP; split <;> rfl
@[simp] theorem State.writeP_monarch {n : Nat} (r : BitVec n) (mask x : Word) : (s.writeP r mask x).monarch = s.monarch := by unfold State.writeP; split <;> rfl
@[simp] theorem State.writeP_fabric {n : Nat} (r : BitVec n) (mask x : Word) : (s.writeP r mask x).fabric = s.fabric := by unfold State.writeP; split <;> rfl
@[simp] theorem State.writeP_agenda {n : Nat} (r : BitVec n) (mask x : Word) : (s.writeP r mask x).agenda = s.agenda := by unfold State.writeP; split <;> rfl
@[simp] theorem State.writeP_subject {n : Nat} (r : BitVec n) (mask x : Word) : (s.writeP r mask x).subject = s.subject := by unfold State.writeP; split <;> rfl
@[simp] theorem State.writeP_clock {n : Nat} (r : BitVec n) (mask x : Word) : (s.writeP r mask x).clock = s.clock := by unfold State.writeP; split <;> rfl
@[simp] theorem State.writeP_gtime {n : Nat} (r : BitVec n) (mask x : Word) : (s.writeP r mask x).gtime = s.gtime := by unfold State.writeP; split <;> rfl
@[simp] theorem State.writeP_warp_pcn {n : Nat} (r : BitVec n) (mask x : Word) : (s.writeP r mask x).warp.pcn = s.warp.pcn := by unfold State.writeP; split <;> rfl
@[simp] theorem State.writeP_warp_cw {n : Nat} (r : BitVec n) (mask x : Word) : (s.writeP r mask x).warp.cw = s.warp.cw := by unfold State.writeP; split <;> rfl
@[simp] theorem State.writeP_warp_status {n : Nat} (r : BitVec n) (mask x : Word) : (s.writeP r mask x).warp.status = s.warp.status := by unfold State.writeP; split <;> rfl
@[simp] theorem State.writeP_warp_launch {n : Nat} (r : BitVec n) (mask x : Word) : (s.writeP r mask x).warp.launch = s.warp.launch := by unfold State.writeP; split <;> rfl
@[simp] theorem State.writeP_warp_gang {n : Nat} (r : BitVec n) (mask x : Word) : (s.writeP r mask x).warp.gang = s.warp.gang := by unfold State.writeP; split <;> rfl
@[simp] theorem State.writeP_warp_block {n : Nat} (r : BitVec n) (mask x : Word) : (s.writeP r mask x).warp.block = s.warp.block := by unfold State.writeP; split <;> rfl
@[simp] theorem State.writeP_warp_index {n : Nat} (r : BitVec n) (mask x : Word) : (s.writeP r mask x).warp.index = s.warp.index := by unfold State.writeP; split <;> rfl
@[simp] theorem State.writeP_warp_rid {n : Nat} (r : BitVec n) (mask x : Word) : (s.writeP r mask x).warp.rid = s.warp.rid := by unfold State.writeP; split <;> rfl
@[simp] theorem State.writeP_warp_khdr {n : Nat} (r : BitVec n) (mask x : Word) : (s.writeP r mask x).warp.khdr = s.warp.khdr := by unfold State.writeP; split <;> rfl
@[simp] theorem State.writeP_warp_varch {n : Nat} (r : BitVec n) (mask x : Word) : (s.writeP r mask x).warp.varch = s.warp.varch := by unfold State.writeP; split <;> rfl
@[simp] theorem State.writeP_warp_vren {n : Nat} (r : BitVec n) (mask x : Word) : (s.writeP r mask x).warp.vren = s.warp.vren := by unfold State.writeP; split <;> rfl
@[simp] theorem State.writeP_warp_trapvec {n : Nat} (r : BitVec n) (mask x : Word) : (s.writeP r mask x).warp.trapvec = s.warp.trapvec := by unfold State.writeP; split <;> rfl
@[simp] theorem State.writeP_warp_recVa {n : Nat} (r : BitVec n) (mask x : Word) : (s.writeP r mask x).warp.recVa = s.warp.recVa := by unfold State.writeP; split <;> rfl
@[simp] theorem State.writeP_warp_recAt {n : Nat} (r : BitVec n) (mask x : Word) : (s.writeP r mask x).warp.recAt = s.warp.recAt := by unfold State.writeP; split <;> rfl
@[simp] theorem State.writeP_warp_laneTrap {n : Nat} (r : BitVec n) (mask x : Word) : (s.writeP r mask x).warp.laneTrap = s.warp.laneTrap := by unfold State.writeP; split <;> rfl
@[simp] theorem State.writeP_warp_ahead {n : Nat} (r : BitVec n) (mask x : Word) : (s.writeP r mask x).warp.ahead = s.warp.ahead := by unfold State.writeP; split <;> rfl
@[simp] theorem State.writeP_warp_taken {n : Nat} (r : BitVec n) (mask x : Word) : (s.writeP r mask x).warp.taken = s.warp.taken := by unfold State.writeP; split <;> rfl
@[simp] theorem State.writeP_warp_distrust {n : Nat} (r : BitVec n) (mask x : Word) : (s.writeP r mask x).warp.distrust = s.warp.distrust := by unfold State.writeP; split <;> rfl
@[simp] theorem State.writeP_warp_resumedRep {n : Nat} (r : BitVec n) (mask x : Word) : (s.writeP r mask x).warp.resumedRep = s.warp.resumedRep := by unfold State.writeP; split <;> rfl
@[simp] theorem State.writeP_warp_departed {n : Nat} (r : BitVec n) (mask x : Word) : (s.writeP r mask x).warp.departed = s.warp.departed := by unfold State.writeP; split <;> rfl
@[simp] theorem State.writeP_warp_pc {n : Nat} (r : BitVec n) (mask x : Word) : (s.writeP r mask x).warp.pc = s.warp.pc := by unfold State.writeP; split <;> rfl
@[simp] theorem State.writeP_warp_active {n : Nat} (r : BitVec n) (mask x : Word) : (s.writeP r mask x).warp.active = s.warp.active := by unfold State.writeP; split <;> rfl
@[simp] theorem State.writeP_warp_stack {n : Nat} (r : BitVec n) (mask x : Word) : (s.writeP r mask x).warp.stack = s.warp.stack := by unfold State.writeP; split <;> rfl
@[simp] theorem State.writeP_warp_sreg {n : Nat} (r : BitVec n) (mask x : Word) : (s.writeP r mask x).warp.sreg = s.warp.sreg := by unfold State.writeP; split <;> rfl
@[simp] theorem State.writeP_warp_sshd {n : Nat} (r : BitVec n) (mask x : Word) : (s.writeP r mask x).warp.sshd = s.warp.sshd := by unfold State.writeP; split <;> rfl
@[simp] theorem State.writeP_warp_vreg {n : Nat} (r : BitVec n) (mask x : Word) : (s.writeP r mask x).warp.vreg = s.warp.vreg := by unfold State.writeP; split <;> rfl
@[simp] theorem State.writeP_warp_vshd {n : Nat} (r : BitVec n) (mask x : Word) : (s.writeP r mask x).warp.vshd = s.warp.vshd := by unfold State.writeP; split <;> rfl
@[simp] theorem State.writeP_warp_areg {n : Nat} (r : BitVec n) (mask x : Word) : (s.writeP r mask x).warp.areg = s.warp.areg := by unfold State.writeP; split <;> rfl
@[simp] theorem State.writeP_warp_mode {n : Nat} (r : BitVec n) (mask x : Word) : (s.writeP r mask x).warp.mode = s.warp.mode := by unfold State.writeP; split <;> rfl
@[simp] theorem State.writeP_warp_flg {n : Nat} (r : BitVec n) (mask x : Word) : (s.writeP r mask x).warp.flg = s.warp.flg := by unfold State.writeP; split <;> rfl
@[simp] theorem State.writeP_warp_xs0 {n : Nat} (r : BitVec n) (mask x : Word) : (s.writeP r mask x).warp.xs0 = s.warp.xs0 := by unfold State.writeP; split <;> rfl
@[simp] theorem State.writeP_warp_xs1 {n : Nat} (r : BitVec n) (mask x : Word) : (s.writeP r mask x).warp.xs1 = s.warp.xs1 := by unfold State.writeP; split <;> rfl
@[simp] theorem State.writeP_warp_xrep {n : Nat} (r : BitVec n) (mask x : Word) : (s.writeP r mask x).warp.xrep = s.warp.xrep := by unfold State.writeP; split <;> rfl
@[simp] theorem State.writeP_warp_xpc {n : Nat} (r : BitVec n) (mask x : Word) : (s.writeP r mask x).warp.xpc = s.warp.xpc := by unfold State.writeP; split <;> rfl
@[simp] theorem State.writeP_warp_xmask {n : Nat} (r : BitVec n) (mask x : Word) : (s.writeP r mask x).warp.xmask = s.warp.xmask := by unfold State.writeP; split <;> rfl
@[simp] theorem State.writeP_warp_xcause {n : Nat} (r : BitVec n) (mask x : Word) : (s.writeP r mask x).warp.xcause = s.warp.xcause := by unfold State.writeP; split <;> rfl
@[simp] theorem State.writeP_warp_xrec {n : Nat} (r : BitVec n) (mask x : Word) : (s.writeP r mask x).warp.xrec = s.warp.xrec := by unfold State.writeP; split <;> rfl
@[simp] theorem State.writeP_warp_feeds {n : Nat} (r : BitVec n) (mask x : Word) : (s.writeP r mask x).warp.feeds = s.warp.feeds := by unfold State.writeP; split <;> rfl
@[simp] theorem State.writeP_warp_tdepth {n : Nat} (r : BitVec n) (mask x : Word) : (s.writeP r mask x).warp.tdepth = s.warp.tdepth := by unfold State.writeP; split <;> rfl
@[simp] theorem State.writeP_warp_repip {n : Nat} (r : BitVec n) (mask x : Word) : (s.writeP r mask x).warp.repip = s.warp.repip := by unfold State.writeP; split <;> rfl
@[simp] theorem State.writeP_warp_pin {n : Nat} (r : BitVec n) (mask x : Word) : (s.writeP r mask x).warp.pin = s.warp.pin := by unfold State.writeP; split <;> rfl
@[simp] theorem State.writeP_warp_tileAcc {n : Nat} (r : BitVec n) (mask x : Word) : (s.writeP r mask x).warp.tileAcc = s.warp.tileAcc := by unfold State.writeP; split <;> rfl
@[simp] theorem State.writeP_warp_sums {n : Nat} (r : BitVec n) (mask x : Word) : (s.writeP r mask x).warp.sums = s.warp.sums := by unfold State.writeP; split <;> rfl
@[simp] theorem State.writeP_warp_dupCount {n : Nat} (r : BitVec n) (mask x : Word) : (s.writeP r mask x).warp.dupCount = s.warp.dupCount := by unfold State.writeP; split <;> rfl
@[simp] theorem State.writeP_warp_lastSeal {n : Nat} (r : BitVec n) (mask x : Word) : (s.writeP r mask x).warp.lastSeal = s.warp.lastSeal := by unfold State.writeP; split <;> rfl
@[simp] theorem State.writeP_warp_exclude {n : Nat} (r : BitVec n) (mask x : Word) : (s.writeP r mask x).warp.exclude = s.warp.exclude := by unfold State.writeP; split <;> rfl
@[simp] theorem State.writeP_warp_rerun {n : Nat} (r : BitVec n) (mask x : Word) : (s.writeP r mask x).warp.rerun = s.warp.rerun := by unfold State.writeP; split <;> rfl
@[simp] theorem State.writeP_warp_rep {n : Nat} (r : BitVec n) (mask x : Word) : (s.writeP r mask x).warp.rep = s.warp.rep := by unfold State.writeP; split <;> rfl
@[simp] theorem State.writeP_warp_wait {n : Nat} (r : BitVec n) (mask x : Word) : (s.writeP r mask x).warp.wait = s.warp.wait := by unfold State.writeP; split <;> rfl
@[simp] theorem State.writeP_warp_stores {n : Nat} (r : BitVec n) (mask x : Word) : (s.writeP r mask x).warp.stores = s.warp.stores := by unfold State.writeP; split <;> rfl
@[simp] theorem State.writeP_warp_clkOff {n : Nat} (r : BitVec n) (mask x : Word) : (s.writeP r mask x).warp.clkOff = s.warp.clkOff := by unfold State.writeP; split <;> rfl
@[simp] theorem State.writeP_warp_pending {n : Nat} (r : BitVec n) (mask x : Word) : (s.writeP r mask x).warp.pending = s.warp.pending := by unfold State.writeP; split <;> rfl
@[simp] theorem State.writeP_warp_records {n : Nat} (r : BitVec n) (mask x : Word) : (s.writeP r mask x).warp.records = s.warp.records := by unfold State.writeP; split <;> rfl
@[simp] theorem State.writeP_warp_backoff {n : Nat} (r : BitVec n) (mask x : Word) : (s.writeP r mask x).warp.backoff = s.warp.backoff := by unfold State.writeP; split <;> rfl
@[simp] theorem State.writeP_warp_permit {n : Nat} (r : BitVec n) (mask x : Word) : (s.writeP r mask x).warp.permit = s.warp.permit := by unfold State.writeP; split <;> rfl
@[simp] theorem State.writeP_warp_stepping {n : Nat} (r : BitVec n) (mask x : Word) : (s.writeP r mask x).warp.stepping = s.warp.stepping := by unfold State.writeP; split <;> rfl
@[simp] theorem State.writeP_warp_resumed {n : Nat} (r : BitVec n) (mask x : Word) : (s.writeP r mask x).warp.resumed = s.warp.resumed := by unfold State.writeP; split <;> rfl
@[simp] theorem State.writeP_warp_causalHits {n : Nat} (r : BitVec n) (mask x : Word) : (s.writeP r mask x).warp.causalHits = s.warp.causalHits := by unfold State.writeP; split <;> rfl
@[simp] theorem State.writeP_warp_hold {n : Nat} (r : BitVec n) (mask x : Word) : (s.writeP r mask x).warp.hold = s.warp.hold := by unfold State.writeP; split <;> rfl
@[simp] theorem State.writeP_warp_waitSince {n : Nat} (r : BitVec n) (mask x : Word) : (s.writeP r mask x).warp.waitSince = s.warp.waitSince := by unfold State.writeP; split <;> rfl
@[simp] theorem State.writeP_warp_haltCause {n : Nat} (r : BitVec n) (mask x : Word) : (s.writeP r mask x).warp.haltCause = s.warp.haltCause := by unfold State.writeP; split <;> rfl

/-! ## Reads after writes -/

theorem vector_get_set {α : Type} {n : Nat} (v : Vector α n) (i j : Fin n) (x : α) :
    (v.set i.val x i.isLt).get j = if j = i then x else v.get j := by
  change (v.set i.val x i.isLt)[j.val] = if j = i then x else v[j.val]
  rw [Vector.getElem_set]
  by_cases e : j = i
  · simp [e]
  · have : i.val ≠ j.val := fun h => e (Fin.ext h.symm)
    simp [e, this]

theorem State.readS_writeS (r q : BitVec 7) (x : DWord) (sh : Shadow) :
    (s.writeS r x sh).readS q = if sIdx q = sIdx r then (if sIdx r = 0 then 0 else x) else s.readS q := by
  unfold State.writeS State.readS
  by_cases h : sIdx r = 0 <;> by_cases e : sIdx q = sIdx r
  · simp [h, e]
  · rw [if_pos h, if_neg e]
  · simp [h, e, vector_get_set]
  · simp [h, e, vector_get_set]

theorem State.shadowS_writeS (r q : BitVec 7) (x : DWord) (sh : Shadow) :
    (s.writeS r x sh).shadowS q = if sIdx q = sIdx r then (if sIdx r = 0 then .bounded 0 0 else sh) else s.shadowS q := by
  unfold State.writeS State.shadowS
  by_cases h : sIdx r = 0 <;> by_cases e : sIdx q = sIdx r
  · simp [h, e]
  · rw [if_pos h, if_neg e]
  · simp [h, e, vector_get_set]
  · simp [h, e, vector_get_set]

theorem State.readV_putV (r q : BitVec 7) (x : Lanes) (sh : Shadow) :
    (s.putV r x sh).readV q = if q = r then x else s.readV q := by
  unfold State.putV State.readV
  have h : (vIdx q = vIdx r) = (q = r) :=
    propext ⟨fun h => BitVec.eq_of_toNat_eq (congrArg Fin.val h), fun h => congrArg _ h⟩
  simp only [vector_get_set, h]

theorem State.shadowV_putV (r q : BitVec 7) (x : Lanes) (sh : Shadow) :
    (s.putV r x sh).shadowV q = if q = r then sh else s.shadowV q := by
  unfold State.putV State.shadowV
  have h : (vIdx q = vIdx r) = (q = r) :=
    propext ⟨fun h => BitVec.eq_of_toNat_eq (congrArg Fin.val h), fun h => congrArg _ h⟩
  simp only [vector_get_set, h]

theorem State.readA_writeA (r q : BitVec 4) (x : ArrayReg) :
    (s.writeA r x).readA q = if q = r then x else s.readA q := by
  unfold State.writeA State.readA
  have h : (aIdx q = aIdx r) = (q = r) :=
    propext ⟨fun h => BitVec.eq_of_toNat_eq (congrArg Fin.val h), fun h => congrArg _ h⟩
  simp only [vector_get_set, h]

theorem State.readF_writeF (r q : BitVec 2) (x : Lanes) :
    (s.writeF r x).readF q = if q = r then x else s.readF q := by
  unfold State.writeF State.readF
  have h : ((⟨q.toNat, q.isLt⟩ : Fin 4) = ⟨r.toNat, r.isLt⟩) = (q = r) :=
    propext ⟨fun h => BitVec.eq_of_toNat_eq (congrArg Fin.val h), fun h => by rw [h]⟩
  have k := vector_get_set s.warp.feeds ⟨r.toNat, r.isLt⟩ ⟨q.toNat, q.isLt⟩ x
  simp only [h] at k
  exact k

/-! ## Reads see the warp alone -/

@[simp] theorem State.readS_orFlags (f : BitVec 8) (r : BitVec 7) : (s.orFlags f).readS r = s.readS r := rfl
@[simp] theorem State.shadowS_orFlags (f : BitVec 8) (r : BitVec 7) : (s.orFlags f).shadowS r = s.shadowS r := rfl
@[simp] theorem State.readV_orFlags (f : BitVec 8) (r : BitVec 7) : (s.orFlags f).readV r = s.readV r := rfl
@[simp] theorem State.shadowV_orFlags (f : BitVec 8) (r : BitVec 7) : (s.orFlags f).shadowV r = s.shadowV r := rfl
@[simp] theorem State.readP_orFlags {n : Nat} (f : BitVec 8) (r : BitVec n) : (s.orFlags f).readP r = s.readP r := rfl
@[simp] theorem State.readS_setPc (p : BitVec 48) (r : BitVec 7) : (s.setPc p).readS r = s.readS r := rfl
@[simp] theorem State.shadowS_setPc (p : BitVec 48) (r : BitVec 7) : (s.setPc p).shadowS r = s.shadowS r := rfl
@[simp] theorem State.core_modifyCore_self (pcn : Nat) (f : Core → Core) (h : (f (s.core pcn)).pcn = pcn) :
    (s.modifyCore pcn f).core pcn = f (s.core pcn) := by
  unfold State.modifyCore State.setCore
  generalize hc : f (s.core pcn) = c at h ⊢
  subst h
  unfold State.core
  simp only
  induction s.cores with
  | nil => simp [replaceWhere]
  | cons x xs ih =>
    simp only [replaceWhere]
    by_cases e : x.pcn == c.pcn <;> simp [e, ih]

end Sys2Proof.Machine
end

