-- ==== Sys2Proof/Laws/Homes.lean ====
section
/-!
SUPPORT. Everything the movement of bytes can do (`MemoryMoves`), one lemma per operation of the homes.
-/

namespace Sys2Proof.Machine

theorem MemoryMoves.refl (s : State) : MemoryMoves s s := by
  constructor <;> first | rfl | (intro h; exact h) | (intro _; rfl)

theorem MemoryMoves.trans {s t u : State} (h : MemoryMoves s t) (k : MemoryMoves t u) : MemoryMoves s u where
  warp := k.warp.trans h.warp
  others := k.others.trans h.others
  clusters := k.clusters.trans h.clusters
  gangs := k.gangs.trans h.gangs
  fabric := k.fabric.trans h.fabric
  agenda := k.agenda.trans h.agenda
  subject := k.subject.trans h.subject
  clock := k.clock.trans h.clock
  gtime := k.gtime.trans h.gtime
  monarch := k.monarch.trans h.monarch
  regions := k.regions.trans h.regions
  launches := k.launches.trans h.launches
  cores := fun p => (k.cores p).trans (h.cores p)
  memForm := fun x => k.memForm (h.memForm x)
  freshForm := fun x => k.freshForm (h.freshForm x)

/-- A change of the homes that keeps their forms. -/
theorem MemoryMoves.of_homes {s : State} (f : Homes) (hm : s.homes.mem.wf = true → f.mem.wf = true)
    (hf : sortedFrom 0 s.homes.fresh = true → sortedFrom 0 f.fresh = true) : MemoryMoves s { s with homes := f } := by
  constructor <;> first | rfl | exact hm | exact hf | (intro _; rfl)

/-- After a movement, a change of the homes whose forms follow from those before the movement. -/
theorem MemoryMoves.with_homes {s u : State} (h : MemoryMoves s u) (f : Homes) (hm : s.homes.mem.wf = true → f.mem.wf = true)
    (hf : sortedFrom 0 s.homes.fresh = true → sortedFrom 0 f.fresh = true) : MemoryMoves s { u with homes := f } :=
  { h with memForm := hm, freshForm := hf }

theorem MemoryMoves.ite {s a b : State} {c : Prop} [Decidable c] (h : MemoryMoves s a) (k : MemoryMoves s b) :
    MemoryMoves s (if c then a else b) := by
  split
  · exact h
  · exact k

theorem MemoryMoves.foldl {α : Type} (f : State → α → State) (h : ∀ s a, MemoryMoves s (f s a)) (l : List α) (s : State) :
    MemoryMoves s (l.foldl f s) := by
  induction l generalizing s with
  | nil => exact .refl s
  | cons a l ih => exact (h s a).trans (ih _)

/-! ## Plain updates -/

section
variable (s : State)

theorem moves_setOwners (o) : MemoryMoves s (s.setOwners o) := .of_homes _ id id
theorem moves_setLines (o) : MemoryMoves s (s.setLines o) := .of_homes _ id id
theorem moves_setPoisons (o) : MemoryMoves s (s.setPoisons o) := .of_homes _ id id
theorem moves_setMarks (o) : MemoryMoves s (s.setMarks o) := .of_homes _ id id
theorem moves_setMsc (o) : MemoryMoves s (s.setMsc o) := .of_homes _ id id
theorem moves_setMem (m) (h : s.homes.mem.wf = true → Memory.wf m = true) : MemoryMoves s (s.setMem m) := .of_homes _ h id
theorem moves_setFresh (m) (h : sortedFrom 0 s.homes.fresh = true → sortedFrom 0 m = true) : MemoryMoves s (s.setFresh m) :=
  .of_homes _ id h
theorem moves_report (c d) : MemoryMoves s (s.report c d) := by
  constructor <;> first | rfl | (intro h; exact h) | (intro _; rfl)

theorem moves_setStored (o) : MemoryMoves s (s.setStored o) := .of_homes _ id id
theorem moves_setChannels (o) : MemoryMoves s (s.setChannels o) := .of_homes _ id id
theorem moves_poisonSector (n) : MemoryMoves s (s.poisonSector n) := moves_setPoisons s _
theorem moves_poisonStored (n) : MemoryMoves s (s.poisonStored n) := by
  unfold State.poisonStored
  exact .ite (moves_setStored _ _) ((moves_setStored s _).trans (moves_setPoisons _ _))
theorem moves_poisonLine (n) : MemoryMoves s (s.poisonLine n) := .foldl _ moves_poisonSector _ _
theorem moves_storePoison (n c) : MemoryMoves s (s.storePoison n c) :=
  (moves_setStored s _).trans (.foldl _ (fun s _ => moves_setStored s _) _ _)
theorem moves_showStored (n) : MemoryMoves s (s.showStored n) := .foldl _ (fun s _ => moves_setPoisons s _) _ _
theorem moves_clearPoison (c) : MemoryMoves s (s.clearPoison c) := moves_setPoisons s _
theorem moves_setMark (m) : MemoryMoves s (s.setMark m) := moves_setMarks s _
theorem moves_clearStamps (pa) : MemoryMoves s (s.clearStamps pa) := moves_setMarks s _
theorem moves_wake (line) : MemoryMoves s (s.wake line) := by
  unfold State.wake
  split
  · exact .refl _
  · exact moves_setChannels _ _
theorem moves_mscPart (pa wb) : MemoryMoves s (s.mscPart pa wb) := by
  unfold State.mscPart
  split
  · dsimp only
    split
    · split
      · split
        · exact moves_setMsc _ _
        · exact .refl _
      · exact ((moves_setMsc _ _).trans (moves_clearStamps _ _)).trans (moves_clearStamps _ _)
    · exact (moves_setMsc _ _).trans (moves_clearStamps _ _)
  · exact .refl _
theorem moves_mscRequest (pa n wb) : MemoryMoves s (s.mscRequest pa n wb) := by
  unfold State.mscRequest
  dsimp only
  split
  · exact moves_mscPart _ _ _
  · exact (moves_mscPart _ _ _).trans (moves_mscPart _ _ _)
theorem moves_mscWrite (c) : MemoryMoves s (s.mscWrite c) := .foldl _ (fun s _ => moves_mscPart s _ _) _ _
theorem moves_checkTag (line) : MemoryMoves s (s.checkTag line) := by
  unfold State.checkTag
  refine .ite ?_ (.refl _)
  exact .ite (((moves_wake s _).trans (.foldl _ moves_poisonStored _ _)).trans (moves_report _ _ _)) (moves_wake _ _)
theorem moves_keyLine (key line) : MemoryMoves s (s.keyLine key line) := by
  unfold State.keyLine
  exact (MemoryMoves.ite (moves_setMem _ _ fun h => Memory.wf_write _ _ h) (.refl _)).trans (moves_setMark _ _)
theorem moves_rawStore (key pa bs) : MemoryMoves s (s.rawStore key pa bs) := by
  unfold State.rawStore
  dsimp only
  have lines : ∀ l : List Nat, MemoryMoves s (l.foldl (fun s line =>
      key.elim (if State.coversBytes (cellsFrom pa bs) (line * 192) 192 = true then s.wake line else (s.wake line).checkTag line)
        fun k => (if State.coversBytes (cellsFrom pa bs) (line * 192) 192 = true then s.wake line
          else (s.wake line).checkTag line).keyLine k line) s) := fun l => .foldl _ (fun s line => by
    have h : MemoryMoves s (if State.coversBytes (cellsFrom pa bs) (line * 192) 192 = true then s.wake line
        else (s.wake line).checkTag line) := .ite (moves_wake _ _) ((moves_wake _ _).trans (moves_checkTag _ _))
    cases key
    · exact h
    · exact h.trans (moves_keyLine _ _ _)) _ _
  have write : ∀ (u : State) (c : List Host.Cell), MemoryMoves s u → MemoryMoves s ((((u.clearPoison c).setStored
      (State.freedPoison u.homes.stored c)).setMem (u.homes.mem.putCells c)).setFresh (c.foldl (fun m c => dropCell m c.1) u.homes.fresh)) :=
    fun u c h => (((h.trans (moves_clearPoison _ _)).trans (moves_setStored _ _)).trans
      (moves_setMem _ _ fun h => Memory.wf_putCells _ h)).trans (moves_setFresh _ _ fun h => sortedFrom_foldl_dropCell h)
  exact write _ _ ((lines _).trans (moves_mscWrite _ _))
theorem moves_sealLines (l) : MemoryMoves s (s.sealLines l) := .foldl _ (fun s _ => .ite (moves_rawStore s _ _ _) (.refl _)) _ _
theorem moves_rawWrite (key pa bs) : MemoryMoves s (s.rawWrite key pa bs) :=
  ((moves_rawStore s _ _ _).trans (moves_sealLines _ _)).trans (moves_sealLines _ _)

/-! ## Regions, launches, cores -/

theorem map_changeWhere {α β : Type} (p : α → Bool) (f : α → α) (g : α → β) (h : ∀ a, g (f a) = g a) (l : List α) :
    (changeWhere p f l).map g = l.map g := by
  induction l with
  | nil => rfl
  | cons a l ih =>
    unfold changeWhere
    split
    · rw [List.map_cons, List.map_cons, h]
    · rw [List.map_cons, List.map_cons, ih]

theorem moves_modifyRegion (rid f) (h : ∀ r : Region, { f r with jrn := [] } = { r with jrn := [] }) :
    MemoryMoves s (s.modifyRegion rid f) := by
  constructor <;> first
    | rfl | (intro h; exact h) | (intro _; rfl) | exact map_changeWhere _ f (fun r : Region => { r with jrn := [] }) h _

theorem moves_modifyLaunch (id f) (h : ∀ l : Launch, { f l with stamp := 0 } = { l with stamp := 0 }) :
    MemoryMoves s (s.modifyLaunch id f) := by
  constructor <;> first
    | rfl | (intro h; exact h) | (intro _; rfl) | exact map_changeWhere _ f (fun l : Launch => { l with stamp := 0 }) h _

theorem find_replaceWhere {α : Type} (key : α → Nat) (c : α) (l : List α) (k : Nat) :
    (replaceWhere (fun x => key x == key c) c l).find? (fun x => key x == k) =
      if key c = k then some c else l.find? fun x => key x == k := by
  induction l with
  | nil => by_cases h : key c = k <;> simp [replaceWhere, h]
  | cons a l ih =>
    unfold replaceWhere
    by_cases h1 : key a = key c
    · rw [if_pos (by simp [h1]), List.find?_cons, List.find?_cons]
      by_cases h2 : key c = k
      · simp [h2]
      · have h3 : ¬ key a = k := fun e => h2 (h1.symm.trans e)
        rw [beq_eq_false_iff_ne.mpr h2, beq_eq_false_iff_ne.mpr h3, if_neg h2]
    · rw [if_neg (by simp [h1]), List.find?_cons, List.find?_cons, ih]
      by_cases h2 : key c = k
      · have : ¬ key a = k := fun e => h1 (e.trans h2.symm)
        rw [beq_eq_false_iff_ne.mpr this, if_pos h2]
      · rw [if_neg h2, if_neg h2]

/-- A core after one is replaced. -/
theorem State.core_setCore (c : Core) (pcn : Nat) : (s.setCore c).core pcn = if c.pcn = pcn then c else s.core pcn := by
  unfold State.core State.setCore
  simp only
  rw [find_replaceWhere Core.pcn c s.cores pcn]
  split <;> rfl

/-- A core has the number it is found by. -/
theorem State.core_pcn (pcn : Nat) : (s.core pcn).pcn = pcn := by
  unfold State.core
  cases h : s.cores.find? (fun c => c.pcn == pcn) with
  | none => rfl
  | some c => simpa using List.find?_some h

/-- A core after one is changed. -/
theorem State.core_modifyCore (p pcn : Nat) (f : Core → Core) (h : (f (s.core p)).pcn = p) :
    (s.modifyCore p f).core pcn = if p = pcn then f (s.core p) else s.core pcn := by
  unfold State.modifyCore
  rw [State.core_setCore, h]

theorem moves_modifyCore (p : Nat) (f : Core → Core) (h : ∀ c, { f c with l1 := [] } = { c with l1 := [] }) :
    MemoryMoves s (s.modifyCore p f) := by
  have hp : ∀ c, (f c).pcn = c.pcn := fun c => by
    have := congrArg Core.pcn (h c)
    exact this
  constructor <;> first
    | rfl
    | (intro h; exact h)
    | (intro q
       rw [State.core_modifyCore s p q f (by rw [hp, State.core_pcn])]
       split
       · subst q; exact h _
       · rfl)

theorem moves_setL1 (p l) : MemoryMoves s (s.setL1 p l) := moves_modifyCore s p _ fun _ => rfl
theorem moves_modifyL1 (p l f) : MemoryMoves s (s.modifyL1 p l f) := moves_setL1 s _ _

/-! ## Controllers, slices, L1s -/

theorem moves_journal (st line) : MemoryMoves s (s.journal st line) := by
  unfold State.journal
  refine .ite (.refl _) ?_
  split
  · exact .refl _
  · split
    · exact .refl _
    · refine .ite ?_ ?_
      · split
        · refine .trans ?_ (moves_setMark _ _)
          refine .trans (.trans ?_ (moves_rawWrite _ _ _ _)) (moves_modifyRegion _ _ _ ?_)
          · exact ((moves_wake s _).trans (moves_mscRequest _ _ _ _)).trans (moves_checkTag _ _)
          · intro _; rfl
        · refine moves_modifyLaunch s _ _ ?_
          intro _; rfl
      · refine moves_modifyLaunch s _ _ ?_
        intro _; rfl

theorem moves_writeTag (st line) : MemoryMoves s (s.writeTag st line) := by
  unfold State.writeTag
  exact .ite ((MemoryMoves.foldl _ (fun s l => moves_journal s _ l) _ _).trans (moves_rawWrite _ _ _ _)) (.refl _)

theorem moves_beforeWrite (st line c) : MemoryMoves s (s.beforeWrite st line c) := by
  unfold State.beforeWrite
  exact (MemoryMoves.trans (.ite (moves_wake s _) ((moves_wake s _).trans (moves_checkTag _ _))) (moves_journal _ _ _)).trans (moves_mscWrite _ _)

theorem moves_controllerWrite (line) : MemoryMoves s (s.controllerWrite line) := by
  unfold State.controllerWrite
  split
  · exact .refl _
  · refine .ite (.refl _) ?_
    refine .trans ?_ (moves_setLines _ _)
    refine .trans ?_ (moves_storePoison _ _ _)
    refine .trans ?_ (moves_writeTag _ _ _)
    refine .trans ?_ (moves_setMark _ _)
    refine .trans ?_ (moves_setFresh _ _ fun h => sortedFrom_filter _ h)
    refine .trans (moves_beforeWrite s _ _ _) (moves_setMem _ _ fun h => ?_)
    split
    · exact Memory.wf_write _ _ h
    · exact Memory.wf_putCells _ h

theorem moves_dropLine (line) : MemoryMoves s (s.dropLine line) := by
  unfold State.dropLine
  exact (((moves_controllerWrite s _).trans (moves_storePoison _ _ _)).trans (moves_showStored _ _)).trans (moves_setLines _ _)

theorem moves_lineUnder (key line) : MemoryMoves s (s.lineUnder key line) := by
  unfold State.lineUnder
  split
  · exact .ite (.refl _) ((moves_dropLine _ _).trans (moves_setLines _ _))
  · exact moves_setLines _ _

theorem moves_sliceWrite (line st cells) : MemoryMoves s (s.sliceWrite line st cells) := by
  unfold State.sliceWrite
  dsimp only
  refine MemoryMoves.trans ?_ ((moves_setFresh _ _ fun h => sortedFrom_placeCells h).trans (moves_setLines _ _))
  split
  · exact .ite (.refl _) (moves_controllerWrite _ _)
  · exact moves_lineUnder _ _ _

theorem moves_writeBack (l) : MemoryMoves s (s.writeBack l) := by
  refine .foldl _ (fun s w => ?_) _ _
  dsimp only
  have h : ∀ c, MemoryMoves s ((s.lineUnder l.key l.line).sliceWrite l.line w.stamp c) := fun c =>
    (moves_lineUnder _ _ _).trans (moves_sliceWrite _ _ _ _)
  split
  · split
    · exact (h _).trans (moves_setPoisons _ _)
    · exact h _
  · exact .refl _

theorem moves_recallLine (line) : MemoryMoves s (s.recallLine line) := by
  unfold State.recallLine
  split
  · exact .refl _
  · dsimp only
    refine MemoryMoves.trans ?_ (moves_setOwners _ _)
    split
    · exact (moves_writeBack _ _).trans (moves_modifyL1 _ _ _ _)
    · exact .refl _

theorem moves_sliceReplace (line) : MemoryMoves s (s.sliceReplace line) := by
  unfold State.sliceReplace
  dsimp only
  split
  · exact .refl _
  · split
    · exact moves_dropLine _ _
    · split
      · exact (moves_recallLine _ _).trans (moves_dropLine _ _)
      · exact .refl _

theorem moves_touch (key line) : MemoryMoves s (s.touch key line) := by
  unfold State.touch
  dsimp only
  have h := (moves_lineUnder s key line).trans (moves_setLines _ (((s.lineUnder key line).homes.lines.filter fun x => x.line == line)
    ++ (s.lineUnder key line).homes.lines.filter fun x => x.line != line))
  exact .ite (h.trans (moves_sliceReplace _ _)) h

theorem moves_fetch (key sector) : MemoryMoves s (s.fetch key sector) := by
  unfold State.fetch
  dsimp only
  refine .ite (moves_touch _ _ _) ?_
  exact ((((moves_touch s _ _).trans (moves_wake _ _)).trans (moves_mscRequest _ _ _ _)).trans (moves_checkTag _ _)).trans (moves_setLines _ _)

theorem moves_demand (reader sector) : MemoryMoves s (s.demand reader sector) := by
  unfold State.demand
  split
  · exact .refl _
  · refine .ite (.refl _) ?_
    split
    · exact (moves_writeBack _ _).trans (moves_modifyL1 _ _ _ _)
    · exact .refl _

theorem moves_atHomes (key pa n) : MemoryMoves s (s.atHomes key pa n) :=
  .foldl _ (fun s sec => (moves_demand s none sec).trans (moves_fetch _ _ _)) _ _

theorem moves_visitTables (va fuel level table) : MemoryMoves s (s.visitTables va fuel level table) := by
  induction fuel generalizing s level table with
  | zero => exact .refl _
  | succ n ih => exact .ite (moves_atHomes _ _ _ _) ((moves_atHomes _ _ _ _).trans (ih _ _ _))

theorem moves_walkHomes (root va) : MemoryMoves s (s.walkHomes root va) := moves_visitTables s _ _ _ _

theorem moves_homeWrite (key st line cells) : MemoryMoves s (s.homeWrite key st line cells) := by
  unfold State.homeWrite
  dsimp only
  refine MemoryMoves.trans ?_ ((moves_touch _ _ _).trans (moves_sliceWrite _ _ _ _))
  split
  · exact .refl _
  · refine MemoryMoves.trans ?_ (moves_setOwners _ _)
    split
    · exact (moves_writeBack _ _).trans (moves_modifyL1 _ _ _ _)
    · exact .refl _

theorem moves_homeWriteAll (key st cells) : MemoryMoves s (s.homeWriteAll key st cells) := by
  unfold State.homeWriteAll
  exact (MemoryMoves.foldl _ (fun s a => moves_homeWrite s _ _ _ _) _ _).trans (moves_clearPoison _ _)

theorem moves_l1Replace (p line) : MemoryMoves s (s.l1Replace p line) := by
  unfold State.l1Replace
  dsimp only
  split
  · exact .refl _
  · split
    · exact .refl _
    · exact ((moves_writeBack _ _).trans (moves_setL1 _ _ _)).trans (moves_setOwners _ _)

theorem moves_l1Touch (p key line) : MemoryMoves s (s.l1Touch p key line) := by
  unfold State.l1Touch
  refine MemoryMoves.trans (moves_modifyCore s p _ fun c => ?_) (moves_l1Replace _ _ _)
  split <;> rfl

theorem moves_l1Use (p line) : MemoryMoves s (s.l1Use p line) := moves_setL1 s _ _

theorem moves_l1Rekey (p key line) : MemoryMoves s (s.l1Rekey p key line) := by
  unfold State.l1Rekey
  split
  · exact .refl _
  · exact .ite (.refl _) ((moves_writeBack _ _).trans (moves_setL1 _ _ _))

theorem moves_lineFill (p key sector) : MemoryMoves s (s.lineFill p key sector) := by
  unfold State.lineFill
  dsimp only
  exact (((moves_demand s _ _).trans (moves_fetch _ _ _)).trans (moves_l1Touch _ _ _ _)).trans (moves_setL1 _ _ _)

theorem moves_register (p key st line cells hide) : MemoryMoves s (s.register p key st line cells hide) := by
  unfold State.register
  dsimp only
  refine MemoryMoves.trans ?_ (((((moves_l1Rekey _ _ _ _).trans (moves_touch _ _ _)).trans (moves_setOwners _ _)).trans
    (moves_l1Touch _ _ _ _)).trans ((moves_setL1 _ _ _).trans (moves_clearPoison _ _)))
  split
  · split
    · exact .refl _
    · exact moves_recallLine _ _
  · exact .refl _

theorem moves_invalidateWords (p line f) : MemoryMoves s (s.invalidateWords p line f) := moves_modifyL1 s _ _ _
theorem moves_reveal (p cw tag) : MemoryMoves s (s.reveal p cw tag) := moves_setL1 s _ _
theorem moves_cleanWords (p l f) : MemoryMoves s (s.cleanWords p l f) := (moves_writeBack _ _).trans (moves_modifyL1 _ _ _ _)
theorem moves_dropShared (p) : MemoryMoves s (s.dropShared p) := moves_setL1 s _ _
theorem moves_flushL1 (p) : MemoryMoves s (s.flushL1 p) := by
  unfold State.flushL1
  dsimp only
  exact ((MemoryMoves.foldl _ (fun s l => moves_writeBack s l) _ _).trans (moves_setL1 _ _ _)).trans (moves_setOwners _ _)

end

end Sys2Proof.Machine
end

