-- ==== Sys2Proof/Laws/Ops.lean ====
section
/-!
SUPPORT. What each shared operation does, said once: retirement, the checks, and the operations that write one register.
-/

namespace Sys2Proof.Machine

/-! ## Retirement -/

theorem State.retire_eq (s : State) : s.retire = { s with warp := { s.warp with
    pc := s.nextPc, xrep := s.nextXrep, rep := s.nextRep, exclude := 0, rerun := false, resumed := false, resumedRep := false,
    wait := none, status := .ready, backoff := 64 } } := by
  unfold State.retire State.nextPc State.nextXrep State.nextRep
  split
  · simp only [*]
  · simp only [*]
    split <;> simp only [*]

/-- What retirement at an address does. -/
theorem retiredAt_retireTo (s : State) (pc : BitVec 48) : RetiredAt s (s.retireTo pc) pc := by
  rw [State.retireTo, State.retire_eq]
  exact ⟨rfl, rfl, rfl, rfl, rfl, rfl⟩

theorem retired_retire (s : State) : Retired s s.retire := by
  rw [State.retire_eq]
  exact ⟨rfl, rfl, rfl, rfl, rfl, rfl⟩

theorem State.settled_retire (s : State) : s.retire.warp.settled = s.warp.settled := by
  rw [State.retire_eq]; rfl

theorem State.settled_retireTo (s : State) (pc : BitVec 48) : (s.retireTo pc).warp.settled = s.warp.settled := by
  rw [State.retireTo, State.retire_eq]; rfl

theorem onlyWarp_retire (s : State) : OnlyWarp s s.retire := by
  rw [State.retire_eq]; rfl

theorem onlyWarp_retireTo (s : State) (pc : BitVec 48) : OnlyWarp s (s.retireTo pc) := by
  rw [State.retireTo, State.retire_eq]; rfl

/-- Retirement after a change that leaves the warp's turn alone counts from the state before the change. -/
theorem RetiredAt.of_turn {s u t : State} {pc : BitVec 48} (h : RetiredAt u t pc) (hx : u.warp.xrep = s.warp.xrep)
    (hr : u.warp.rep = s.warp.rep) : RetiredAt s t pc := by
  obtain ⟨h1, h2, h3, h4, h5, h6⟩ := h
  refine ⟨h1, ?_, ?_, h4, h5, h6⟩
  · rw [h2]; unfold State.nextXrep; rw [hx, hr]
  · rw [h3]; unfold State.nextRep; rw [hx, hr]

theorem State.nextPc_congr {s u : State} (hp : u.warp.pc = s.warp.pc) (hx : u.warp.xrep = s.warp.xrep)
    (hr : u.warp.rep = s.warp.rep) : u.nextPc = s.nextPc := by
  unfold State.nextPc; rw [hp, hx, hr]

theorem Retired.of_turn {s u t : State} (h : Retired u t) (hp : u.warp.pc = s.warp.pc) (hx : u.warp.xrep = s.warp.xrep)
    (hr : u.warp.rep = s.warp.rep) : Retired s t := by
  have := RetiredAt.of_turn h hx hr
  rwa [State.nextPc_congr hp hx hr] at this

/-! ## Nothing but the warp -/

theorem OnlyWarp.trans {s u t : State} (h : OnlyWarp s u) (k : OnlyWarp u t) : OnlyWarp s t := by
  unfold OnlyWarp at *; rw [k, h]

/-- An instruction that changes nothing outside its warp and adds no store leaves every byte as it was. -/
theorem OnlyWarp.sameMemory {s t : State} (h : OnlyWarp s t) (hs : t.warp.stores = s.warp.stores) : SameMemory s t := by
  unfold OnlyWarp at h
  refine ⟨fun key pa => ?_, fun pcn pa => ?_, fun pcn a => ?_, hs⟩ <;> rw [h] <;> rfl

theorem settled_stores {w v : Warp} (h : w.settled = v.settled) : w.stores = v.stores := by
  have := congrArg Warp.stores h
  exact this

/-! ## Checks (R80) -/

theorem State.checked_pass (s : State) (site : Site) (checks : List (Bool × Trouble)) (body : State)
    (h : ∀ c ∈ checks, c.1 = false) : s.checked site checks body = body := by
  unfold State.checked
  have : checks.find? Prod.fst = none := by
    rw [List.find?_eq_none]; intro c hc; simp [h c hc]
  rw [this]

theorem State.checked_first (s : State) (site : Site) (t : Trouble) (rest : List (Bool × Trouble)) (body : State) :
    s.checked site ((true, t) :: rest) body = s.fault site t := rfl

theorem State.checked_next (s : State) (site : Site) (t : Trouble) (rest : List (Bool × Trouble)) (body : State) :
    s.checked site ((false, t) :: rest) body = s.checked site rest body := rfl

/-! ## A scalar register written -/

/-- Everything that writing a scalar register, setting flags and retiring does. -/
theorem scalarWritten (s : State) (d : BitVec 7) (x : DWord) (sh : Shadow) (f : BitVec 8) :
    ScalarWritten s ((s.writeS d x sh).orFlags f).retire d x sh f := by
  have hr : ((s.writeS d x sh).orFlags f).retire.warp.settled = ((s.writeS d x sh).orFlags f).warp.settled :=
    State.settled_retire _
  have hS : ∀ r, ((s.writeS d x sh).orFlags f).retire.readS r = (s.writeS d x sh).readS r := by
    intro r; rw [State.retire_eq]; rfl
  have hT : ∀ r, ((s.writeS d x sh).orFlags f).retire.shadowS r = (s.writeS d x sh).shadowS r := by
    intro r; rw [State.retire_eq]; rfl
  have hO : OnlyWarp s ((s.writeS d x sh).orFlags f).retire := by
    rw [State.retire_eq]
    unfold OnlyWarp State.writeS State.orFlags
    split <;> rfl
  constructor
  case retired => exact (retired_retire _).of_turn (by simp) (by simp) (by simp)
  case value => rw [hS, State.readS_writeS, if_pos rfl]
  case shadow => rw [hT, State.shadowS_writeS, if_pos rfl]
  case others =>
    intro r h
    rw [hS, hT, State.readS_writeS, State.shadowS_writeS, if_neg h, if_neg h]; exact ⟨rfl, rfl⟩
  case flags => rw [State.retire_eq]; simp
  case rest =>
    rw [State.retire_eq]
    unfold State.writeS State.orFlags Warp.settled
    split <;> rfl
  case only => exact hO
  case memory => exact hO.sameMemory (by rw [State.retire_eq]; simp)

theorem State.orFlags_zero (s : State) : s.orFlags 0 = s := by
  have : s.warp.flg ||| 0 = s.warp.flg := BitVec.or_zero
  unfold State.orFlags
  rw [this]

theorem scalarOp_written (s : State) (d : BitVec 7) (x : DWord) (sh : Shadow) :
    ScalarWritten s (s.scalarOp d x sh) d x sh 0 := by
  have h := scalarWritten s d x sh 0
  rwa [State.orFlags_zero] at h

/-! ## Nothing written -/

theorem nothingWritten_retireTo (s : State) (pc : BitVec 48) : NothingWritten s (s.retireTo pc) pc :=
  ⟨retiredAt_retireTo s pc, State.settled_retireTo s pc, onlyWarp_retireTo s pc,
   (onlyWarp_retireTo s pc).sameMemory (settled_stores (State.settled_retireTo s pc))⟩

theorem nothingWritten_retire (s : State) : NothingWritten s s.retire s.nextPc :=
  ⟨retired_retire s, State.settled_retire s, onlyWarp_retire s,
   (onlyWarp_retire s).sameMemory (settled_stores (State.settled_retire s))⟩

/-! ## A vector register written under the mask -/

theorem State.readV_writeV (s : State) (r q : BitVec 7) (mask : Word) (x : Lanes) (sh : Shadow) :
    (s.writeV r mask x sh).readV q = if q = r
      then Vector.ofFn fun i : Fin 32 => if mask.getLsbD i.val then x.get i else (s.readV r).get i else s.readV q :=
  State.readV_putV s r q _ _

theorem State.shadowV_writeV (s : State) (r q : BitVec 7) (mask : Word) (x : Lanes) (sh : Shadow) :
    (s.writeV r mask x sh).shadowV q = if q = r
      then (if mask = 0xFFFFFFFF#32 then sh else (s.shadowV r).hull sh) else s.shadowV q :=
  State.shadowV_putV s r q _ _

/-- What a vector instruction's registers must be for it to execute: known to the kernel, of an element type its class takes, with
a rounding mode when it rounds, its destination not pinned (R21, R148, R152, R153). -/
theorem vectorChecks_pass {s : State} {regs : List (BitVec 7)} {etOk rounds : Bool} {dst : Option (BitVec 7)}
    (hv : s.beyondVarch regs = false) (he : etOk = true) (hr : rounds = true → s.rm < 6)
    (hp : ∀ d, dst = some d → s.pinned d = false) : ∀ c ∈ s.vectorChecks regs etOk rounds dst, c.1 = false := by
  intro c hc
  unfold State.vectorChecks at hc
  simp only [List.mem_cons, List.not_mem_nil, or_false] at hc
  rcases hc with rfl | rfl
  · exact hv
  · have h1 : (rounds && decide (6 ≤ s.rm)) = false := by
      cases rounds
      · rfl
      · have := hr rfl
        simp only [Bool.true_and, decide_eq_false_iff_not]; omega
    simp only [he, h1]
    cases dst with
    | none => rfl
    | some d => simp [hp d rfl]

theorem advanceXs_eq (s : State) : s.advanceXs =
    { s with warp := { s.warp with xs0 := s.advanceXs.warp.xs0, xs1 := s.advanceXs.warp.xs1 } } := by
  unfold State.advanceXs
  split <;> rfl

theorem advanceXs_congr {s u : State} (h0 : u.warp.xs0 = s.warp.xs0) (h1 : u.warp.xs1 = s.warp.xs1)
    (hm : u.warp.mode = s.warp.mode) :
    u.advanceXs.warp.xs0 = s.advanceXs.warp.xs0 ∧ u.advanceXs.warp.xs1 = s.advanceXs.warp.xs1 := by
  unfold State.advanceXs State.rm
  rw [hm, h0, h1]
  split
  · exact ⟨rfl, rfl⟩
  · exact ⟨h0, h1⟩

theorem vector_get_ofFn {α : Type} {n : Nat} (f : Fin n → α) (i : Fin n) : (Vector.ofFn f).get i = f i := by
  change (Vector.ofFn f)[i.val] = f i
  simp

theorem lane_ofFn (f : Nat → Word) (i : Fin 32) : lane (perLane f) i = f i := by
  unfold lane perLane
  rw [vector_get_ofFn]
  simp only [Nat.mod_eq_of_lt i.isLt]

/-- Everything that writing a vector register under the mask, setting flags, drawing and retiring does. -/
theorem vectorWritten (s : State) (d : BitVec 7) (x : Lanes) (sh : Shadow) (f : BitVec 8) (draws : Bool) :
    VectorWritten s (let t := (s.writeV d s.effMask x sh).orFlags f
      (if draws then t.advanceXs else t).retire) d (fun i => lane x i) sh f draws := by
  have key : ∀ u : State, (u = (s.writeV d s.effMask x sh).orFlags f ∨
      u = ((s.writeV d s.effMask x sh).orFlags f).advanceXs) →
      u = { ((s.writeV d s.effMask x sh).orFlags f) with warp := { ((s.writeV d s.effMask x sh).orFlags f).warp with
        xs0 := u.warp.xs0, xs1 := u.warp.xs1 } } := by
    rintro u (rfl | rfl)
    · rfl
    · exact advanceXs_eq _
  simp only
  generalize hu : (if draws then ((s.writeV d s.effMask x sh).orFlags f).advanceXs
    else (s.writeV d s.effMask x sh).orFlags f) = u
  have hk := key u (by
    cases draws
    · exact .inl hu.symm
    · exact .inr hu.symm)
  have hxs : (u.warp.xs0, u.warp.xs1) =
      if draws then (s.advanceXs.warp.xs0, s.advanceXs.warp.xs1) else (s.warp.xs0, s.warp.xs1) := by
    subst hu
    cases draws
    · rfl
    · obtain ⟨h0, h1⟩ := advanceXs_congr (s := s) (u := (s.writeV d s.effMask x sh).orFlags f) rfl rfl rfl
      simp only [if_true, h0, h1]
  have hV : ∀ r, u.retire.readV r = (s.writeV d s.effMask x sh).readV r := by
    intro r; rw [State.retire_eq, hk]; rfl
  have hW : ∀ r, u.retire.shadowV r = (s.writeV d s.effMask x sh).shadowV r := by
    intro r; rw [State.retire_eq, hk]; rfl
  have hO : OnlyWarp s u.retire := by
    rw [State.retire_eq, hk]; rfl
  have hst : u.warp.stores = s.warp.stores := by rw [hk]; rfl
  constructor
  case retired => exact (retired_retire _).of_turn (by rw [hk]; rfl) (by rw [hk]; rfl) (by rw [hk]; rfl)
  case active =>
    intro i hi
    rw [hV, State.readV_writeV, if_pos rfl]
    simp only [lane, vector_get_ofFn]
    rw [if_pos hi]
    congr 1
    exact Fin.ext (Nat.mod_eq_of_lt i.isLt).symm
  case inactive =>
    intro i hi
    rw [hV, State.readV_writeV, if_pos rfl]
    rw [vector_get_ofFn, if_neg (by rw [hi]; exact Bool.false_ne_true)]
  case shadow => rw [hW, State.shadowV_writeV, if_pos rfl]
  case others =>
    intro r h
    rw [hV, hW, State.readV_writeV, State.shadowV_writeV, if_neg h, if_neg h]; exact ⟨rfl, rfl⟩
  case flags => rw [State.retire_eq, hk]; rfl
  case random => rw [State.retire_eq]; exact hxs
  case rest => rw [State.retire_eq, hk]; rfl
  case only => exact hO
  case memory => exact hO.sameMemory (by rw [State.retire_eq]; exact hst)

/-- What a vector instruction does when its checks pass and some lane is active. -/
theorem vectorOp_written (s : State) {regs : List (BitVec 7)} {etOk rounds : Bool} (d : BitVec 7) (res : Lanes × BitVec 8)
    (sh : Shadow) (hv : s.beyondVarch regs = false) (he : etOk = true) (hr : rounds = true → s.rm < 6)
    (hp : s.pinned d = false) (hm : s.effMask ≠ 0) :
    VectorWritten s (s.vectorOp regs etOk rounds d res sh) d (fun i => lane res.1 i) sh res.2 rounds := by
  unfold State.vectorOp
  rw [State.checked_pass _ _ _ _ (vectorChecks_pass hv he hr fun _ h => Option.some.inj h ▸ hp), if_neg hm]
  exact vectorWritten s d res.1 sh res.2 rounds

/-- R48: with no lane active a vector instruction that passes its checks is a no-op. -/
theorem vectorOp_empty (s : State) {regs : List (BitVec 7)} {etOk rounds : Bool} (d : BitVec 7) (res : Lanes × BitVec 8)
    (sh : Shadow) (hv : s.beyondVarch regs = false) (he : etOk = true) (hr : rounds = true → s.rm < 6)
    (hp : s.pinned d = false) (hm : s.effMask = 0) : s.vectorOp regs etOk rounds d res sh = s.retire := by
  unfold State.vectorOp
  rw [State.checked_pass _ _ _ _ (vectorChecks_pass hv he hr fun _ h => Option.some.inj h ▸ hp), if_pos hm]

/-! ## A predicate written under the mask -/

theorem State.readP_writeP {n : Nat} (s : State) (d r : BitVec n) (mask x : Word) :
    (s.writeP d mask x).readP r =
      if pIdx r = pIdx d then (if pIdx d = 7 then 0xFFFFFFFF#32 else (x &&& mask) ||| (s.readP d &&& ~~~mask))
      else s.readP r := by
  unfold State.writeP State.readP
  by_cases h : pIdx d = 7 <;> by_cases e : pIdx r = pIdx d
  · simp [h, e]
  · rw [if_pos h, if_neg e]
  · simp [h, e, vector_get_set]
  · simp [h, e, vector_get_set]

/-- Everything that writing a predicate under the mask, setting flags and retiring does. -/
theorem predWritten (s : State) (d : BitVec 7) (x : Word) (f : BitVec 8) :
    PredWritten s ((s.writeP d s.effMask x).orFlags f).retire d x f := by
  have hP : ∀ r : BitVec 7, ((s.writeP d s.effMask x).orFlags f).retire.readP r = (s.writeP d s.effMask x).readP r := by
    intro r; rw [State.retire_eq]; rfl
  have hO : OnlyWarp s ((s.writeP d s.effMask x).orFlags f).retire := by
    rw [State.retire_eq]
    unfold OnlyWarp State.writeP State.orFlags
    split <;> rfl
  constructor
  case retired => exact (retired_retire _).of_turn (by simp) (by simp) (by simp)
  case value => rw [hP, State.readP_writeP, if_pos rfl]
  case others => intro r h; rw [hP, State.readP_writeP, if_neg h]
  case flags => rw [State.retire_eq]; simp
  case rest =>
    rw [State.retire_eq]
    unfold State.writeP State.orFlags Warp.settled
    split <;> rfl
  case only => exact hO
  case memory => exact hO.sameMemory (by rw [State.retire_eq]; simp)

/-- What a vector instruction that writes a predicate does when its checks pass and some lane is active. -/
theorem vectorToPred_written (s : State) {regs : List (BitVec 7)} {etOk : Bool} (d : BitVec 7) (x : Word) (f : BitVec 8)
    (hv : s.beyondVarch regs = false) (he : etOk = true) (hm : s.effMask ≠ 0) :
    PredWritten s (s.vectorToPred regs etOk d x f) d x f := by
  unfold State.vectorToPred
  rw [State.checked_pass _ _ _ _ (vectorChecks_pass hv he (by simp) (by simp)), if_neg hm]
  exact predWritten s d x f

/-- What a vector instruction that writes a scalar and draws nothing does when its checks pass and some lane is active. -/
theorem vectorToScalar_written (s : State) {regs : List (BitVec 7)} {etOk : Bool} (d : BitVec 7) (x : DWord) (sh : Shadow)
    (f : BitVec 8) (hv : s.beyondVarch regs = false) (he : etOk = true) (hm : s.effMask ≠ 0) :
    ScalarWritten s (s.vectorToScalar regs etOk false d x sh f) d x sh f := by
  unfold State.vectorToScalar
  rw [State.checked_pass _ _ _ _ (vectorChecks_pass hv he (by simp) (by simp)), if_neg hm]
  exact scalarWritten s d x sh f

/-! ## Elements of a lane -/

theorem foldl_four (g : Nat → Nat) : (range 0 4).foldl (fun acc j => acc + g j) 0 = g 0 + g 1 + g 2 + g 3 := by
  simp [range]

theorem packLane_bytes (f : Nat → Nat) : packLane 8 f =
    BitVec.ofNat 32 (f 0 % 256 + f 1 % 256 * 256 + f 2 % 256 * 65536 + f 3 % 256 * 16777216) := by
  unfold packLane
  rw [show 32 / 8 = 4 from rfl, foldl_four fun j => f j % 2 ^ 8 * 2 ^ (8 * j), show 2 ^ (8 * 0) = 1 from rfl,
    show 2 ^ (8 * 1) = 256 from rfl, show 2 ^ (8 * 2) = 65536 from rfl, show 2 ^ (8 * 3) = 16777216 from rfl, Nat.mul_one]

theorem byte_of_four {j a b c d : Nat} (h : j = 0 ∨ j = 1 ∨ j = 2 ∨ j = 3) (ha : a < 256) (hb : b < 256) (hc : c < 256)
    (hd : d < 256) : elem 8 (BitVec.ofNat 32 (a + b * 256 + c * 65536 + d * 16777216)) j =
      if j = 0 then a else if j = 1 then b else if j = 2 then c else d := by
  have : a + b * 256 + c * 65536 + d * 16777216 < 2 ^ 32 := by omega
  rw [elem, BitVec.toNat_ofNat, Nat.mod_eq_of_lt this]
  rcases h with rfl | rfl | rfl | rfl <;> simp <;> omega

/-- An element of a packed lane is the element packed (R21). -/
theorem elem_packLane {w j : Nat} (f : Nat → Nat) (hw : w = 8 ∨ w = 16 ∨ w = 32) (hj : j < 32 / w) :
    elem w (packLane w f) j = f j % 2 ^ w := by
  rcases hw with rfl | rfl | rfl
  · have h := fun k => Nat.mod_lt (f k) (show 0 < 256 by decide)
    have hj' : j = 0 ∨ j = 1 ∨ j = 2 ∨ j = 3 := by omega
    rw [packLane_bytes, byte_of_four hj' (h 0) (h 1) (h 2) (h 3)]
    rcases hj' with rfl | rfl | rfl | rfl <;> rfl
  · unfold elem packLane
    have h0 := Nat.mod_lt (f 0) (show 0 < 65536 by decide)
    have h1 := Nat.mod_lt (f 1) (show 0 < 65536 by decide)
    have : j = 0 ∨ j = 1 := by omega
    rw [show range 0 (32 / 16) = [0, 1] from rfl]
    simp only [List.foldl, BitVec.toNat_ofNat, Nat.reducePow, Nat.reduceMul]
    clear hj
    rcases this with rfl | rfl <;> simp only [Nat.reducePow, Nat.reduceMul] <;>
      generalize f 0 % 65536 = a at * <;> generalize f 1 % 65536 = b at * <;> omega
  · unfold elem packLane
    obtain rfl : j = 0 := by omega
    rw [show range 0 (32 / 32) = [0] from rfl]
    simp only [List.foldl, BitVec.toNat_ofNat, Nat.mul_zero, Nat.pow_zero, Nat.mul_one, Nat.zero_add, Nat.div_one,
      Nat.mod_mod]

end Sys2Proof.Machine
end

