-- ==== Sys2Proof/Tests/Slice0.lean ====
section
/-!
SUPPORT. The model's own tests: words of the spec's encodings decoded, ill-formed terms refused, a few results worked out by hand from the spec's
rules, and for every statement that has hypotheses a `witness_...` that shows states and operands which meet them, clause by clause.
-/

namespace Sys2Proof.Tests

set_option Elab.async false

open Sys2Proof Sys2Proof.Machine Sys2Proof.Claims

/-! ## Small states -/

/-- A READY warp with every register, at 0x1000 on core 0. -/
def ready0 : State :=
  { State.reset with warp := { Warp.start with status := .ready, varch := 128, pc := 0x1000, rid := 1, launch := 1 }
                     monarch := { Monarch.reset with power := .run } }

/-- Two scalar registers and MODE set. -/
def withS (s : State) (x y : DWord) (mode : DWord) : State :=
  { s with warp := { s.warp with sreg := (s.warp.sreg.set 1 x).set 2 y, mode := mode } }

/-- A core's TLB entry of region 1 under TGEN 0: a page mapped to itself at 1 MiB, readable, writable and executable, pages 6 and 7
uncached. -/
def entry (page : Nat) : TlbEntry := ⟨1, 0, 4, page, BitVec.ofNat 64 (0x100000 + page * 4096 + if page < 6 then 0xF else 0x2F)⟩

def launch1 : Launch :=
  { id := 1, rid := 1, state := .placing, tag := 7, compl := 0x1F08, lease := [(0, 8)], arg := 0, code := 0, gangs := 1, kernel := 0,
    nblock := 1, nwarp := 1, khdr := 0x40, varch := 16, vren := 16, scratch := 1, trapvec := 64, segment := ⟨0, [], []⟩, constVa := 0,
    constLen := 0x100, pinned := true, referral := none, nextGang := 1, readyAt := 0, relaunches := 0, cause := 0, causeAt := 0,
    causeGang := 0, failed := false, ending := none, stamp := 0, poolHomes := [], translated := false, constMap := [],
    given := 0 }

def noBarriers : Vector Barrier 16 := Vector.replicate 16 ⟨[], [], 0⟩

def block0 : Block :=
  { index := 0, pcn := 0, unit := 1, scratch := 2, nwarp := 1, abandoned := false, retired := false, barriers := noBarriers }

def gang1 : Gang :=
  { launch := 1, index := 0, rid := 1, state := .placed, blocks := [block0], barriers := noBarriers, abandoned := false, readyAt := 0,
    placedAt := 0, aging := 0, expired := false, victim := false, favoured := false, image := none, places := [], areas := [],
    asked := false, halt := none, haltBy := (0, 0), toHalt := [], dumpDue := false, haltAt := 0, second := [], headers := [], promised := false }

def region1 : Region :=
  { regionOf 0x30000 (List.replicate 256 0) with
    rid := 1, cores := 4, vregs := 2000, scratchu := 20, hbmb := 2 ^ 30, ptroot := State.codePlace - 0x5000, chrybase := 0x1800,
    chrylen := 1024, lqorder := 2, lqbase := 0x1000 }

/-- The warp of `ready0` in a gang of a launch of region 1, whose pages 0 to 7 its core's TLB holds; block 0 has two units of scratchpad,
core 0's bytes from 32768. -/
def placed : State :=
  { ready0 with
    cores := [{ Core.reset 0 with enabled := true, loaded := true, rid := 1, ptroot := State.codePlace - 0x5000, tlb := (List.range 8).map entry }]
    launches := [launch1], gangs := [gang1], regions := [region1] }

/-- `Tidy` as a test of a concrete state. -/
def tidyB (s : State) : Bool :=
  s.orderly && s.cores.all fun c => c.l1.all fun l => l.words.all fun w =>
    !w.owned || w.dirty || decide (w.value = BitVec.ofNat 32 (ofBytes (s.homeRead l.key (l.line * 192 + 4 * w.idx) 4)))

theorem tidy_of_tidyB {s : State} (h : tidyB s = true) : Tidy s := by
  simp only [tidyB, Bool.and_eq_true, List.all_eq_true, Bool.or_eq_true, Bool.not_eq_true', decide_eq_true_eq] at h
  refine ⟨h.1, fun c hc l hl w hw ho hd => ?_⟩
  rcases h.2 c hc l hl w hw with (h1 | h1) | h1
  · rw [ho] at h1; cases h1
  · rw [hd] at h1; cases h1
  · exact h1

/-- `Plain` as a test of a concrete state. -/
def plainB (s : State) : Bool :=
  tidyB s && !s.monarch.encryption && !s.monarch.integrity && s.launches.all (fun l => l.stamp == 0)
    && s.cores.all fun c => decide (c.split < 16)

theorem find_mem_or_none (l : List Core) (pcn : Nat) :
    (∃ c ∈ l, l.find? (fun c => c.pcn == pcn) = some c) ∨ l.find? (fun c => c.pcn == pcn) = none := by
  cases h : l.find? (fun c => c.pcn == pcn) with
  | none => exact .inr rfl
  | some c => exact .inl ⟨c, List.mem_of_find?_eq_some h, rfl⟩

theorem plain_of_plainB {s : State} (h : plainB s = true) : Plain s := by
  simp only [plainB, Bool.and_eq_true, Bool.not_eq_true', List.all_eq_true, beq_iff_eq, decide_eq_true_eq] at h
  obtain ⟨⟨⟨⟨ho, he⟩, hi⟩, hl⟩, hc⟩ := h
  refine ⟨tidy_of_tidyB ho, he, hi, hl, fun pcn => ?_⟩
  rcases find_mem_or_none s.cores pcn with ⟨c, hm, hf⟩ | hf
  · simp only [State.core, hf]; exact hc c hm
  · simp only [State.core, hf, Core.reset]; exact (by decide : (0 : Nat) < 16)

/-- Whether an outcome is a value. -/
def gives {ε α : Type} [DecidableEq α] (o : Except ε α) (x : α) : Bool :=
  match o with
  | .ok y => decide (y = x)
  | .error _ => false

theorem ok_of {ε α : Type} [DecidableEq α] {o : Except ε α} {x : α} (h : gives o x = true) : o = .ok x := by
  cases o with
  | ok y => simp only [gives, decide_eq_true_eq] at h; rw [h]
  | error e => cases h

/-- Whether an outcome is an error. -/
def errs {ε α : Type} [DecidableEq ε] (o : Except ε α) (x : ε) : Bool :=
  match o with
  | .ok _ => false
  | .error y => decide (y = x)

theorem error_of {ε α : Type} [DecidableEq ε] {o : Except ε α} {x : ε} (h : errs o x = true) : o = .error x := by
  cases o with
  | ok y => cases h
  | error e => simp only [errs, decide_eq_true_eq] at h; rw [h]

/-- `Shadow.encloses` as a test. -/
def enclosesB (sh : Shadow) (x : Int) : Bool :=
  match sh with
  | .unbounded => true
  | .bounded lo hi => inInt32 lo && inInt32 hi && decide (lo ≤ x) && decide (x ≤ hi)

theorem encloses_of {sh : Shadow} {x : Int} (h : enclosesB sh x = true) : sh.encloses x := by
  cases sh with
  | unbounded => trivial
  | bounded lo hi =>
    simp only [enclosesB, Bool.and_eq_true, decide_eq_true_eq] at h
    exact ⟨h.1.1.1, h.1.1.2, h.1.2, h.2⟩

theorem test_reset_canonical : State.reset.canonical = true := by decide

theorem test_decode_scalar :
    [0x00143030#32, 0x00143031#32, 0x00143032#32, 0x00143033#32, 0x00143034#32, 0x00143035#32, 0x00143036#32,
     0x00143037#32, 0x00143038#32, 0x00143039#32, 0x0014303A#32, 0x0014303B#32, 0x0014303C#32, 0x0014303D#32,
     0x0014303E#32, 0x02143030#32, 0x02143031#32, 0x02143032#32, 0x02143033#32, 0x02143004#32, 0x02143005#32,
     0x02143036#32, 0x02143037#32, 0x02143038#32, 0x02143039#32, 0x0214303A#32, 0x0214303B#32, 0x0214303C#32,
     0x0214303D#32, 0x0214303E#32, 0x04143403#32, 0x06143403#32, 0x08143403#32, 0x0A143403#32, 0x0C160002#32, 0x0E160002#32].map decode =
    ([.sadd 5 6 3, .ssub 5 6 3, .smul 5 6 3, .smulh 5 6 3, .smulhu 5 6 3, .sand 5 6 3, .sor 5 6 3, .sxor 5 6 3,
      .sshl 5 6 3, .sshr 5 6 3, .ssra 5 6 3, .smin 5 6 3, .smax 5 6 3, .sminu 5 6 3, .smaxu 5 6 3, .sdiv 5 6 3,
      .sdivu 5 6 3, .srem 5 6 3, .sremu 5 6 3, .spopc 5 6, .sclz 5 6, .sshli 5 6 3, .sshri 5 6 3, .ssrai 5 6 3,
      .ssetEq 5 6 3, .ssetNe 5 6 3, .ssetLt 5 6 3, .ssetGe 5 6 3, .ssetLtu 5 6 3, .ssetGeu 5 6 3, .saddi 5 6 1027,
      .sandi 5 6 1027, .sori 5 6 1027, .sxori 5 6 1027, .sli 5 131074, .slih 5 131074] : List Instr).map .ok := by rfl

theorem test_decode_interval_branch :
    [0x10140000#32, 0x10140001#32, 0x10140002#32, 0x10140004#32, 0x10140005#32, 0x10140006#32, 0x10143038#32,
     0x10143039#32, 0x1014300A#32, 0x1014300B#32, 0x1828D204#32, 0x1A28D204#32, 0x1D000001#32, 0x1F000001#32,
     0x21403003#32, 0x23601000#32, 0x23601001#32].map decode =
    ([.iwidenUS 5, .iwidenLS 5, .iwidenBS 5, .iwidenUV 5, .iwidenLV 5, .iwidenBV 5, .iclampS 5 6 3, .iclampV 5 6 3,
      .ishqS 5 6, .ishqV 5 6, .bcc 5 6 4 516, .bcci 5 6 4 516, .jmp 16777217, .call 16777217, .brp 5 6 3, .bany 5 1026,
      .ball 5 1026] : List Instr).map .ok := by rfl

theorem test_decode_control :
    [0x2414009C#32, 0x26002800#32, 0x26002801#32, 0x26143007#32, 0x26143008#32, 0x26143009#32, 0x26000002#32,
     0x26000003#32, 0x26000004#32, 0x26000005#32, 0x26000006#32].map decode =
    ([.rep 5 2 3 4, .jmpi 5, .calli 5, .spawn 5 6, .spawnW 5 6, .launch 5 6, .ret, .join, .tfence, .exit, .nop] : List Instr).map .ok := by rfl

theorem test_decode_vector_integer :
    [0x28143030#32, 0x28143031#32, 0x28143032#32, 0x28143033#32, 0x28143034#32, 0x28143035#32, 0x28143036#32,
     0x28143037#32, 0x28143038#32, 0x28143039#32, 0x2814303A#32, 0x2814303B#32, 0x2814303C#32, 0x2A143030#32,
     0x2A143001#32, 0x2A143002#32, 0x2A143003#32, 0x2A143004#32, 0x2A143005#32, 0x2A143006#32, 0x2A140007#32,
     0x2A143008#32, 0x2A143039#32, 0x2A14303A#32, 0x2C143035#32, 0x2E143032#32, 0x30160002#32, 0x32143403#32,
     0x34143403#32, 0x36143003#32, 0x36143203#32, 0x36143403#32].map decode =
    ([.vadd 5 6 3, .vsub 5 6 3, .vmul 5 6 3, .vmulh 5 6 3, .vand 5 6 3, .vor 5 6 3, .vxor 5 6 3, .vandn 5 6 3, .vshl 5 6 3,
      .vshr 5 6 3, .vsra 5 6 3, .vmin 5 6 3, .vmax 5 6 3, .vmad 5 6 3, .vabs 5 6, .vneg 5 6, .vpopc 5 6, .vclz 5 6,
      .vbrev 5 6, .vmov 5 6, .vlane 5, .vbcast 5 6, .vextr 5 6 3, .vcvt 5 6 3, .vsel 5 6 3 5, .vcmp 5 6 3 2,
      .vmovi 5 131074, .vaddi 5 6 1027, .vandi 5 6 1027, .vshli 5 6 3, .vshri 5 6 3, .vsrai 5 6 3] : List Instr).map .ok := by rfl

theorem test_decode_vector_float :
    [0x40143030#32, 0x40143031#32, 0x40143032#32, 0x40143033#32, 0x40143034#32, 0x40143035#32, 0x40143036#32,
     0x40143037#32, 0x40143038#32, 0x40143039#32, 0x42143000#32, 0x42143001#32, 0x42143002#32, 0x42143003#32,
     0x42143004#32, 0x42143005#32, 0x42143006#32, 0x42143007#32, 0x42143008#32, 0x42143009#32, 0x4214300A#32, 0x44143032#32].map decode =
    ([.vfadd 5 6 3, .vfsub 5 6 3, .vfmul 5 6 3, .vfma 5 6 3, .vfms 5 6 3, .vfnma 5 6 3, .vfnms 5 6 3, .vfmin 5 6 3,
      .vfmax 5 6 3, .vfdiv 5 6 3, .vfabs 5 6, .vfneg 5 6, .vfrcp 5 6, .vfrsq 5 6, .vfsqrt 5 6, .vfexp2 5 6, .vflog2 5 6,
      .vfsin 5 6, .vfcos 5 6, .vfrnd 5 6, .vfclass 5 6, .vfcmp 5 6 3 2] : List Instr).map .ok := by rfl

theorem test_decode_predicate_lanes :
    [0x50143030#32, 0x50143031#32, 0x50143032#32, 0x50143003#32, 0x50143034#32, 0x50143005#32, 0x50143006#32,
     0x50143007#32, 0x50143008#32, 0x52143030#32, 0x52143031#32, 0x52143032#32, 0x52143003#32, 0x52143004#32,
     0x52143005#32, 0x52143006#32].map decode =
    ([.pand 5 6 3, .por 5 6 3, .pxor 5 6 3, .pnot 5 6, .pandn 5 6 3, .pset 5 6, .pget 5 6, .ppopc 5 6, .pfirst 5 6,
      .vshfl 5 6 3, .vshflx 5 6 3, .vrot 5 6 3, .vredadd 5 6, .vredmin 5 6, .vredmax 5 6, .vscan 5 6] : List Instr).map .ok := by rfl

theorem test_decode_array :
    [0x58158182#32, 0x5A158182#32, 0x5C158182#32, 0x5E158182#32, 0x60158182#32, 0x62158182#32, 0x64140303#32,
     0x64144303#32, 0x64148303#32, 0x6414C303#32, 0x66143000#32, 0x66143001#32, 0x66143002#32, 0x66143003#32,
     0x66143010#32, 0x66143011#32, 0x6615A012#32].map decode =
    ([.lda 5 6 3 2, .sta 5 6 3 2, .ldb 5 6 3 2, .stb 5 6 3 2, .slda 5 6 3 2, .ssta 5 6 3 2, .lds 5 6 3, .sts 5 6 3,
      .slds 5 6 3, .ssts 5 6 3, .vspill 5 6, .vfill 5 6, .sspill 5 6, .sfill 5 6, .abind 5 6, .abinds 5 6, .aqry 5 6 4] : List Instr).map .ok := by rfl

theorem test_decode_atomic_global :
    [0x68158184#32, 0x6815818C#32, 0x68158194#32, 0x6815819C#32, 0x681581A4#32, 0x681581AC#32, 0x681581B4#32,
     0x681581BC#32, 0x681581C4#32, 0x681581CC#32, 0x681581D4#32, 0x681581DC#32, 0x6A158184#32, 0x6A15818C#32,
     0x6A158194#32, 0x6A15819C#32, 0x6A1581A4#32, 0x6A1581AC#32, 0x6A1581B4#32, 0x6A1581BC#32, 0x6A1581C4#32,
     0x6A1581CC#32, 0x6A1581D4#32].map decode =
    ([.aaddVg 5 6 3 2, .aaddfVg 5 6 3 2, .aminVg 5 6 3 2, .amaxVg 5 6 3 2, .aminuVg 5 6 3 2, .amaxuVg 5 6 3 2,
      .aandVg 5 6 3 2, .aorVg 5 6 3 2, .axorVg 5 6 3 2, .axchVg 5 6 3 2, .acasVg 5 6 3 2, .aappVg 5 6 3 2, .aaddSg 5 6 3 2,
      .aaddfSg 5 6 3 2, .aminSg 5 6 3 2, .amaxSg 5 6 3 2, .aminuSg 5 6 3 2, .amaxuSg 5 6 3 2, .aandSg 5 6 3 2,
      .aorSg 5 6 3 2, .axorSg 5 6 3 2, .axchSg 5 6 3 2, .acasSg 5 6 3 2] : List Instr).map .ok := by rfl

theorem test_decode_atomic_scratch :
    [0x6C140306#32, 0x6C14030E#32, 0x6C140316#32, 0x6C14031E#32, 0x6C140326#32, 0x6C14032E#32, 0x6C140336#32,
     0x6C14033E#32, 0x6C140346#32, 0x6C14034E#32, 0x6C140356#32, 0x6C14035E#32, 0x6C160306#32, 0x6C16030E#32,
     0x6C160316#32, 0x6C16031E#32, 0x6C160326#32, 0x6C16032E#32, 0x6C160336#32, 0x6C16033E#32, 0x6C160346#32,
     0x6C16034E#32, 0x6C160356#32].map decode =
    ([.aaddVs 5 6 3, .aaddfVs 5 6 3, .aminVs 5 6 3, .amaxVs 5 6 3, .aminuVs 5 6 3, .amaxuVs 5 6 3, .aandVs 5 6 3,
      .aorVs 5 6 3, .axorVs 5 6 3, .axchVs 5 6 3, .acasVs 5 6 3, .aappVs 5 6 3, .aaddSs 5 6 3, .aaddfSs 5 6 3,
      .aminSs 5 6 3, .amaxSs 5 6 3, .aminuSs 5 6 3, .amaxuSs 5 6 3, .aandSs 5 6 3, .aorSs 5 6 3, .axorSs 5 6 3,
      .axchSs 5 6 3, .acasSs 5 6 3] : List Instr).map .ok := by rfl

theorem test_decode_fence_copy :
    [0x6E143003#32, 0x6E143004#32, 0x6E000000#32, 0x6E000001#32, 0x6E000002#32, 0x6E000005#32, 0x70143000#32,
     0x70143001#32, 0x70143002#32, 0x70143003#32, 0x70083004#32].map decode =
    ([.dwb 5 6, .iinv 5 6, .facq, .frel, .ffull, .fetchb, .acopyIn 5 6, .acopyOut 5 6, .agather 5 6, .ascadd 5 6,
      .qstream 2 6] : List Instr).map .ok := by rfl

theorem test_decode_queue_barrier :
    [0x72140800#32, 0x72140801#32, 0x72140002#32, 0x72002803#32, 0x72143004#32, 0x72143005#32, 0x72143006#32,
     0x72143007#32, 0x74143000#32, 0x74002801#32, 0x74143002#32].map decode =
    ([.qpop 5 1, .qstat 5 1, .cseal 5, .cwait 5, .armw 5 6, .waitg 5 6, .waitw 5 6, .waitwG 5 6, .bar 5 6, .bara 5,
      .gbar 5 6] : List Instr).map .ok := by rfl

theorem test_decode_matrix :
    [0x78080810#32, 0x78080811#32, 0x78080002#32, 0x78080003#32, 0x78083004#32, 0x78140005#32, 0x78140807#32,
     0x78000006#32, 0x7A158404#32, 0x7A158504#32, 0x7C098182#32, 0x7C480303#32, 0x7C898182#32, 0x7CC98182#32,
     0x7D098182#32, 0x7D498182#32].map decode =
    ([.mop 2 1 1, .mopn 2 1 1, .tzero 2, .mchk 2, .fmov 2 6, .mxon 5, .tcvt 5 1, .mxoff, .tsld 5 1 1 2 4, .tsst 5 1 1 2 4,
      .fld 2 6 3 2, .flds 2 6 3, .tld 2 6 3 2, .tst 2 6 3 2, .tstA 2 6 3 2, .tldv 2 6 3 2] : List Instr).map .ok := by rfl

theorem test_decode_system :
    [0x7E002800#32, 0x7E0AA848#32, 0x7E140080#32, 0x7E1430C0#32, 0x7E143100#32, 0x7E140140#32, 0x7E002980#32,
     0x7E0029C0#32, 0x7E000205#32, 0x7E0002C5#32, 0x7E000240#32, 0x7E000241#32, 0x7E000242#32, 0x7E000280#32].map decode =
    ([.mset 5, .mseti 2 85 8, .mget 5, .srd 5 6, .swr 5 6, .flgr 5, .flgc 5, .xseed 5, .trap 5, .pmark 5, .tretR, .tretS,
      .tretX, .bkpt] : List Instr).map .ok := by rfl

/-! ## Witnesses: scalars, branches, vectors, modes -/

theorem witness_WidenResults :
    (ready0.beyondVarch [5] = false ∧ ready0.pinned 5 = false)
    ∧ (let s := { ready0 with warp := { ready0.warp with pin := 1 } }; s.beyondVarch [5] = false ∧ s.pinned 5 = true) := by decide +kernel

theorem witness_ClampAndQueryResults : ready0.beyondVarch [3, 127] = false ∧ ready0.pinned 3 = false ∧ ready0.effMask ≠ 0 := by decide +kernel

theorem witness_BranchResults : ((5 : BitVec 3)).toNat < 6 := by decide

theorem witness_JumpResults :
    let s := withS ready0 0xFFFFFFFFFFFC 0 7
    (s.readS 1).toNat % 4 = 0 ∧ (s.readS 1).toNat < 2 ^ 48 ∧ (s.readS 63).toNat % 4 = 0 ∧ (s.readS 63).toNat < 2 ^ 48 := by decide +kernel

theorem witness_JumpFaults :
    (let s := withS ready0 3 0 7; (Instr.jmpi 1, (3 : DWord)) ∈ [(Instr.jmpi 1, s.readS 1), (.calli 1, s.readS 1), (.ret, s.readS 63)])
    ∧ (3 : DWord).toNat % 4 ≠ 0
    ∧ (let s := withS ready0 0x1000000000000 0 7
       (Instr.calli 1, (0x1000000000000 : DWord)) ∈ [(Instr.jmpi 1, s.readS 1), (.calli 1, s.readS 1), (.ret, s.readS 63)])
    ∧ (0x1000000000000 : DWord).toNat % 4 = 0 ∧ 2 ^ 48 ≤ (0x1000000000000 : DWord).toNat := by decide +kernel

theorem witness_DivergenceResults :
    let e : StackEntry := ⟨0x1000, 0x2000, 5, 7, 7⟩
    let at_ := fun (n : Nat) => { ready0 with warp := { ready0.warp with stack := List.replicate n e } }
    (at_ 31).warp.stack.length < 32 ∧ (at_ 32).warp.stack.length = 32
    ∧ ((at_ 1).warp.stack = [e] ∧ e.jpc = (at_ 1).warp.pc)
    ∧ (∀ x ∈ (at_ 0).warp.stack.head?, x.jpc ≠ (at_ 0).warp.pc)
    ∧ (let s := { (at_ 1) with warp := { (at_ 1).warp with pc := 0x1004 } }; ∀ x ∈ s.warp.stack.head?, x.jpc ≠ s.warp.pc) := by
  decide +kernel

/-- Every register of a warp as it starts is rightly shadowed. -/
theorem ready0_sound : ready0.scalarsSound := by
  intro r
  refine encloses_of ?_
  revert r
  decide +kernel

theorem witness_ScalarShadowsStaySound :
    ∃ t, wellFormed (.saddi 2 1 0x7FF) = true ∧ scalarFamily (.saddi 2 1 0x7FF) = true ∧ ready0.scalarsSound
      ∧ exec (.saddi 2 1 0x7FF) ready0 = .next t := by
  refine ⟨_, by decide, by decide, ready0_sound, rfl⟩

/-- The conditions of `VRow.Executes`, tested. -/
def executes (s : State) (d : BitVec 7) (r : VRow) : Bool :=
  !s.beyondVarch r.regs && r.etOk && (!r.rounds || decide (s.rm < 6)) && !s.pinned d

/-- MODE with an ET and a rounding mode. -/
def modeOf (et rm : Nat) : DWord := BitVec.ofNat 64 (7 + 8 * et + 128 * rm)

theorem witness_VectorIntegerResults :
    ((integerRows (withS ready0 0 0 (modeOf 5 0)) 127 2 3 0 0).all (executes (withS ready0 0 0 (modeOf 5 0)) 127)) = true
    ∧ (withS ready0 0 0 (modeOf 5 0)).et = 5 := by decide +kernel

theorem witness_VectorLaneResults : ((laneRows ready0 1 2 3 0 0 7).all (executes ready0 1)) = true := by decide +kernel

theorem witness_VectorFloatResults :
    ((floatRows (withS ready0 0 0 (modeOf 6 5)) 1 2 3).all (executes (withS ready0 0 0 (modeOf 6 5)) 1)) = true
    ∧ ((floatRows (withS ready0 0 0 (modeOf 10 0)) 1 2 3).all (executes (withS ready0 0 0 (modeOf 10 0)) 1)) = true
    ∧ (withS ready0 0 0 (modeOf 6 5)).rm = 5 := by decide +kernel

theorem witness_ConvertAndScanResults :
    ((convertRows (withS ready0 0 0 (modeOf 6 5)) 1 2 8).all (executes (withS ready0 0 0 (modeOf 6 5)) 1)) = true := by decide +kernel

theorem witness_PredicateResults :
    let s := withS ready0 0 0 (modeOf 6 0)
    ((predRows s 1 2 3 5).all fun r => !s.beyondVarch r.regs && r.etOk) = true ∧ s.effMask ≠ 0
    ∧ ({ s with warp := { s.warp with active := 0 } } : State).effMask = 0 := by decide +kernel

theorem witness_VectorToScalarResults :
    let s := withS ready0 0 0 (modeOf 6 5)
    ((toScalarRows s 1 2 3).all fun r => !s.beyondVarch r.regs && r.etOk && (!r.rounds || decide (s.rm < 6))) = true := by decide +kernel

theorem witness_VectorFaults :
    (let s := { ready0 with warp := { ready0.warp with varch := 16 } }
     s.beyondVarch [16] = true ∧ s.beyondVarch [15] = false
      ∧ ((vectorRows s 16 16 16 0 0 0 0 0).all fun r => s.beyondVarch r.regs) = true)
    ∧ ((floatRows ready0 1 2 3).all fun r => !ready0.beyondVarch r.regs && !r.etOk) = true
    ∧ (let s := withS ready0 0 0 (modeOf 6 6)
       ((floatRows s 1 2 3).any fun r => r.rounds && decide (6 ≤ s.rm)) = true
        ∧ ((toScalarRows s 1 2 3).any fun r => r.etOk && r.rounds && decide (6 ≤ s.rm)) = true
        ∧ ((predRows ready0 1 2 3 0).any fun r => !r.etOk) = true)
    ∧ ({ ready0 with warp := { ready0.warp with pin := 8 } } : State).pinned 96 = true := by decide +kernel

theorem witness_SystemRegisterResults : ready0.warp.rep = none ∧ (systemRows ready0).length = 20 := by decide +kernel

theorem witness_SystemRegisterFaults :
    ((systemRows ready0).all (fun r => r.1 != 0x35)) = true ∧ ((systemRows ready0).any fun r => r.1 == 0x24) = true
    ∧ (0x24 : BitVec 7).toNat < 0x30 := by decide +kernel

theorem witness_FlagAndCounterResults :
    let on := { ready0 with warp := { ready0.warp with flg := 0x80, mode := 0x8000000000 } }
    (∀ k, k < 8 → (ready0.warp.flg.getLsbD k && ready0.warp.mode.getLsbD (32 + k)) = false)
    ∧ (∃ k, k < 8 ∧ (on.warp.flg.getLsbD k && on.warp.mode.getLsbD (32 + k)) = true) :=
  ⟨by decide +kernel, 7, by decide, by decide +kernel⟩

/-- `rep 4, d1, a1, b1` over a `vadd v8, v0, v4` or over a word that may not be repeated. -/
def repeated (next : Word) : State := State.reset.placeInstr (bytesOf 4 0x240C0041 ++ bytesOf 4 next.toNat)

theorem witness_RepResults :
    (((repeated 0x28200040).bringCode 0 ((repeated 0x28200040).warp.pc + 4).toNat).fetchWord 0 ((repeated 0x28200040).warp.pc + 4).toNat
        = .ok (0x28200040, 0x20004)
    ∧ ((repeated 0x26000005).bringCode 0 ((repeated 0x26000005).warp.pc + 4).toNat).fetchWord 0 ((repeated 0x26000005).warp.pc + 4).toNat
        = .ok (0x26000005, 0x20004))
    ∧ repeats (repeated 0x28200040) 0x28200040 4 1 1 1 = true
    ∧ (repeated 0x28200040).warp.xrep.toNat < 4
    ∧ (let s := { repeated 0x28200040 with warp := { (repeated 0x28200040).warp with xrep := 4 } }
       4 ≤ s.warp.xrep.toNat ∧ s.warp.rep = none ∧ repeats s 0x28200040 4 1 1 1 = true)
    ∧ repeats (repeated 0x26000005) 0x26000005 4 1 1 1 = false :=
  ⟨⟨ok_of (by decide +kernel), ok_of (by decide +kernel)⟩, by decide +kernel⟩

theorem witness_RepetitionWords :
    unrepeatable 0x28200040#32 = false ∧ (steppedFields (majorOf 0x28200040#32)).1.isSome = true
    ∧ repetition 0x28200040#32 1 1 1 3 = some 0x282C1870#32 ∧ repetition 0x282C1FF0#32 1 1 1 127 = none := by decide +kernel

theorem witness_RepeatableWords :
    let s := { ready0 with warp := { ready0.warp with varch := 16 } }
    repeats s 0x28200040 4 1 1 1 = true ∧ repeats s 0x28200040 9 1 1 1 = false ∧ repeats s 0x26000005 1 0 0 0 = false
    ∧ s.beyondVarch (vectorRegs (.vmov 16 1)) = true ∧ (vectorRows s 1 2 3 0 0 0 0 0) ≠ [] ∧ (predRows s 1 2 3 0) ≠ []
    ∧ (toScalarRows s 1 2 3) ≠ [] := by decide +kernel
/-! ## Witnesses: faults, traps, array accesses, scratchpad, bindings -/

/-- A warp with a handler that a word of kernel code has called, at 0x1000. -/
def handled : State :=
  { placed with warp := { ready0.warp with trapvec := 128, khdr := 0x40, recVa := 0x1800, recAt := some (⟨0x101800, 0, false⟩, ⟨0x101800, 0, false⟩) } }

def record (cause : BitVec 16) : FaultRec :=
  { cause := cause, writes := false, whole := false, inRep := false, count := 1, lanes := 1, addr := 0, pc := 0x1000, ordinal := 0,
    areg := 0xFF, detail := 0, repidx := 0 }

theorem witness_TrapEntry :
    inWarpCause (record cBOUNDS).cause = true ∧ handled.warp.trapvec ≠ 0 ∧ handled.warp.xcause = 0
    ∧ handled.warp.recAt = some (⟨0x101800, 0, false⟩, ⟨0x101800, 0, false⟩) ∧ placed.warp.recAt = none := by decide +kernel

theorem witness_WalkedFaults : (cBOUNDS : BitVec 16) ≠ cTRANSLATION ∧ cBOUNDS ≠ cPERMISSION ∧ cUE ≠ cTRANSLATION := by decide

theorem witness_LaneFaultRecords :
    let l := [(0, (⟨cBOUNDS, 0, 4096⟩ : Trouble)), (1, ⟨cBOUNDS, 255, 4095⟩), (31, ⟨cBOUNDS, 255, 0⟩)]
    (∀ x ∈ l, x.1 < 32 ∧ x.2.detail < 256) ∧ l.Pairwise (fun x y => x.1 < y.1) := by decide

theorem witness_SoftwareTraps :
    handled.warp.trapvec ≠ 0 ∧ handled.warp.xcause = 0 ∧ handled.myCore.trapmode.getLsbD 1 = false := by decide +kernel

theorem witness_DebuggerBreakpoint :
    let s := { ready0 with cores := [{ Core.reset 0 with trapmode := 2 }] }
    s.myCore.trapmode.getLsbD 1 = true ∧ s.warp.resumed = false
    ∧ ({ s with warp := { s.warp with resumed := true } } : State).warp.resumed = true := by decide +kernel

/-- A warp in its handler after a fault of the `trap 0` at 0x1000. -/
def inHandler (xcause : BitVec 16) (repip : Bool) : State :=
  let s := State.reset.placeInstr (bytesOf 4 0x240C0041)
  { s with warp := { s.warp with xcause := xcause, xpc := 0x1000, xrep := 3, repip := repip, xmask := 1 } }

theorem witness_TrapReturn :
    (inHandler cBOUNDS true).fetchWord 0 (inHandler cBOUNDS true).warp.xpc.toNat = .ok (0x240C0041, 0x20000)
    ∧ (inHandler cBOUNDS true).warp.xcause ≠ 0 ∧ (inHandler cBOUNDS true).warp.stack.length = (inHandler cBOUNDS true).warp.tdepth :=
  ⟨ok_of (by decide +kernel), by decide +kernel⟩

theorem witness_TrapReturnFaults :
    ready0.warp.xcause = 0
    ∧ (let s := { ready0 with warp := { ready0.warp with xcause := 1, tdepth := 1 } }
       s.warp.xcause ≠ 0 ∧ s.warp.stack.length ≠ s.warp.tdepth) := by decide +kernel

/-- `placed` under a fault policy of its region. -/
def underPolicy (p : BitVec 2) : State := { placed with regions := [{ region1 with policy := p }] }

theorem witness_DeliveryBeyondWarp :
    let s := underPolicy 1
    (record cBOUNDS).cause ≠ cUE ∧ (record cBOUNDS).cause ≠ cGRID ∧ s.warp.trapvec = 0
    ∧ (s.policyOf s.warp.rid = 1 ∧ (s.trapmodeOf s.warp.rid).getLsbD 0 = false ∧ s.myCore.coalesce = false ∧ s.myCore.permits ≠ 0)
    ∧ (s.modifyCore 0 fun c => { c with permits := 0 }).myCore.permits = 0
    ∧ (underPolicy 0).policyOf 1 = 0 ∧ (underPolicy 2).policyOf 1 = 2
    ∧ (underPolicy 0).gang? (underPolicy 0).warp.launch (underPolicy 0).warp.gang = some gang1 ∧ gang1.asked = false
    ∧ gang1.state = .placed := by decide +kernel

theorem witness_DischargeChangesNoOutcome : (Shadow.bounded 0 31).encloses 31 := by
  simp [Shadow.encloses, inInt32]

/-- Array register 2 of `placed`: 4-byte elements from `base`. -/
def withArray (base extent : Nat) (esize : BitVec 4) (check : BitVec 2) : State :=
  placed.writeA 2 (placed.frameOf
    { ArrayReg.start with base := BitVec.ofNat 48 base, extent := BitVec.ofNat 31 extent, esize := esize, check := check })

theorem witness_BoundsOutcomes :
    let a := (withArray 0x600 4 2 0).readA 2
    ((-1 : Int) < 0) ∧ (0 ≤ (4 : Int) ∧ (a.extent.toNat : Int) ≤ 4)
    ∧ (0 ≤ (3 : Int) ∧ (3 : Int) < (a.extent.toNat : Int) ∧ Access.write.writes = true ∧ ((withArray 0x600 4 2 2).readA 2).check = 2)
    ∧ (let b := (withArray 0xFFFC 4 2 0).readA 2
       (Access.read.writes = true → b.ro = false) ∧ b.check ≠ 2
        ∧ placed.inLease placed.warp.launch (b.base.toNat + 1 * Machine.sizeOf b.esize.toNat) = false)
    ∧ (let size := Machine.sizeOf a.esize.toNat
       (3 : Int) % size ≠ 0 ∧ ((-4 : Int) % size = 0 ∧ (-4 : Int) < 0) ∧ ((16 : Int) % size = 0 ∧ (a.extent.toNat * size : Int) < 16 + size)
        ∧ ((12 : Int) % size = 0 ∧ (12 : Int) + size ≤ a.extent.toNat * size)) := by decide +kernel

/-- The state of the array loads: array register 2 with 32 words at 0x600. -/
def loads (check : BitVec 2) (extent : Nat) : State :=
  let s := withArray 0x600 extent 2 check
  { s with warp := { s.warp with vreg := s.warp.vreg.set 3 (Vector.ofFn fun i => BitVec.ofNat 32 i.val), vshd := s.warp.vshd.set 3 (.bounded 0 31) } }

theorem witness_VectorLoadResults :
    let s := loads 0 31
    let l := s.arrayAccesses (s.readA 2) .read false (s.shadowV 3) (0 : BitVec 7).toInt (s.vectorIndices 3)
    s.beyondVarch [5, 3] = false ∧ (s.readA 2).esize.toNat < 3 ∧ s.pinned 5 = false ∧ s.effMask ≠ 0
    ∧ LaneAccess.troubles l = [] ∧ (s.fillReserved (s.readA 2) false (s.shadowV 3) (0 : BitVec 7).toInt l).poisonedAccesses (s.readA 2) 4 l = []
    ∧ (∀ c ∈ l, c.lane < 32) ∧ l ≠ []
    ∧ ({ s with warp := { s.warp with active := 0 } } : State).effMask = 0 := by decide +kernel

/-- `NoFill` as a test. -/
def noFillB (s : State) (a : ArrayReg) (size : Nat) (l : List LaneAccess) : Bool :=
  l.all fun x => match x.fate with
    | .performs p none => s.framed a x.off.toNat && !p.unc && (State.sectorsOf p.pa size).all fun sec => !s.needsFill p.pa size sec
    | .performs _ (some off) => (range off size).all fun o => s.myCore.ccache.any fun w => w.launch == s.warp.launch && w.idx / 48 == o / 192
    | _ => true

theorem noFill_of {s : State} {a : ArrayReg} {size : Nat} {l : List LaneAccess} (h : noFillB s a size l = true) : NoFill s a size l := by
  intro x hx
  have hf := List.all_eq_true.mp h x hx
  split
  · next p e => rw [e] at hf; simpa [and_assoc] using hf
  · next p off e => rw [e] at hf; simpa using hf
  · trivial

/-- `loads` with lane 0 alone active and the word at 0x600 in core 0's L1. -/
def cached : State :=
  let s := loads 0 31
  { s with
    warp := { s.warp with active := 1 }
    cores := s.cores.map fun c => { c with l1 := [⟨5469, 0, [⟨16, 0, false, false, false, 0, []⟩]⟩] } }

theorem witness_NoFill :
    let l := cached.arrayAccesses (cached.readA 2) .read false (cached.shadowV 3) (0 : BitVec 7).toInt (cached.vectorIndices 3)
    NoFill cached (cached.readA 2) 4 l ∧ l ≠ [] ∧ cached.beyondVarch [5, 3] = false ∧ cached.pinned 5 = false ∧ cached.effMask ≠ 0
    ∧ LaneAccess.troubles l = []
    ∧ (cached.fillReserved (cached.readA 2) false (cached.shadowV 3) (0 : BitVec 7).toInt l).poisonedAccesses (cached.readA 2) 4 l = [] :=
  ⟨noFill_of (by decide +kernel), by decide +kernel⟩

theorem witness_ScalarLoadResults :
    let s := (withArray 0x600 4 3 1)
    let l := s.arrayAccesses (s.readA 2) .read false (s.shadowS 3) (3 : BitVec 7).toInt [(0, (s.readS 3).toInt)]
    (s.readA 2).esize.toNat < 4 ∧ LaneAccess.troubles l = []
    ∧ (s.fillAccesses (s.readA 2) 8 l).poisonedAccesses (s.readA 2) 8 l = [] := by decide +kernel

theorem witness_ArrayStoreResults :
    let s := loads 0 31
    (let l := s.arrayAccesses (s.readA 2) .write true (s.shadowV 3) (0 : BitVec 7).toInt [(0, 0), (31, 120)]
     s.beyondVarch [5, 3] = false ∧ (s.readA 2).esize.toNat < 3 ∧ s.effMask ≠ 0 ∧ LaneAccess.troubles l = []
      ∧ (∀ x ∈ l, s.framed (s.readA 2) x.off.toNat = true) ∧ ({ s with warp := { s.warp with active := 0 } } : State).effMask = 0)
    ∧ LaneAccess.troubles (s.arrayAccesses (s.readA 2) .write false (s.shadowV 3) (0 : BitVec 7).toInt (s.vectorIndices 3)) = []
    ∧ (let t := withArray 0x600 4 3 1
       (t.readA 2).esize.toNat < 4
        ∧ LaneAccess.troubles (t.arrayAccesses (t.readA 2) .write false (t.shadowS 3) (3 : BitVec 7).toInt [(0, (t.readS 3).toInt)]) = []) := by
  decide +kernel

theorem witness_ArrayAccessFaults :
    let s := loads 1 31
    let l := s.arrayAccesses (s.readA 2) .read false (s.shadowV 3) (0 : BitVec 7).toInt (s.vectorIndices 3)
    let p := { loads 0 31 with homes := { Homes.reset with poison := [(0x100600 / 48, 0xFFF)] } }
    let k := p.arrayAccesses (p.readA 2) .read false (p.shadowV 3) (0 : BitVec 7).toInt (p.vectorIndices 3)
    s.beyondVarch [5, 3] = false ∧ 3 ≤ ((withArray 0x600 4 3 1).readA 2).esize.toNat ∧ 4 ≤ ((withArray 0x600 4 4 1).readA 2).esize.toNat
    ∧ (s.readA 2).esize.toNat < 3 ∧ s.pinned 5 = false ∧ s.effMask ≠ 0 ∧ LaneAccess.troubles l ≠ []
    ∧ LaneAccess.troubles (s.arrayAccesses (s.readA 2) .write false (s.shadowV 3) (0 : BitVec 7).toInt (s.vectorIndices 3)) ≠ []
    ∧ LaneAccess.troubles k = []
    ∧ (p.fillReserved (p.readA 2) false (p.shadowV 3) (0 : BitVec 7).toInt k).poisonedAccesses (p.readA 2) 4 k ≠ []
    ∧ ({ placed with warp := { placed.warp with pin := 1 } } : State).pinned 5 = true
    ∧ (let q := withArray 0x600 4 3 1
       let at_ := fun (idx : Int) => ({ q with warp := { q.warp with sreg := q.warp.sreg.set 2 (BitVec.ofInt 64 idx), sshd := q.warp.sshd.set 2 .unbounded } } : State)
       let one := fun (kind : Access) (idx : Int) =>
         (at_ idx).arrayAccesses ((at_ idx).readA 2) kind false ((at_ idx).shadowS 2) 0 [(0, ((at_ idx).readS 2).toInt)]
       (q.readA 2).esize.toNat < 4 ∧ LaneAccess.troubles (one .read (-1)) = [(0, ⟨cBOUNDS, 0, 0x5F8⟩)]
        ∧ LaneAccess.troubles (one .write 4) = [(0, ⟨cBOUNDS, 1, 0x620⟩)]
        ∧ (let p := { q with homes := { Homes.reset with poison := [(0x100600 / 48, 0xFFF)] } }
           LaneAccess.troubles (one .read 0) = []
            ∧ (p.fillAccesses (p.readA 2) 8 (one .read 0)).poisonedAccesses (p.readA 2) 8 (one .read 0) = [(0, ⟨cUE, 0, 0x600⟩)])) := by
  decide +kernel

/-- `placed` with lanes 0 and 31 active, one word of its scratchpad stored and not yet performed, and another poisoned or not. -/
def scratching (poison : List Nat) : State :=
  { placed with
    cores := placed.cores.map fun c => { c with sramPoison := poison }
    warp := { placed.warp with active := 0x80000001, stores := [⟨0, some 0, 0, 0, false, [(32772, 9)]⟩] } }

theorem witness_ScratchLoadResults :
    (∀ i ∈ lanesOf (scratching []).effMask, ∃ p, (scratching []).scratchAccess (scratchAddress (scratching []) 3 1 i) 4 4 = .ok p
        ∧ (lanesSettled (scratching []) 3 1).scratchPoisoned p.1 p.2 4 = false)
    ∧ placed.scratchAccess ((placed.readS 1).toNat + 8 * (63 : BitVec 7).toInt) 8 8 = .ok (0, 32768 + 504)
    ∧ (scratching []).beyondVarch [5, 3] = false ∧ (scratching []).pinned 5 = false ∧ (scratching []).effMask ≠ 0
    ∧ (settledAt placed 8 8 ((placed.readS 1).toNat + 8 * (63 : BitVec 7).toInt)).scratchPoisoned 0 (32768 + 504) 8 = false := by
  refine ⟨fun i hi => ⟨(0, 32772), ?_, by decide +kernel⟩, ok_of (by decide +kernel), by decide +kernel⟩
  have : i = 0 ∨ i = 31 := by
    have h : lanesOf (scratching []).effMask = [0, 31] := by decide +kernel
    rw [h] at hi
    simpa using hi
  rcases this with rfl | rfl <;> exact ok_of (by decide +kernel)

theorem witness_OwnStoresPerformFirst :
    (scratching []).canonical = true ∧ (∀ p ∈ (scratching []).warp.stores, sortedFrom 0 p.cells = true)
    ∧ ((scratching []).settleOwn 0 32772 4).warp.stores = [] ∧ ((scratching []).settleOwn 0 32776 4).warp = (scratching []).warp
    ∧ (∀ e ∈ (scratching []).warp.ahead ++ (scratching []).warp.taken, e.is (some 0) 32772 4 = false)
    ∧ (let e : Early := { scratch := some 0, pa := 32772, bytes := [1, 2, 3, 4], bad := [] }
       ({ scratching [] with warp := { (scratching []).warp with ahead := [e] } } : State).warp.ahead.find? (·.is (some 0) 32772 4) = some e) := by
  decide +kernel

theorem witness_ScratchStoreResults :
    placed.scratchAccess ((placed.readS 1).toNat + 8 * (0 : BitVec 7).toInt) 8 8 = .ok (0, 32768)
    ∧ (∀ i, placed.scratchAccess (scratchAddress placed 3 1 i) 4 4 = .ok (0, 32772))
    ∧ placed.beyondVarch [5, 3] = false ∧ placed.effMask ≠ 0 ∧ placed.pinned 5 = false
    ∧ ({ placed with warp := { placed.warp with active := 0 } } : State).effMask = 0 := by
  refine ⟨ok_of (by decide +kernel), fun i => ?_, by decide +kernel⟩
  have z : ∀ j : Fin 32, (placed.readV 3).get j = 0 := by decide +kernel
  have h : lane (placed.readV 3) i = 0 := z _
  simp only [scratchAddress, h]
  exact ok_of (by decide +kernel)

theorem witness_ScratchFaults :
    (let s := withS placed 4 0x200000 7
     scratchTrouble s (s.readS 1).toNat 8 8 = some ⟨cMISALIGN, 8, 4⟩ ∧ scratchTrouble s (-8) 8 8 = some ⟨cSCRATCH, 0, -8⟩
      ∧ scratchTrouble s 0x400000 8 8 = some ⟨cSCRATCH, 0, 0x400000⟩ ∧ scratchTrouble s 0x80000 8 8 = some ⟨cSCRATCH, 1, 0x80000⟩
      ∧ scratchTrouble s 0x10000 8 8 = some ⟨cSCRATCH, 0, 0x10000⟩ ∧ scratchTrouble s 0xFFF8 8 8 = none
      ∧ scratchTrouble s (s.readS 2).toNat 8 8 = none)
    ∧ (placed.scratchAccess ((placed.readS 1).toNat + 8 * (1 : BitVec 7).toInt) 8 8 = .ok (0, 32776)
      ∧ (settledAt (scratching [8194]) 8 8 ((placed.readS 1).toNat + 8 * (1 : BitVec 7).toInt)).scratchPoisoned 0 32776 8 = true)
    ∧ (let s := scratching [8194]
       s.beyondVarch [5, 3] = false ∧ s.effMask ≠ 0 ∧ s.pinned 5 = false
        ∧ (scratchTrouble s (scratchAddress s 3 0x7F 31) 4 4).isSome = true
        ∧ (∀ i ∈ lanesOf s.effMask, scratchTrouble s (scratchAddress s 3 2 i) 4 4 = none)
        ∧ (lanesSettled s 3 2).scratchPoisoned 0 32776 4 = true)
    ∧ (let s := { placed with warp := { placed.warp with pin := 1 } }
       s.beyondVarch [5, 3] = false ∧ s.pinned 5 = true) :=
  ⟨by decide +kernel, ⟨ok_of (by decide +kernel), by decide +kernel⟩, by decide +kernel⟩

theorem witness_SpillAndFillResults :
    (placed.scratchAccess (0 : Nat) 144 48 = .ok (0, 32768) ∧ placed.scratchAccess (0 : Nat) 16 16 = .ok (0, 32768))
    ∧ (placed.readS 1).toNat = 0 ∧ placed.beyondVarch [5] = false ∧ placed.pinned 5 = false
    ∧ (settledAt placed 144 48 (0 : Nat)).scratchPoisoned 0 32768 144 = false ∧ (settledAt placed 16 16 (0 : Nat)).scratchPoisoned 0 32768 16 = false :=
  ⟨⟨ok_of (by decide +kernel), ok_of (by decide +kernel)⟩, by decide +kernel⟩

theorem witness_SpillAndFillFaults :
    (({ placed with warp := { placed.warp with varch := 16 } } : State).beyondVarch [16] = true ∧ placed.beyondVarch [5] = false)
    ∧ ({ placed with warp := { placed.warp with pin := 1 } } : State).pinned 5 = true ∧ placed.pinned 5 = false
    ∧ (let s := withS placed 24 0 7
       scratchTrouble s (s.readS 1).toNat 144 48 = some ⟨cMISALIGN, 48, 24⟩ ∧ scratchTrouble s (s.readS 1).toNat 16 16 = some ⟨cMISALIGN, 16, 24⟩)
    ∧ (let s := withS placed 0xFFF0 0x10000 7
       scratchTrouble s (s.readS 1).toNat 144 48 = some ⟨cSCRATCH, 0, 0xFFF0⟩ ∧ scratchTrouble s (s.readS 2).toNat 16 16 = some ⟨cSCRATCH, 0, 0x10000⟩
        ∧ scratchTrouble s (s.readS 1).toNat 16 16 = none)
    ∧ (let s := scratching [8194]
       s.beyondVarch [5] = false ∧ s.pinned 5 = false ∧ (s.readS 1).toNat = 0
        ∧ (settledAt s 144 48 0).scratchPoisoned 0 32768 144 = true ∧ (settledAt s 16 16 0).scratchPoisoned 0 32768 16 = true)
    ∧ (scratching [8194]).scratchAccess 0 144 48 = .ok (0, 32768) ∧ (scratching [8194]).scratchAccess 0 16 16 = .ok (0, 32768) :=
  ⟨by decide +kernel, by decide +kernel, by decide +kernel, by decide +kernel, by decide +kernel, by decide +kernel,
    ⟨ok_of (by decide +kernel), ok_of (by decide +kernel)⟩⟩

theorem witness_FillsAreSound :
    (∀ i : Fin 32, (Shadow.bounded 0 0).encloses ((Vector.replicate 32 (0 : Word)).get i).toInt)
    ∧ (Shadow.bounded (-5) 9).encloses (3 : DWord).toInt ∧ (List.replicate 144 (0xFF : Byte)).length = 144
    ∧ (List.replicate 16 (0xFF : Byte)).length = 16 := by
  refine ⟨fun i => ?_, ?_, List.length_replicate, List.length_replicate⟩
  · have z : ∀ j : Fin 32, (Vector.replicate 32 (0 : Word)).get j = 0 := by decide +kernel
    rw [z]
    simp [Shadow.encloses, inInt32]
  · simp [Shadow.encloses, inInt32]

theorem witness_BindingResults :
    (placed.globalPlace .read (placed.readS 2).toNat 32 = .ok (match placed.globalPlace .read 0 32 with | .ok p => p | .error _ => ⟨0, 0, false⟩)
    ∧ ∃ p, placed.globalPlace .read (placed.readS 2).toNat 32 = .ok p)
    ∧ (let s := withS placed 0xFFFFFFFFFFF8 0x237FFFFFFF 7
       let form := s.readS 2
       (s.readS 1).toNat < 2 ^ 48 ∧ form.toNat < 2 ^ 39 ∧ form.getLsbD 31 = false ∧ form.toNat % 2 ^ 31 = 2 ^ 31 - 1)
    ∧ 3 % 16 < 12 ∧ 3 / 16 % 4 ≠ 3 ∧ (0xFFFFFFFFFFF8 : DWord).toNat % Machine.sizeOf 3 = 0 := by
  refine ⟨⟨ok_of (by decide +kernel), _, ok_of (x := match placed.globalPlace .read 0 32 with | .ok p => p | .error _ => ⟨0, 0, false⟩) (by decide +kernel)⟩, by decide +kernel⟩

/-- `placed` with the descriptor at 0, and the state in which `abind` reads it. -/
def describing (bs : List Byte) : State :=
  { placed with homes := { Homes.reset with mem := Memory.putCells [] (cellsFrom 0x100000 bs) } }

def described (s : State) : State := (s.fillFor ⟨0x100000, 0, false⟩ 32).cacheLeaf 0 0

/-- The bytes of a descriptor: BASE, EXTENT, the code of ESIZE, CHECK and RO. -/
def descriptor (base extent code : Nat) : List Byte := bytesOf 8 base ++ bytesOf 4 extent ++ bytesOf 1 code

theorem witness_BindingFaults :
    (let form : DWord := 0x8000000000; 2 ^ 39 ≤ form.toNat)
    ∧ (let form : DWord := 0x300000010; form.toNat < 2 ^ 39 ∧ form.getLsbD 31 = false ∧ form.toNat / 2 ^ 32 % 16 = 3
        ∧ (0x1001 : DWord).toNat % Machine.sizeOf 3 ≠ 0)
    ∧ (let form : DWord := 0x2200000041
       form.toNat < 2 ^ 39 ∧ form.getLsbD 31 = false ∧ form.toNat / 2 ^ 32 % 16 = 2 ∧ form.toNat / 2 ^ 36 % 4 = 2
        ∧ placed.constSeg.2 < (0 : DWord).toNat + form.toNat % 2 ^ 31 * Machine.sizeOf 2)
    ∧ (16 : DWord).toNat % 32 ≠ 0 ∧ ((0x8000 : DWord).toNat % 32 = 0 ∧ ∃ t, placed.globalPlace .read (0x8000 : DWord).toNat 32 = .error t)
    ∧ placed.globalPlace .read (placed.readS 2).toNat 32 = .ok ⟨0x100000, 0, false⟩
    ∧ (described { placed with homes := { Homes.reset with poison := [(0x100000 / 48, 0xFFF)] } }).loadPoisoned ⟨0x100000, 0, false⟩ 32 = true
    ∧ (described (describing (descriptor 0 0 0))).loadPoisoned ⟨0x100000, 0, false⟩ 32 = false
    ∧ (128 ≤ ((((described (describing (descriptor 0 0 128))).loadBytes ⟨0x100000, 0, false⟩ 32).getD 12 0).toNat)
      ∧ ((described (describing (descriptor 2 1 3))).loadBytes ⟨0x100000, 0, false⟩ 32).take 13 = descriptor 2 1 3
      ∧ ((described (describing (descriptor 0 0x41 0x22))).loadBytes ⟨0x100000, 0, false⟩ 32).take 13 = descriptor 0 0x41 0x22
      ∧ (2 % Machine.sizeOf (3 % 16) ≠ 0 ∧ 0x22 / 16 % 4 = 2
        ∧ (described (describing (descriptor 0 0x41 0x22))).constSeg.2 < 0 + 0x41 * Machine.sizeOf (0x22 % 16))) := by
  refine ⟨by decide +kernel, by decide +kernel, by decide +kernel, by decide +kernel, ⟨by decide +kernel, ?_⟩, ok_of (by decide +kernel), by decide +kernel⟩
  exact ⟨_, error_of (x := match placed.globalPlace .read (0x8000 : DWord).toNat 32 with | .error t => t | .ok _ => ⟨0, 0, 0⟩) (by decide +kernel)⟩

/-! ## Witnesses: homes, atomics, fences, copies, queues, barriers -/

theorem witness_MovementKeepsBytes : Plain placed := plain_of_plainB (by decide +kernel)

theorem witness_WritesLand : Plain placed ∧ (∀ c ∈ cellsFrom 1050048 [1, 2, 3], lineOf c.1 = 5469) ∧ cellsFrom 1050048 [1, 2, 3] ≠ []
    ∧ sortedFrom 0 (cellsFrom 1050048 [1, 2, 3]) = true :=
  ⟨plain_of_plainB (by decide +kernel), by decide +kernel⟩

theorem witness_MemoryReadsAfterWrites :
    Memory.wf [(3, 1), (7, 2)] = true ∧ (255 : Nat) < 256 ^ 1 := by decide +kernel

theorem witness_ScratchAtomicResults :
    (placed.scratchAccess ((placed.readS 1).toNat : Int) 8 8 = .ok (0, 32768)) ∧ placed.canonical = true
    ∧ placed.scratchPoisoned 0 32768 8 = false ∧ placed.drain.scratchPoisoned 0 32768 8 = false
    ∧ (let s := { placed with warp := { placed.warp with vreg := placed.warp.vreg.set 3 (Vector.ofFn fun i => BitVec.ofNat 32 (4 * i.val)) } }
       s.beyondVarch [5, 6, 3] = false ∧ s.pinned 5 = false ∧ s.rm < 5 ∧ s.effMask ≠ 0
        ∧ ((scratchSpots s 3).map Prod.fst = lanesOf s.effMask)
        ∧ (∀ q ∈ scratchSpots s 3, s.drain.scratchPoisoned q.2.1 q.2.2 4 = false)
        ∧ ({ s with warp := { s.warp with active := 0 } } : State).effMask = 0) :=
  ⟨ok_of (by decide +kernel), by decide +kernel⟩

/-- `Calm` as a test. -/
def calmB (u : State) (p : Phys) (size : Nat) : Bool :=
  !u.monarch.encryption && p.pa / 192 == (p.pa + size - 1) / 192 && p.pa % 4 == 0
    && (match u.sliceLine? (lineOf p.pa) with | some l => l.key == p.key && l.stamp == u.stampOf u.warp.launch && l.valid.getLsbD (sectorOf p.pa % 4) | none => false)
    && u.homes.owners.all fun r => r.line != lineOf p.pa

theorem calm_of {u : State} {p : Phys} {size : Nat} (h : calmB u p size = true) : Calm u p size := by
  simp only [calmB, Bool.and_eq_true, Bool.not_eq_true', List.all_eq_true, beq_iff_eq, bne_iff_ne] at h
  obtain ⟨⟨⟨⟨he, hl⟩, ha⟩, hs⟩, ho⟩ := h
  refine ⟨he, hl, ha, ?_, ho⟩
  cases hc : u.sliceLine? (lineOf p.pa) with
  | none => rw [hc] at hs; cases hs
  | some l => rw [hc] at hs; simp only [Bool.and_eq_true, beq_iff_eq] at hs; exact ⟨l, rfl, hs.1.1, hs.1.2, hs.2⟩

/-- 32 words at 0x600, whose line is in its slice. -/
def calm (check : BitVec 2) (extent : Nat) : State :=
  { loads check extent with homes := { Homes.reset with lines := [⟨5469, 0, 0, 15⟩] } }

theorem witness_GlobalAtomicResults :
    (let s := calm 1 32
     let a := s.readA 2
     let l := s.arrayAccesses a .both false (s.shadowS 3) 0 [(0, (s.readS 3).toInt)]
     let k := s.arrayAccesses a .both false (s.shadowV 3) 0 (s.vectorIndices 3)
     let p : Phys := ⟨0x100600, 0, false⟩
     Calm (globalReady s a 3 4 l) p 4
     ∧ (∀ q ∈ State.performing k, Calm (globalReady s a 3 4 k) q.2 4)
     ∧ (a.esize = 2 ∧ s.rm < 5 ∧ l.map LaneAccess.fate = [.performs p none]
      ∧ (∀ j < 4, (globalReady s a 3 4 l).agentPoison (p.pa + j) = false))
     ∧ (s.beyondVarch [5, 6, 3] = false ∧ s.pinned 5 = false ∧ s.effMask ≠ 0 ∧ LaneAccess.troubles k = []
      ∧ (∀ q ∈ State.performing k, ∀ j < 4, (globalReady s a 3 4 k).agentPoison (q.2.pa + j) = false)))
    ∧ (let s := calm 0 0
       (s.arrayAccesses (s.readA 2) .both false (s.shadowS 3) 0 [(0, (s.readS 3).toInt)]).map LaneAccess.fate = [.suppressed])
    ∧ ({ calm 1 32 with warp := { (calm 1 32).warp with active := 0 } } : State).effMask = 0 := by
  refine ⟨⟨calm_of (by decide +kernel), fun q hq => calm_of ?_, by decide +kernel⟩, by decide +kernel⟩
  have h : ∀ q ∈ State.performing ((calm 1 32).arrayAccesses ((calm 1 32).readA 2) .both false ((calm 1 32).shadowV 3) 0
      ((calm 1 32).vectorIndices 3)),
      calmB (globalReady (calm 1 32) ((calm 1 32).readA 2) 3 4 ((calm 1 32).arrayAccesses ((calm 1 32).readA 2) .both false
        ((calm 1 32).shadowV 3) 0 ((calm 1 32).vectorIndices 3))) q.2 4 = true := by decide +kernel
  exact h q hq

theorem witness_AppendResults :
    (let s := calm 1 32
     let a := s.readA 2
     let l := s.arrayAccesses a .both false (s.shadowV 3) 0 ((s.vectorIndices 3).take 1)
     let p : Phys := ⟨0x100600, 0, false⟩
     Calm (globalReady s a 3 4 l) p 4
     ∧ (a.esize = 2 ∧ s.effMask ≠ 0 ∧ l.map LaneAccess.fate = [.performs p none]
        ∧ (∀ j < 4, (globalReady s a 3 4 l).agentPoison (p.pa + j) = false) ∧ s.beyondVarch [5, 3] = false ∧ s.pinned 5 = false))
    ∧ (placed.scratchAccess ((lane (placed.readV 3) 0).toNat : Int) 4 4 = .ok (0, 32768)
      ∧ placed.canonical = true ∧ lanesOf placed.effMask = 0 :: (lanesOf placed.effMask).tail
      ∧ placed.scratchPoisoned 0 32768 4 = false ∧ placed.drain.scratchPoisoned 0 32768 4 = false) :=
  ⟨⟨calm_of (by decide +kernel), by decide +kernel⟩, ok_of (by decide +kernel), by decide +kernel⟩

theorem witness_FenceResults :
    (let s := { placed with warp := { placed.warp with stores := [⟨0, none, 5469, 0, false, [(1050048, 9)]⟩] } }
     Plain s ∧ s.canonical = true ∧ ∀ q ∈ s.warp.stores, q.scratch = none → q.cells ≠ [] ∧ sortedFrom 0 q.cells = true ∧ ∀ c ∈ q.cells, lineOf c.1 = q.line)
    ∧ (Plain placed ∧ placed.warp.stores = [])
    ∧ (placed.readS 2).setWidth 32 = 0#32
    ∧ (let s := withS placed 0xFFFFFFFFE000 0x2000 7
       let n := (s.readS 2).toNat % 2 ^ 32
       n ≠ 0 ∧ (s.readS 1).toNat + n ≤ 2 ^ 48)
    ∧ (let s := withS placed 0xFFFFFFFFFFFF 2 7
       let n := (s.readS 2).toNat % 2 ^ 32
       n ≠ 0 ∧ 2 ^ 48 < (s.readS 1).toNat + n)
    ∧ placed.runsOf 0 2 0x1000 0x2000 ≠ [] :=
  ⟨⟨plain_of_plainB (by decide +kernel), by decide +kernel⟩, ⟨plain_of_plainB (by decide +kernel), rfl⟩, by decide +kernel⟩

/-- Operands of a copy of `count` elements from element `first` to the scratchpad's start. -/
def copying (first count : DWord) (check : BitVec 2) : State :=
  let s := withArray 0x600 32 2 check
  { s with warp := { s.warp with sreg := ((s.warp.sreg.set 4 first).set 5 0).set 6 count } }

theorem witness_CopyIssueResults :
    (let s := copying 0 32 1
     let c := operands s .copyIn 2 4
     (∃ pieces, s.drain.copyGlobal c = .ok pieces)
      ∧ s.drain.copyFirst c = none ∧ State.copyBounds c = none ∧ s.drain.myCore.copies.length < 64)
    ∧ (let s := copying 0 32 1
       let full := s.modifyCore 0 fun c => { c with copies := List.replicate 64 ⟨0, 9, 1, .copyIn, ArrayReg.start, 0, (0, 0), 0, (0, 0), none,
         none, 0, false, none, none, [], none, [], [], [], [], []⟩ }
       64 ≤ full.drain.myCore.copies.length ∧ full.drain.copyFirst (operands full .copyIn 2 4) = none)
    ∧ (let c := operands (copying 0 33 0) .copyIn 2 4
       (copying 0 33 0).drain.copyFirst c = none ∧ (State.copyBounds c).isSome = true ∧ c.areg.check = 0)
    ∧ (let c := operands (copying 0 33 1) .copyIn 2 4; (State.copyBounds c).isSome = true ∧ c.areg.check ≠ 0)
    ∧ ((copying 0 0x20000000001 1).drain.copyFirst (operands (copying 0 0x20000000001 1) .copyIn 2 4)).isSome = true := by
  refine ⟨⟨⟨[⟨0, 0x100600, 128, 0, false⟩], ok_of (by decide +kernel)⟩, by decide +kernel⟩, by decide +kernel⟩

/-- A copy that holds a slot of core 0 under the id 0. -/
def held (op : CopyOp) (areg : ArrayReg) (pieces : List Piece) (indices : Option (List Int)) : Copy :=
  { id := 0, cw := 9, launch := 1, op := op, areg := areg, count := 2, side := (0, 32768), woff := 0, list := (0, 33000), aw := none, dv := none,
    mode := 7, suppressed := false, batch := none, version := none, pieces := pieces, indices := indices, todo := [0], arrivals := [],
    rows := [], badWords := [], asked := [] }

/-- `placed` with that copy, and a step about it. -/
def copies1 (c : Copy) : State :=
  { placed with cores := placed.cores.map fun k => { k with copies := [c] }, subject := { pcn := 0, id := 0, n := 0 } }

theorem witness_CopySectorResults :
    (let c := held .copyIn (placed.frameOf { ArrayReg.start with base := 0x600, esize := 2, extent := 2 }) [⟨0, 0x100600, 8, 0, false⟩] none
     Plain (copies1 c) ∧ (copies1 c).copy? 0 0 = some c ∧ 0 ∈ c.todo ∧ c.areg.check ≠ 2 ∧ c.areg.esize.toNat < 5
      ∧ c.pieces.Pairwise (fun x y => x.off + x.len ≤ y.off)
      ∧ (let d := { c with areg := { c.areg with check := 2 } }
         (copies1 d).copy? 0 0 = some d ∧ d.areg.check = 2 ∧ (copies1 d).launch? d.launch = some launch1 ∧ d.areg.esize.toNat < 5 ∧ d.suppressed = false))
    ∧ (let c := { held .copyIn ArrayReg.start [] none with suppressed := true }
       Plain (copies1 c) ∧ (copies1 c).copy? 0 0 = some c)
    ∧ (let c := held .copyOut (placed.frameOf { ArrayReg.start with base := 0x600, esize := 2, extent := 2 }) [⟨0, 0x100600, 8, 0, false⟩] none
       Plain (copies1 c) ∧ (copies1 c).copy? 0 0 = some c ∧ 0 ∈ c.todo
        ∧ (let d := { c with pieces := [⟨0, 0x100FFC, 4, 0, false⟩, ⟨4, 0x101000, 4, 0, false⟩] }
           (copies1 d).copy? 0 0 = some d ∧ 1 < d.pieces.length ∧ d.pieces.Pairwise (fun x y => x.off + x.len ≤ y.off) ∧ 0 ∈ d.todo)
        ∧ c.pieces.Pairwise (fun x y => x.off + x.len ≤ y.off))
    ∧ (let c := held .scatterAdd (placed.frameOf { ArrayReg.start with base := 0x600, esize := 2, extent := 2 }) [] (some [1, 2])
       Plain (copies1 c) ∧ c.areg.esize.toNat < 5 ∧ c.indices = some [1, 2]
        ∧ (copies1 c).rowPlace 0 c (State.indexOf c 0) = some ⟨0x100604, 0, false⟩ ∧ 0x100604 % 4 = 0
        ∧ (copies1 { c with indices := some [2, 1] }).rowPlace 0 { c with indices := some [2, 1] } (State.indexOf { c with indices := some [2, 1] } 0) = none
        ∧ c.dv = none
        ∧ (let d := { c with indices := some [2, 1], dv := some (0, 32776) }; 0 % (d.areg.esize.toNat / 4) = 0 ∧ d.dv = some (0, 32776)))
    ∧ (let c := held .gather (placed.frameOf { ArrayReg.start with base := 0x600, esize := 2, extent := 2 }) [] (some [1, 2])
       Plain (copies1 c) ∧ c.areg.esize.toNat < 5 ∧ c.areg.check ≠ 2 ∧ c.dv = none ∧ c.indices = some [1, 2] ∧ c.suppressed = false
        ∧ (let d := { c with areg := { c.areg with check := 2 } }
           0 < d.chunk 0 ∧ d.areg.check = 2 ∧ (copies1 d).launch? d.launch = some launch1 ∧ d.indices = some [1, 2])) :=
  ⟨⟨plain_of_plainB (by decide +kernel), by decide +kernel⟩, ⟨plain_of_plainB (by decide +kernel), by decide +kernel⟩,
    ⟨plain_of_plainB (by decide +kernel), by decide +kernel⟩, ⟨plain_of_plainB (by decide +kernel), by decide +kernel⟩,
    ⟨plain_of_plainB (by decide +kernel), by decide +kernel⟩⟩

/-- A gather whose first row lies outside its array, with a drop counter. -/
def dropping : Copy :=
  { held .gather (placed.frameOf { ArrayReg.start with base := 0x600, esize := 2, extent := 2 }) [] (some [9, 1]) with dv := some (0, 32776) }

/-- Bytes of a kernel's header (R88): 16 registers of each kind, scratchpad 2, a block of 1 warp, a gang of 1 block. -/
def header (trapvec : Nat) : List Byte :=
  bytesOf 4 0x4B484C37 ++ [1, 1, 1, 2, 1, 1] ++ bytesOf 2 0 ++ bytesOf 4 trapvec ++ bytesOf 4 4096 ++ List.replicate 44 0

/-- `placed` with page tables for its region, which map 0x1000 to 0x20000, a header at 0x40 and other bytes. -/
def tables (cells : List Host.Cell) : State :=
  { placed with homes := { Homes.reset with mem := (State.codeCells [] ++ cellsFrom 0x100040 (header 64) ++ cells).filter fun c => c.2 != 0 } }

/-- The first of some addresses that core 0 cannot translate for a read. -/
def firstLost (s : State) (lo n : Nat) : Option Nat :=
  (range lo n).find? fun va => match s.translate 0 .read va with | .ok _ => false | .error _ => true

theorem tlbs_true {s : State} {pcn : Nat} (h : (s.core pcn).tlb = []) (hc : (s.cluster (State.clusterOf pcn)).tlb = []) : TlbsTrue s pcn := by
  intro va
  simp only [State.leafFor, h, hc, List.find?_nil]

/-- A state whose TLBs are empty: core 0 walks. -/
def untranslated (s : State) : State := { s with cores := s.cores.map fun c => { c with tlb := [] } }

theorem witness_CopyDrops :
    Plain (untranslated (copies1 dropping)) ∧ (untranslated (copies1 dropping)).copy? 0 0 = some dropping ∧ 0 ∈ dropping.todo ∧ dropping.op = .gather
    ∧ TlbsTrue (untranslated (copies1 dropping)) 0 ∧ dropping.suppressed = false ∧ 0 < dropping.chunk 0
    ∧ dropping.areg.esize.toNat < 5 ∧ dropping.areg.check ≠ 2 ∧ dropping.indices = some [9, 1] ∧ dropping.dv = some (0, 32776)
    ∧ 32768 + 0 + dropping.chunk 0 ≤ 32776 ∧ (untranslated (copies1 dropping)).dropped 0 dropping 0 = true :=
  ⟨plain_of_plainB (by decide +kernel), by decide +kernel, by decide +kernel, by decide +kernel, tlbs_true (by decide +kernel) (by decide +kernel),
    by decide +kernel⟩

theorem witness_ArrivalResults :
    (placed.scratchAccess ((placed.readS 2).toNat : Int) 16 16 = .ok (0, 32768)) ∧ placed.canonical = true ∧ placed.warp.stores = []
    ∧ placed.sramPoisoned 0 32768 16 = false
    ∧ (let c := { held .copyIn ArrayReg.start [] none with aw := some (0, 32768), arrivals := [48, 8], todo := [] }
       (copies1 c).canonical = true ∧ (copies1 c).copy? 0 0 = some c ∧ c.aw = some (0, 32768) ∧ c.arrivals = 48 :: [8]
        ∧ (copies1 c).sramPoisoned 0 32768 16 = false ∧ (copies1 c).warpAt? 0 c.cw = none)
    ∧ (let c := { held .copyIn ArrayReg.start [] none with todo := [] }
       (copies1 c).copy? 0 0 = some c ∧ c.todo = [] ∧ c.arrivals = []) :=
  ⟨ok_of (by decide +kernel), by decide +kernel⟩

/-- A copy of the warp of `placed` in a batch. -/
def batched (b : Option Word) : Copy := { held .copyIn ArrayReg.start [] none with cw := 0, batch := b }

theorem witness_BatchResults :
    (placed.myCore.copies.filter fun c => c.cw == placed.warp.cw).filter (fun c => c.batch == none) = []
    ∧ (let all := batched none :: (List.range 16).map fun i => batched (some (BitVec.ofNat 32 (i + 1)))
       let s : State := { placed with cores := placed.cores.map fun k => { k with copies := all }, warp := { placed.warp with lastSeal := 16 } }
       let mine := s.myCore.copies.filter fun c => c.cw == s.warp.cw
       mine.filter (fun c => c.batch == none) ≠ [] ∧ 16 ≤ (mine.filterMap Copy.batch).eraseDups.length
        ∧ (∃ c ∈ mine, c.batch = some 16 ∧ ((16 : Word) - 16).toNat < 2 ^ 31)) := by decide +kernel

theorem witness_WordWaitResults :
    (placed.scratchAccess ((placed.readS 2).toNat : Int) 16 16 = .ok (0, 32768)
      ∧ placed.scratchAccess ((placed.readS 2).toNat : Int) 4 4 = .ok (0, 32768)
      ∧ placed.translate 0 .read (placed.readS 2).toNat = .ok ⟨0x100000, 0, false⟩ ∧ Plain placed)
    ∧ (settledAt placed 16 16 (placed.readS 2).toNat).scratchPoisoned 0 32768 16 = false
    ∧ (settledAt placed 4 4 (placed.readS 2).toNat).scratchPoisoned 0 32768 4 = false
    ∧ (BitVec.ofNat 16 (ofBytes ((((settledAt placed 16 16 (placed.readS 2).toNat).scratchBytes 0 32768 16).drop 12).take 2)) - 0x8001#16).toNat < 32768
    ∧ 32768 ≤ (BitVec.ofNat 16 (ofBytes ((((settledAt placed 16 16 (placed.readS 2).toNat).scratchBytes 0 32768 16).drop 12).take 2)) - 0x8000#16).toNat
    ∧ BitVec.ofNat 32 (ofBytes ((settledAt placed 4 4 (placed.readS 2).toNat).scratchBytes 0 32768 4)) = (placed.readS 3).setWidth 32
    ∧ BitVec.ofNat 32 (ofBytes ((settledAt placed 4 4 (placed.readS 2).toNat).scratchBytes 0 32768 4)) ≠ 1#32
    ∧ placed.warp.stores = [] ∧ (placed.readS 2).toNat % 8 = 0 ∧ 0x100000 / 192 = (0x100000 + 7) / 192
    ∧ (∀ j < 8, ((placed.cacheLeaf 0 (placed.readS 2).toNat).atHomes 0 0x100000 8).agentPoison (0x100000 + j) = false)
    ∧ BitVec.ofNat 64 (ofBytes ((List.range 8).map fun j => placed.agentByte 0 (0x100000 + j))) = placed.readS 3
    ∧ (withS placed 4 0 7).readS 1 = 4 ∧ (4 : DWord).toNat % 8 ≠ 0 :=
  ⟨⟨ok_of (by decide +kernel), ok_of (by decide +kernel), ok_of (by decide +kernel), plain_of_plainB (by decide +kernel)⟩, by decide +kernel⟩

/-- A stream program for 2 × 3 elements of 4 bytes of the scratchpad, or of array register 2. -/
def program (scratch : Bool) : List Byte :=
  bytesOf 8 0 ++ bytesOf 4 2 ++ bytesOf 4 3 ++ bytesOf 4 1 ++ bytesOf 4 1 ++ bytesOf 4 2 ++ bytesOf 4 0
    ++ (if scratch then [16, 2] else [2, 0]) ++ bytesOf 2 0 ++ bytesOf 4 (if scratch then 64 else 0) ++ List.replicate 24 0

/-- A warp with a stream program at the start of its scratchpad and array register 2 bound. -/
def streaming (scratch : Bool) : State :=
  let s := withArray 0x600 32 2 1
  { s with cores := s.cores.map fun k => { k with sram := Memory.putCells [] (cellsFrom 32768 (program scratch)) } }

/-- The stream program at the start of that scratchpad. -/
def programIn (s : State) : Stream := streamOf (s.scratchBytes 0 32768 64)

/-- Core 0's queue 1. -/
def withQueue (q : Queue) : State := placed.modifyCore 0 fun c => { c with queues := c.queues.set 1 q }

theorem witness_QueueResults :
    ((streaming true).scratchAccess (((streaming true).readS 1).toNat : Int) 64 16 = .ok (0, 32768)
      ∧ (streaming false).streamGlobal (programIn (streaming false)) ((streaming false).readA 2) = .ok false)
    ∧ (let s := streaming true
       let g := programIn s
       let u := settledAt s.drain 64 16 (s.readS 1).toNat
       u.scratchPoisoned 0 32768 64 = false ∧ streamOf (u.scratchBytes 0 32768 64) = g ∧ g.reserved = false ∧ 0 < g.total ∧ g.total ≤ 2 ^ 31
        ∧ (s.queueOf 0 1).owner = none ∧ (s.queueOf 0 1).remain = 0 ∧ g.scratch = true ∧ u.streamOutside g = none)
    ∧ (let g := programIn (streaming false)
       streamOf ((settledAt (streaming false).drain 64 16 ((streaming false).readS 1).toNat).scratchBytes 0 32768 64) = g ∧ g.reserved = false ∧ g.total = 6 ∧ g.scratch = false ∧ g.areg = 2 ∧ ((streaming false).readA 2).esize.toNat < 5)
    ∧ (let s := withQueue { Queue.empty with owner := some 0 }
       s.beyondVarch [5] = false ∧ s.pinned 5 = false ∧ (s.queueOf 0 1).owner = some s.warp.cw ∧ s.effMask ≠ 0 ∧ (s.queueOf 0 1).entries = [])
    ∧ (let s := withQueue { Queue.empty with owner := some 0, entries := [(Vector.replicate 32 7, false)] }
       (s.queueOf 0 1).owner = some s.warp.cw ∧ (s.queueOf 0 1).entries = (Vector.replicate 32 7, false) :: [])
    ∧ (let s := withQueue { Queue.empty with owner := some 0, entries := [(Vector.replicate 32 7, true)] }
       (s.queueOf 0 1).owner = some s.warp.cw ∧ (s.queueOf 0 1).entries = (Vector.replicate 32 7, true) :: [])
    ∧ (placed.queueOf 0 1).owner ≠ some placed.warp.cw
    ∧ (let s := { withQueue { Queue.empty with owner := some 0, prog := program true, remain := 1 } with subject := { pcn := 0, id := 1 } }
       let y := s.queueOf 0 (BitVec.ofNat 2 s.subject.id)
       s.subject.pcn = s.warp.pcn ∧ y.owner = some s.warp.cw ∧ s.warp.status ≠ .free ∧ s.warp.status ≠ .halted ∧ y.remain ≠ 0
        ∧ y.entries.length < 16 ∧ y.suppressed = false ∧ (streamOf y.prog).scratch = true
        ∧ ({ y with suppressed := true } : Queue).suppressed = true)
    ∧ ({ withQueue { Queue.empty with owner := some 0 } with warp := { placed.warp with active := 0 } } : State).effMask = 0 :=
  ⟨⟨ok_of (by decide +kernel), ok_of (by decide +kernel)⟩, by decide +kernel⟩

/-- Core 0's queue 1 with a program over the words at 0x1000, and empty TLBs. -/
def filling (check : BitVec 2) : State :=
  let q := { Queue.empty with owner := some 0, prog := program false, remain := 1, areg := { ArrayReg.start with base := 0x1000, extent := 32, esize := 2, check := check } }
  { untranslated (withQueue q) with
    subject := { pcn := 0, id := 1 }, homes := { Homes.reset with mem := (State.codeCells []).filter fun c => c.2 != 0 } }

theorem witness_QueueFill_memory :
    TlbsTrue (filling 1) 0 ∧ Plain (filling 1)
    ∧ (let s := filling 1
       let y := s.queueOf 0 (BitVec.ofNat 2 s.subject.id)
       s.subject.pcn = s.warp.pcn ∧ y.owner = some s.warp.cw ∧ s.warp.status ≠ .free ∧ s.warp.status ≠ .halted ∧ y.remain ≠ 0
        ∧ y.entries.length < 16 ∧ y.suppressed = false ∧ (streamOf y.prog).scratch = false ∧ y.areg.check ≠ 2
        ∧ ∀ i < 6, (match s.translate 0 .read (0x1000 + 4 * i) with | .ok p => decide (p.pa = 0x20000 + 4 * i) | .error _ => false) = true)
    ∧ (let s := filling 2
       (s.queueOf 0 (BitVec.ofNat 2 s.subject.id)).areg.check = 2 ∧ s.launch? s.warp.launch = some launch1) :=
  ⟨tlbs_true (by decide +kernel) (by decide +kernel), plain_of_plainB (by decide +kernel), by decide +kernel⟩

theorem witness_BarrierResults :
    (let u := placed.drain
     placed.warp.index ≠ none ∧ placed.warp.active = 0xFFFFFFFF#32 ∧ placed.warp.departed = false
      ∧ (u.gang? u.warp.launch u.warp.gang).isSome = true ∧ (u.blockAt? u.warp.launch u.warp.gang u.warp.block).isSome = true
      ∧ 0 ∉ (u.barrierOf false 15).arrived ∧ 0 ∉ (u.barrierOf false 15).again ∧ 0 ∉ (u.barrierOf true 15).arrived
      ∧ (∀ p ∈ u.participants 1 0 (some 0), p = 0 ∨ p ∈ (u.barrierOf false 15).arrived)
      ∧ (∀ p ∈ u.participants 1 0 none, p = 0 ∨ p ∈ (u.barrierOf true 15).arrived))
    ∧ (let s := { placed with others := [{ placed.warp with cw := 1, index := some 1 }] }
       let u := s.drain
       (∃ p ∈ u.participants 1 0 (some 0), p ≠ 0 ∧ p ∉ (u.barrierOf false 15).arrived)
        ∧ (∃ p ∈ u.participants 1 0 none, p ≠ 0 ∧ p ∉ (u.barrierOf true 15).arrived))
    ∧ placed.gangHalting placed.warp.launch placed.warp.gang = false
    ∧ (let s := { placed with gangs := [{ gang1 with state := .halting }] }
       s.gangHalting s.warp.launch s.warp.gang = true ∧ housed s.drain) := by
  unfold housed
  decide +kernel

theorem witness_BarrierFaults :
    ({ ready0 with warp := { ready0.warp with index := none } } : State).warp.index = none
    ∧ (let s := { ready0 with warp := { ready0.warp with active := 0x7FFFFFFF } }
       s.warp.index ≠ none ∧ s.warp.active ≠ 0xFFFFFFFF#32) := by decide +kernel

/-! ## Witnesses: the matrix grid -/

/-- Tile 0 pinned, all zeros, with checksums that watch rows 3 and 5 and columns 4 and 6; MODE.FA = FB, ACC as `acc` says. -/
def pinned1 (acc : Bool) (fmt : Nat) : State :=
  let sum : TileSum :=
    { tile := 0, cols := List.replicate 32 ⟨0, 0⟩, rows := List.replicate 32 ⟨0, 0⟩, n := 0, ql := false
      exemptCols := (List.range 32).filter fun k => k != 4 && k != 6
      exemptRows := (List.range 32).filter fun k => k != 3 && k != 5 }
  { placed with warp := { ready0.warp with
      pin := 1, tileAcc := acc, sums := [sum]
      mode := BitVec.ofNat 64 (7 + 4096 * fmt + 32768 * fmt + if acc then 2 ^ 18 else 0) } }

/-- The same with lane `j` of registers changed behind its checksums. -/
def damaged (l : List (Fin 128 × Fin 32)) : State :=
  let s := pinned1 false 0
  { s with warp := { s.warp with vreg := l.foldl (fun v p => v.set p.1 ((v.get p.1).set p.2 0x3F800000)) s.warp.vreg } }

theorem witness_MatrixModeResults :
    (let s := { ready0 with warp := { ready0.warp with mode := 7 } }
     s.warp.pin = 0 ∧ s.acc = false ∧ (∀ j < 4, (0xF : BitVec 4).getLsbD j = true → 32 * j + 31 < s.warp.varch)
      ∧ (formatK s.fa).isSome = true ∧ formatK s.fa = formatK s.fb ∧ s.effMask = 0xFFFFFFFF#32)
    ∧ (let s := { ready0 with warp := { ready0.warp with mode := 7 + 2 ^ 18 } }
       s.acc = true ∧ s.warp.varch = 128 ∧ s.warp.pin = 0 ∧ (formatK s.fa).isSome = true ∧ formatK s.fa = formatK s.fb)
    ∧ (let s := pinned1 false 0
       s.warp.pin ≠ 0 ∧ s.effMask = 0xFFFFFFFF#32 ∧ s.warp.pin.getLsbD 0 = true ∧ s.warp.tileAcc = s.acc
        ∧ (compare s.warp.tileAcc (tileCells s.warp s.warp.tileAcc 0) (s.sumsOf 0) = .passes)
        ∧ (∀ j < 4, s.warp.pin.getLsbD j = true → j = 0))
    ∧ (let s := damaged [(3, 4), (5, 6)]
       compare s.warp.tileAcc (tileCells s.warp s.warp.tileAcc 0) (s.sumsOf 0) = .fails)
    ∧ (let s := damaged [(3, 4)]
       compare s.acc (tileCells s.warp s.acc 0) (s.sumsOf 0) = .corrects 3 4 0) := by decide +kernel

theorem witness_MopResults :
    (let s := pinned1 false 5
     s.warp.pin.getLsbD 0 = true ∧ s.warp.tileAcc = s.acc ∧ s.effMask = 0xFFFFFFFF#32 ∧ (formatK s.fa).isSome = true
      ∧ formatK s.fa = formatK s.fb ∧ s.rm < 6 ∧ s.myCore.dupn = 0 ∧ s.myPart.stuck = [])
    ∧ (let s := pinned1 true 1; s.warp.tileAcc = s.acc ∧ s.acc = true ∧ (formatK s.fa).isSome = true ∧ s.myCore.dupn = 0) := by decide +kernel

theorem witness_MatrixFaults :
    ready0.warp.pin.getLsbD 3 = false
    ∧ (let s := pinned1 false 6; 6 ≤ s.fa)
    ∧ (let s := { pinned1 false 0 with warp := { (pinned1 false 0).warp with active := 0x7FFFFFFF } }
       s.warp.pin.getLsbD 0 = true ∧ s.warp.tileAcc = s.acc ∧ s.effMask ≠ 0xFFFFFFFF#32 ∧ (formatK s.fa).isSome = true
        ∧ formatK s.fa = formatK s.fb ∧ s.rm < 6)
    ∧ (let s := { pinned1 false 0 with warp := { (pinned1 false 0).warp with mode := 7 + 128 * 6 } }; s.acc = false ∧ 6 ≤ s.rm) := by
  decide +kernel

/-- Array register 2 with bytes of `placed` from an address. -/
def bytesAt (base extent : Nat) (check : BitVec 2) (s : State) : State :=
  s.writeA 2 (s.frameOf { ArrayReg.start with base := BitVec.ofNat 48 base, extent := BitVec.ofNat 31 extent, esize := 0, check := check })

theorem witness_FeedResults :
    (let s := bytesAt 0x600 128 1 placed
     placed.scratchAccess ((placed.readS 2).toNat + 16 * (63 : BitVec 7).toInt) 128 16 = .ok (0, 32768 + 1008)
      ∧ (settledAt placed 128 16 ((placed.readS 2).toNat + 16 * (63 : BitVec 7).toInt)).scratchPoisoned 0 (32768 + 1008) 128 = false ∧ s.effMask = 0xFFFFFFFF#32 ∧ s.beyondVarch [127] = false
      ∧ (s.readA 2).esize.toNat < 5 ∧ s.transfer .read 2 3 (0 : BitVec 7).toInt 128 16 = .pieces [⟨0, 0x100600, 128, 0, false⟩]
      ∧ ((s.reachWhole 2 3 (0 : BitVec 7).toInt 128).fillPieces (s.readA 2) [⟨0, 0x100600, 128, 0, false⟩]).firstPoison (s.readA 2) [⟨0, 0x100600, 128, 0, false⟩] = none)
    ∧ (bytesAt 0x600 127 0 placed).transfer .read 2 3 (0 : BitVec 7).toInt 128 16 = .suppressed
    ∧ (bytesAt 0x600 127 1 placed).transfer .read 2 3 (0 : BitVec 7).toInt 128 16 = .fails ⟨cBOUNDS, 1, 0x67F⟩ :=
  ⟨⟨ok_of (by decide +kernel), by decide +kernel⟩, by decide +kernel⟩

theorem witness_SliceResults :
    (let s := pinned1 false 0
     s.beyondVarch [127] = false ∧ s.warp.pin.getLsbD 0 = true ∧ s.warp.tileAcc = s.acc ∧ s.effMask = 0xFFFFFFFF#32 ∧ s.acc = false
      ∧ s.pinned 127 = false)
    ∧ (let s := { ready0 with warp := { ready0.warp with mode := 7 + 2 ^ 18 + 128 * 5 } }
       s.beyondVarch [127] = false ∧ s.effMask = 0xFFFFFFFF#32 ∧ s.acc = true ∧ s.rm < 6
        ∧ 4 * ((127 : BitVec 7).toNat / 4) + 3 < s.warp.varch ∧ s.pinned 127 = false)
    ∧ (128 ≤ placed.warp.varch ∧ placed.warp.pin.getLsbD 0 = false)
    ∧ ({ placed with warp := { placed.warp with varch := 16 } } : State).beyondVarch [16] = true
    ∧ (let s := { pinned1 false 0 with warp := { (pinned1 false 0).warp with active := 0x7FFFFFFF } }
       s.beyondVarch [127] = false ∧ s.pinned 127 = false ∧ s.acc = false ∧ s.warp.pin.getLsbD 0 = true ∧ s.warp.tileAcc = s.acc
        ∧ s.effMask ≠ 0xFFFFFFFF#32 ∧ s.pinned 5 = true) := by decide +kernel

/-- The one piece of a transfer of pages of `placed`, which lie side by side. -/
def piecesFrom (n : Nat) : List Piece := [⟨0, 0x106000, n, 0, true⟩]

theorem witness_TileTransferResults_load :
    let s := bytesAt 0x6000 4160 1 (pinned1 false 0)
    s.warp.pin.getLsbD 0 = true ∧ s.warp.tileAcc = s.acc ∧ s.effMask = 0xFFFFFFFF#32 ∧ (s.readA 2).esize.toNat < 5 ∧ s.acc = false
    ∧ s.transfer .read 2 3 (0 : BitVec 7).toInt 4096 64 = .pieces (piecesFrom 4096)
    ∧ ((s.reachWhole 2 3 (0 : BitVec 7).toInt 4096).fillPieces (s.readA 2) (piecesFrom 4096)).firstPoison (s.readA 2) (piecesFrom 4096) = none
    ∧ s.transfer .write 2 3 (0 : BitVec 7).toInt 4096 64 = .pieces (piecesFrom 4096)
    ∧ (bytesAt 0x6000 4095 0 (pinned1 false 0)).transfer .read 2 3 (0 : BitVec 7).toInt 4096 64 = .suppressed
    ∧ (bytesAt 0x6000 4095 0 (pinned1 false 0)).transfer .write 2 3 (0 : BitVec 7).toInt 4096 64 = .suppressed
    ∧ (bytesAt 0x6000 4159 0 (pinned1 false 0)).transfer .write 2 3 (0 : BitVec 7).toInt 4160 64 = .suppressed
    ∧ (bytesAt 0x6000 4159 1 (pinned1 false 0)).transfer .read 2 3 0 4160 64 = .fails ⟨cBOUNDS, 1, 0x703F⟩ := by decide +kernel

theorem witness_TransferChecks :
    (let s := withS (bytesAt 0x600 128 1 placed) 0 (2 ^ 63 - 1) 7
     let a := s.readA 2
     let size := Machine.sizeOf a.esize.toNat
     ((a.base.toNat : Int) + 8 * size) % 16 ≠ 0 ∧ ((a.base.toNat : Int) + (-16) * size) % 16 = 0 ∧ (-16 : Int) < 0
      ∧ s.shadowS 3 = .bounded 0 0 ∧ (s.readS 3).toInt = 0
      ∧ ((a.base.toNat : Int) + 16 * size) % 16 = 0 ∧ ((a.extent.toNat * size : Int) < 16 * size + 128) ∧ (0 : Int) * size + 128 ≤ (a.extent.toNat * size : Int))
    ∧ ((bytesAt 0x600 128 2 placed).readA 2).check = 2
    ∧ (placed.launch? placed.warp.launch = some launch1 ∧ TlbsTrue (untranslated (tables [])) 0 ∧ firstLost (untranslated (tables [])) 0x1F80 128 = none
      ∧ firstLost (untranslated (tables [])) 0x1FC0 128 = some 0x2000) := by
  refine ⟨by decide +kernel, by decide +kernel, by decide +kernel, tlbs_true (by decide +kernel) (by decide +kernel), by decide +kernel, by decide +kernel⟩

/-- A tile's version word at 0x6000, in its slice. -/
def versioned (v : Byte) : State :=
  { bytesAt 0x6000 4160 1 (pinned1 false 0) with
    homes := { Homes.reset with mem := if v = 0 then [] else [(0x106000, v)], lines := [⟨0x106000 / 192, 0, 0, 15⟩] } }

theorem witness_TileTransferResults_version :
    (let p := State.firstPlace (piecesFrom 4160)
     Calm ((versioned 2).reachWhole 2 3 (0 : BitVec 7).toInt 4160) p 8 ∧ Calm ((versioned 3).reachWhole 2 3 (0 : BitVec 7).toInt 4160) p 8)
    ∧ (versioned 2).transfer .write 2 3 (0 : BitVec 7).toInt 4160 64 = .pieces (piecesFrom 4160)
    ∧ (versioned 2).warp.stores = [] ∧ (∀ j < 8, ((versioned 2).reachWhole 2 3 (0 : BitVec 7).toInt 4160).agentPoison (0x106000 + j) = false)
    ∧ versionAt ((versioned 2).reachWhole 2 3 (0 : BitVec 7).toInt 4160) (State.firstPlace (piecesFrom 4160)) % 2 = 0
    ∧ versionAt ((versioned 3).reachWhole 2 3 (0 : BitVec 7).toInt 4160) (State.firstPlace (piecesFrom 4160)) % 2 = 1
    ∧ (let s := versioned 2
       let ar := s.readA 2
       let u := ((s.reachWhole 2 3 0 4160).readAnew (State.versionPart (piecesFrom 4160))).fillPieces ar (State.versionPart (piecesFrom 4160))
       s.transfer .read 2 3 0 4160 64 = .pieces (piecesFrom 4160)
        ∧ u.firstPoison ar (State.versionPart (piecesFrom 4160)) = none
        ∧ ((u.pieceBytes ar (State.versionPart (piecesFrom 4160))).headD 0).getLsbD 0 = false
        ∧ (u.acquire.fillPieces ar (State.imagePart (piecesFrom 4160))).firstPoison ar (State.imagePart (piecesFrom 4160)) = none)
    ∧ (let s := versioned 3
       let ar := s.readA 2
       let u := ((s.reachWhole 2 3 0 4160).readAnew (State.versionPart (piecesFrom 4160))).fillPieces ar (State.versionPart (piecesFrom 4160))
       ((u.pieceBytes ar (State.versionPart (piecesFrom 4160))).headD 0).getLsbD 0 = true) :=
  ⟨⟨calm_of (by decide +kernel), calm_of (by decide +kernel)⟩, by decide +kernel⟩

/-- A warp waiting for something, or READY and held at its instruction by it (R257). -/
def waiting (s : State) (w : Wait) : State := { s with warp := { s.warp with status := .waiting, wait := some w } }

def staying (s : State) (w : Wait) : State := { s with warp := { s.warp with wait := some w } }

theorem witness_MatrixStepResults :
    (let s := staying (versioned 3) (.tstA 0 2 3 0 (some ⟨0x106000, 0, true, 3⟩))
     Plain s ∧ s.subject.pcn = s.warp.pcn ∧ s.subject.cw = s.warp.cw ∧ State.tries s.warp = true ∧ s.myCore.sampleDue = false ∧ s.warp.stores = []
      ∧ s.warp.wait = some (.tstA 0 2 3 0 (some ⟨0x106000, 0, true, 3⟩)) ∧ 0x106000 / 192 = (0x106000 + 7) / 192)
    ∧ (staying (versioned 3) (.tstA 0 2 3 0 none)).warp.wait = some (.tstA 0 2 3 0 none)
    ∧ (staying (versioned 3) (.tldv 0 2 3 9 0)).warp.wait = some (.tldv 0 2 3 9 0)
    ∧ (let s := staying (pinned1 false 0) (.dup 0 0 1 true)
       s.warp.wait = some (.dup 0 0 1 true) ∧ State.tries s.warp = true ∧ s.myCore.sampleDue = false ∧ s.myPart.stuck = [] ∧ s.warp.pin.getLsbD 0 = true ∧ s.warp.tileAcc = s.acc
        ∧ s.effMask = 0xFFFFFFFF#32 ∧ s.formatsBad = false ∧ s.rm < 6) :=
  ⟨⟨plain_of_plainB (by decide +kernel), by decide +kernel⟩, by decide +kernel⟩

/-! ## Witnesses: residency, waits that end, memory's own steps -/

def header1 : KernelHeader := ⟨16, 16, 2, 1, 1, 64, 4096, 0⟩

/-- `Accepts` and `Takes` as tests. -/
def acceptsB (s : State) (p need : Nat) : Bool :=
  decide (freeOf s 0 p ≠ []) && decide (need + allottedOf s 0 p ≤ 1024) && !s.withdrawn 0 p

theorem accepts_iff {s : State} {p need : Nat} : Accepts s 0 p need ↔ p < 4 ∧ acceptsB s p need = true := by
  simp [Accepts, acceptsB, and_assoc]

theorem takes_of {s : State} {p need : Nat} (hp : p < 4) (h : acceptsB s p need = true)
    (hq : ∀ q < 4, acceptsB s q need = true → (freeOf s 0 q).length < (freeOf s 0 p).length
      ∨ ((freeOf s 0 q).length = (freeOf s 0 p).length ∧ p ≤ q)) : Takes s 0 p need :=
  ⟨accepts_iff.2 ⟨hp, h⟩, fun q a => hq q (accepts_iff.1 a).1 (accepts_iff.1 a).2⟩

/-- The parent of a spawn: its header's address in s1. -/
def parent : State := withS (tables []) 0x40 0 7

/-- The state in which it has read the header. -/
def informed (s : State) : State := s.bringHeader 0x40

theorem witness_SpawnResults :
    ((informed parent).readHeader (parent.readS 1).toNat = .ok header1 ∧ Takes (informed parent) 0 1 (header1.varch + header1.vren)
      ∧ parent.warp.status = .ready ∧ (parent.readS 1).toNat = 0x40 ∧ (parent.readS 1).toNat % 64 = 0 ∧ (informed parent).recordArea 1 = some 0x1800
      ∧ (informed parent).areaPlace 1 0x1800 = some (⟨0x20800, 0, false⟩, ⟨0x20000, 0, false⟩)
      ∧ (informed parent).withinBudgets 1 [] (header1.varch + header1.vren) 0 = true)
    ∧ (let s := informed { parent with regions := [{ region1 with chrylen := 0 }] }; s.recordArea 1 = none)
    ∧ (let s := informed { parent with regions := [{ region1 with vregs := 1 }] }; s.withinBudgets 1 [] (header1.varch + header1.vren) 0 = false)
    ∧ (let s := informed (parent.modifyCore 0 fun c => { c with parts := Vector.replicate 4 { Partition.reset with withdrawn := true } })
       ∀ p, ¬ Accepts s 0 p (header1.varch + header1.vren))
    ∧ ((withS parent 0x44 0 7).readS 1).toNat % 64 ≠ 0
    ∧ (parent.bringHeader 0x80).readHeader 0x80 = .error ⟨cILLEGAL, 1, 0⟩ := by
  refine ⟨⟨ok_of (by decide +kernel), takes_of (by decide) (by decide +kernel) (by decide +kernel), by decide +kernel⟩, by decide +kernel, by decide +kernel,
    fun p a => ?_, by decide +kernel, error_of (by decide +kernel)⟩
  have h := accepts_iff.1 a
  have : ∀ q < 4, acceptsB (informed (parent.modifyCore 0 fun c => { c with parts := Vector.replicate 4 { Partition.reset with withdrawn := true } })) q
      (header1.varch + header1.vren) = false := by decide +kernel
  rw [this p h.1] at h
  exact absurd h.2 (by decide)

theorem witness_ExitResults :
    (pinned1 false 0).warp.pin ≠ 0
    ∧ (let s := { placed with warp := { placed.warp with stack := [⟨0, 0, 0, 0, 0⟩] } }; s.warp.pin = 0 ∧ s.warp.stack ≠ [])
    ∧ (let v := { placed.warp with cw := 1, index := some 1 }
       let s := { withQueue { Queue.empty with owner := some 0 } with others := [v] }
       s.warp.pin = 0 ∧ s.warp.stack = [] ∧ (∀ c ∈ s.myCore.copies, c.cw ≠ s.warp.cw) ∧ (s.queueOf 0 1).owner = some s.warp.cw
        ∧ (v ∈ s.others ∧ v.launch = s.warp.launch ∧ v.gang = s.warp.gang ∧ v.block = s.warp.block)
        ∧ s.gang? 1 0 = some gang1 ∧ (∀ x ∈ gang1.blocks, x.index ≠ s.warp.block → x.retired = true) ∧ gang1.state = .placed)
    ∧ (placed.canonical = true ∧ placed.gang? 1 0 = some gang1 ∧ (gang1.blocks.map Block.index).Nodup ∧ placed.others = []
        ∧ (∀ c ∈ placed.cores, c.copies = [] ∧ ∀ q : Fin 4, (c.queues.get q).remain = 0) ∧ placed.region? placed.warp.rid = some region1 ∧ gang1.rid = placed.warp.rid
        ∧ ∃ x ∈ gang1.blocks, x.retired = false ∧ x.unit * 32768 < (x.unit + x.scratch) * 32768)
    ∧ (let g := { gang1 with blocks := [block0, { block0 with index := 1, pcn := 1 }] }
       let v := { placed.warp with pcn := 1, block := 1 }
       let s := { placed with gangs := [g], others := [v] }
       s.canonical = true ∧ s.gang? 1 0 = some g ∧ g.state = .placed ∧ (g.blocks.map Block.index).Nodup ∧ v.stores = [] ∧ v.wait = none
        ∧ (g.blocks.map fun x => x.retired || !s.others.any fun v => v.launch == s.warp.launch && v.gang == s.warp.gang && v.block == x.index) = [true, false]) := by
  decide +kernel

/-- A launch record (R331): 1 block of 1 warp, `gangs` gangs of kernel 0 of the code at 0x1400, COMPL and one lease. -/
def launchRecord (gangs compl lease : Nat) : List Byte :=
  bytesOf 4 0x4C4E4348 ++ bytesOf 4 77 ++ List.replicate 6 0 ++ [1, 1] ++ bytesOf 4 0 ++ bytesOf 4 gangs ++ bytesOf 8 0x1400 ++ bytesOf 8 5
    ++ bytesOf 8 lease ++ List.replicate 56 0 ++ bytesOf 8 compl ++ List.replicate 16 0

/-- A warp that asks for a launch: the record at 0x6000, an uncached page, whose line is in its slice. -/
def asking (rec_ : List Byte) (tail : Word) : State :=
  let s := withS (tables (cellsFrom 0x106000 rec_)) 0x6000 0 7
  { s with regions := [{ region1 with lqtail := tail }], homes := { s.homes with lines := [⟨5589, 0, 0, 15⟩] } }

/-- The state in which both halves of its record have been read. -/
def record2 (s : State) : State :=
  (((s.cacheLeaf 0 0x6000).cacheLeaf 0 0x6040).fillFor ⟨0x106000, 0, true⟩ 64).fillFor ⟨0x106040, 0, true⟩ 64

/-- The state in which a launch's queue entry is written: its record read, its stores performed, earlier requests served. -/
def askedState (s : State) : State :=
  (record2 s).drain.serveAppends 1

/-- A good record asked for, with room in the queue. -/
def asks : State := asking (launchRecord 1 0x1F08 0x10000001) 3

theorem witness_LaunchResults_read :
    asks.recordPlaces (asks.readS 1).toNat = .ok (⟨0x106000, 0, true⟩, ⟨0x106040, 0, true⟩) ∧ (asks.readS 1).toNat % 64 = 0 ∧ asks.warp.rid = 1
    ∧ (let u := record2 asks
       u.loadPoisoned ⟨0x106000, 0, true⟩ 64 = false ∧ u.loadPoisoned ⟨0x106040, 0, true⟩ 64 = false
        ∧ u.loadBytes ⟨0x106000, 0, true⟩ 64 ++ u.loadBytes ⟨0x106040, 0, true⟩ 64 = launchRecord 1 0x1F08 0x10000001)
    ∧ (let bs := launchRecord 1 0x1F08 0x10000001
       ofBytes (bs.take 4) = 0x4C4E4348 ∧ (∀ b ∈ (bs.drop 8).take 6, b = 0) ∧ ∀ b ∈ bs.drop 112, b = 0) :=
  ⟨ok_of (by decide +kernel), by decide +kernel, by decide +kernel, by decide +kernel, by decide +kernel⟩

theorem witness_LaunchResults_append :
    Plain (askedState asks) ∧ (askedState asks).region? 1 = some { region1 with lqtail := 3 }
    ∧ ((3 : Word) - region1.lqhead).toNat ≠ 2 ^ region1.lqorder
    ∧ (askedState asks).monarchWritable { region1 with lqtail := 3 } (region1.lqbase + 128 * ((3 : Word).toNat % 2 ^ region1.lqorder))
        = some ⟨0x20180, 0, false⟩
    ∧ (∀ j < 128, (askedState asks).agentPoison (0x20180 + j) = false)
    ∧ ({ asks with homes := { asks.homes with poison := [(0x20180 / 48, 0xFFF)] } } : State).agentPoison 0x20180 = true :=
  ⟨plain_of_plainB (by decide +kernel), by decide +kernel, by decide +kernel, by decide +kernel, by decide +kernel, by decide +kernel⟩

theorem witness_LaunchResults_refused :
    ((askedState (asking [] 4)).region? 1).map (fun r => (r.lqtail - r.lqhead).toNat) = some (2 ^ 2)
    ∧ ofBytes (((record2 (asking [] 0)).loadBytes ⟨0x106000, 0, true⟩ 64).take 4) ≠ 0x4C4E4348
    ∧ (let s := { asking [] 0 with homes := { (asking [] 0).homes with poison := [(0x106000 / 48, 0xFFF)] } }
       (record2 s).loadPoisoned ⟨0x106000, 0, true⟩ 64 = true)
    ∧ (let s := { asking [] 0 with homes := { (asking [] 0).homes with poison := [(0x106070 / 48, 0xFFF)] } }
       let u := record2 s
       u.loadPoisoned ⟨0x106000, 0, true⟩ 64 = false ∧ u.loadPoisoned ⟨0x106040, 0, true⟩ 64 = true)
    ∧ ((withS placed 0x6020 0 7).readS 1).toNat % 64 ≠ 0
    ∧ ∃ x, (withS placed 0x8000 0 7).recordPlaces ((withS placed 0x8000 0 7).readS 1).toNat = .error x :=
  ⟨by decide +kernel, by decide +kernel, by decide +kernel, by decide +kernel, by decide +kernel, _,
    error_of (x := match (withS placed 0x8000 0 7).recordPlaces ((withS placed 0x8000 0 7).readS 1).toNat with
      | .error t => t | .ok _ => ⟨0, 0, 0⟩) (by decide +kernel)⟩

/-- `BlocksHeld` as a test. -/
def blocksHeldB (s : State) : Bool :=
  match s.gang? s.warp.launch s.warp.gang with
  | none => true
  | some g => (g.blocks.any fun x => !x.retired) && g.blocks.all fun x => x.retired || s.warps.any fun v =>
      v.launch == s.warp.launch && v.gang == s.warp.gang && v.block == x.index

theorem blocksHeld_of {s : State} (h : blocksHeldB s = true) : BlocksHeld s := by
  intro g hg
  simp only [blocksHeldB, hg, Bool.and_eq_true, List.any_eq_true, List.all_eq_true, Bool.or_eq_true, Bool.not_eq_true', beq_iff_eq, and_assoc] at h
  exact h

/-- `WaitsHere` as a test. -/
def waitsHereB (s : State) (w : Wait) : Bool :=
  s.subject.pcn == s.warp.pcn && s.subject.cw == s.warp.cw && (s.warp.status == .waiting || s.warp.status == .ready) && s.warp.wait == some w
    && !s.myCore.sampleDue

theorem waitsHere_of {s : State} {w : Wait} (h : waitsHereB s w = true) : WaitsHere s w := by
  simpa [waitsHereB, WaitsHere, and_assoc] using h

theorem witness_WaitsEnd :
    (let s := waiting (copying 0 32 1) (.copySlot .copyIn 2 4)
     WaitsHere s (.copySlot .copyIn 2 4) ∧ s.drain.myCore.copies.length < 64)
    ∧ ((waiting placed (.cseal 3)).myCore.copies.filterMap Copy.batch).eraseDups.length < 16
    ∧ (WaitsHere (staying placed (.cwait 0)) (.cwait ((placed.readS 3).setWidth 32)) ∧ (placed.warp.lastSeal - (placed.readS 3).setWidth 32).toNat < 2 ^ 31
      ∧ placed.myCore.copies = [])
    ∧ (let s := withS placed 0 0xFFFF 7
       let u := settledAt s 16 16 (s.readS 1).toNat
       u.scratchPoisoned 0 32768 16 = false
        ∧ (BitVec.ofNat 16 (ofBytes (((u.scratchBytes 0 32768 16).drop 12).take 2)) - (s.readS 2).setWidth 16).toNat < 32768)
    ∧ (let s := withS placed 0 5 7
       let u := settledAt s 4 4 (s.readS 1).toNat
       u.scratchPoisoned 0 32768 4 = false ∧ BitVec.ofNat 32 (ofBytes (u.scratchBytes 0 32768 4)) ≠ (s.readS 2).setWidth 32
        ∧ (∀ j < 8, ((s.cacheLeaf 0 (s.readS 1).toNat).atHomes 0 0x100000 8).agentPoison (0x100000 + j) = false)
        ∧ BitVec.ofNat 64 (ofBytes ((List.range 8).map fun j => s.agentByte 0 (0x100000 + j))) ≠ s.readS 2)
    ∧ (let s := staying (withQueue { Queue.empty with owner := some 0, entries := [(Vector.replicate 32 7, false)] }) (.qpop 5 1)
       s.beyondVarch [5] = false ∧ s.pinned 5 = false ∧ s.effMask ≠ 0 ∧ s.subject.pcn = s.warp.pcn ∧ s.subject.cw = s.warp.cw)
    ∧ (let s := waiting parent (.spawnW 9 0x40); s.warp.wait = some (.spawnW 9 (s.readS 1).toNat) ∧ s.warp.status = .waiting)
    ∧ (let b : Barrier := ⟨[0], [], 3⟩
       let g := { gang1 with barriers := noBarriers.set 15 b, blocks := [{ block0 with barriers := noBarriers.set 15 b }] }
       let s := { waiting { placed with gangs := [g] } (.gbar 9 15 3) with subject := { launch := 1, id := 15 } }
       s.warp.wait = some (.gbar 9 15 (s.barrierOf true 15).phase) ∧ s.warp.index ≠ none ∧ s.others = []
        ∧ (∀ p ∈ s.participants 1 0 none, p ∈ (s.barrierOf true 15).arrived) ∧ (∃ p ∈ s.participants 1 0 none, p ∉ (s.barrierOf true 15).again)
        ∧ (∀ p ∈ s.participants 1 0 (some 0), p ∈ (s.barrierOf false 15).arrived)
        ∧ (∃ p ∈ s.participants 1 0 (some 0), p ∉ (s.barrierOf false 15).again) ∧ (s.barrierOf false 15).phase = 3
        ∧ ((s.gang? s.warp.launch s.warp.gang).isSome = true ∧ (s.blockAt? s.warp.launch s.warp.gang s.warp.block).isSome = true)
        ∧ s.warp.status = .waiting ∧ s.gangHalting s.warp.launch s.warp.gang = false)
    ∧ BlocksHeld placed := by
  exact ⟨⟨waitsHere_of (by decide +kernel), by decide +kernel⟩, by decide +kernel, ⟨waitsHere_of (by decide +kernel), by decide +kernel⟩,
    by decide +kernel, by decide +kernel, by decide +kernel, by decide +kernel, by decide +kernel, blocksHeld_of (by decide +kernel)⟩

theorem witness_MemoryEventResults :
    Plain placed
    ∧ (let p : PendingStore := ⟨0, none, 5469, 0, false, [(1050048, 9)]⟩
       let q : PendingStore := ⟨0, some 0, 0, 0, false, [(40000, 9)]⟩
       let s := { placed with warp := { placed.warp with stores := [p, q] } }
       Plain s ∧ (s.warp.stores[1]? = some q ∧ s.warp.stores[0]? = some p ∧ (∀ c ∈ p.cells, lineOf c.1 = p.line) ∧ p.cells ≠ []
        ∧ (∀ r ∈ s.warp.stores.take 1, r.scratch ≠ q.scratch ∨ (q.scratch = none ∧ ∀ c ∈ r.cells, ∀ d ∈ q.cells, c.1 ≠ d.1)) ∧ sortedFrom 0 p.cells = true ∧ sortedFrom 0 q.cells = true ∧ (∀ c ∈ q.cells, lineOf c.1 = 208)
        ∧ s.subject.pcn = s.warp.pcn ∧ s.subject.cw = s.warp.cw ∧ s.warp.status ≠ .free))
    ∧ (let a := 1024 * gib + 2000; placeOf Monarch.reset a = .tier 0 ∧ placeOf Monarch.reset (a + max 1 (min 48 (192 - a % 192)) - 1) = .tier 0)
    ∧ placed.launch? 1 = some launch1 ∧ launch1.state ≠ .done ∧ ({ launch1 with state := .done } : Launch).state = .done ∧ (placed.core 0).ccache = []
    ∧ (let s := placed.modifyCore 0 fun c => { c with ccache := [⟨1, 48, 0, false⟩] }
       let s := { s with subject := { pcn := 0, launch := 1, n := 1 } }
       s.launch? s.subject.launch = some launch1 ∧ s.subject.pcn < 256 ∧ ∃ w ∈ (s.core s.subject.pcn).ccache, w.launch = s.subject.launch ∧ w.idx / 48 = s.subject.n)
    ∧ (256 ≤ ({ placed with subject := { pcn := 256 } } : State).subject.pcn)
    ∧ (∃ level e, placed.leafFor 0 (launch1.constVa + 0) = .ok (level, e)) :=
  ⟨plain_of_plainB (by decide +kernel), ⟨plain_of_plainB (by decide +kernel), by decide +kernel⟩, by decide +kernel, by decide +kernel, by decide +kernel, by decide +kernel, by decide +kernel, by decide +kernel, by decide +kernel, _, _, ok_of (x := (4, BitVec.ofNat 64 0x10000F)) (by decide +kernel)⟩

theorem witness_ErrorEventResults :
    Plain placed ∧ placed.orderly = true ∧ placed.subject.id = 0
    ∧ (let s := { placed.registerAll 0 0 0 [(1050048, 9)] with subject := { id := 2, n := 21876 } }
       Plain s ∧ ∃ w, s.l1Word? s.subject.pcn (48 * s.subject.n + 4 * 0) = some w ∧ w.owned = true ∧ w.dirty = true)
    ∧ (∀ a < 4, (a * (Monarch.reset.carve * 64 * gib / 8192) + 5) * 2048 < tierBytes Monarch.reset.carve)
    ∧ ({ placed with subject := { id := 4 } } : State).subject.id = 4
    ∧ (let p := { Partition.reset with faults := [(31, 5, 3)] }
       let s := placed.modifyCore 0 fun c => { c with parts := c.parts.set 1 p }
       let s := { s with subject := { pcn := 0, n := 1 } }
       s.partOf = p ∧ p.spare = none ∧ (∀ w ∈ s.warps, ¬ (w.pcn = s.subject.pcn ∧ w.cw / 8 = 1)) ∧ p.faults = [(31, 5, 3)] ∧ 3 ≤ 3 ∧ 31 < 32
        ∧ ({ p with spare := some 4 } : Partition).spare = some 4 ∧ 31 ≠ 4) :=
  ⟨plain_of_plainB (by decide +kernel), by decide +kernel, by decide +kernel,
    ⟨plain_of_plainB (by decide +kernel), ⟨0, 9, true, true, false, 0, []⟩, by decide +kernel⟩, by decide +kernel⟩

theorem witness_ChannelResults :
    (let s := { placed with homes := { Homes.reset with channels := [{ placed.channel 0 0 with switching := true }] } }
     (s.channel s.subject.n s.subject.id).switching = true ∧ s.subject.n < 8 ∧ s.subject.id < 32)
    ∧ (placed.channel 0 0).switching = false ∧ placed.subject.flag = false
    ∧ ({ placed with subject := { flag := true } } : State).subject.flag = true ∧ placeOf placed.monarch (servedByte placed.monarch 0) = .direct 0
    ∧ ¬ (8 < 8 ∧ 31 < 32) := by decide +kernel

/-! ## Witnesses: deliveries, halts, regions, launches, gangs -/

/-- A warp of `placed`, under a fault policy, with faults pending or delivered. -/
def faulted (p : BitVec 2) (status : SlotState) (cause : BitVec 16) : State :=
  let s := underPolicy p
  { s with warp := { s.warp with status := status, pending := [record cause], records := [record cause], waitSince := 5 } }

theorem witness_DeliveryAndAnswers :
    (let s := { faulted 1 .ready cBOUNDS with warp := { (faulted 1 .ready cBOUNDS).warp with trapvec := 128 } }
     s.subject.pcn = s.warp.pcn ∧ s.subject.cw = s.warp.cw ∧ s.warp.status ≠ .free ∧ s.warp.pending = record cBOUNDS :: []
      ∧ inWarpCause (record cBOUNDS).cause = true ∧ s.warp.trapvec ≠ 0 ∧ s.warp.xcause = 0)
    ∧ (let s := faulted 1 .ready cBOUNDS
       s.warp.trapvec = 0 ∧ s.policyOf 1 = 1 ∧ (s.trapmodeOf 1).getLsbD 0 = false ∧ s.myCore.coalesce = false ∧ s.myCore.permits ≠ 0
        ∧ (record cBOUNDS).cause ≠ cUE ∧ (record cBOUNDS).cause ≠ cGRID)
    ∧ ((faulted 0 .ready cBOUNDS).policyOf 1 = 0 ∧ (faulted 2 .ready cBOUNDS).policyOf 1 = 2 ∧ (faulted 3 .ready cBOUNDS).policyOf 1 = 3)
    ∧ ((faulted 0 .draining cBOUNDS).warp.status = .draining ∧ placed.monarch.power = .run ∧ State.reset.monarch.power = .off)
    ∧ (let s := { faulted 1 .backoff cBOUNDS with clock := 5 }; s.warp.status = .backoff ∧ s.warp.waitSince ≤ s.clock)
    ∧ (let s := { faulted 1 .backoff cBOUNDS with clock := 4 }; s.warp.status = .backoff ∧ s.clock < s.warp.waitSince)
    ∧ (let s := faulted 1 .trapped cBOUNDS; s.warp.status = .trapped ∧ State.debugHeld s.warp = false ∧ s.warp.records = record cBOUNDS :: [])
    ∧ (let s := faulted 1 .trapped cBOUNDS
       let s := { s with warp := { s.warp with wait := some (.inWarpStop 1) } }
       s.warp.status = .trapped ∧ State.debugHeld s.warp = true)
    ∧ (let s := { placed with subject := { seq := some 9 }, monarch := { placed.monarch with seen := [9] } }
       s.subject.seq = some 9 ∧ 9 ∈ s.monarch.seen)
    ∧ placed.subject.seq = none := by decide +kernel

theorem witness_CoalescerAndHost :
    (let c : Coalesced := ⟨record cBOUNDS, 5#32, 2, 100⟩
     let d : Coalesced := ⟨record cUE, 2#32, 1, 900⟩
     let w := (faulted 1 .trapped cBOUNDS).warp
     let s := { (faulted 1 .trapped cBOUNDS).modifyCore 0 fun k => { k with coalesced := [c, d] } with
       subject := { value := 2, list := [0] }, others := [{ w with cw := 2 }, { w with cw := 1 }] }
     (s.core s.subject.pcn).coalesced = [c, d] ∧ (s.warps.map fun w => (w.pcn, w.cw)).Nodup ∧ c.warps &&& d.warps = 0
      ∧ (∀ v ∈ s.warps, v.pcn = s.subject.pcn ∧ v.cw < 32 ∧ v.status = .trapped ∧ State.debugHeld v = false ∧ v.records = record cBOUNDS :: [])
      ∧ (s.warps.map fun v => (c.warps.getLsbD v.cw, d.warps.getLsbD v.cw)) = [(true, false), (true, false), (false, true)]
      ∧ ([0, 1].map fun i => s.subject.list.getD i s.subject.value) = [0, 2] ∧ (3 : Nat) ≤ ({ s.subject with value := 3 } : Subject).value
      ∧ [c, d].length < 16 ∧ (∀ r ∈ [c, d], ({ s with gtime := 1099 } : State).gtime < r.gtime + 1000)
      ∧ (∃ r ∈ [c, d], r.gtime + 1000 ≤ ({ s with gtime := 1100 } : State).gtime))
    ∧ (let full := (List.range 16).map fun i => (⟨record cBOUNDS, 1#32 <<< i, 1, 100⟩ : Coalesced)
       16 ≤ full.length ∧ ∀ i < 16, ∀ j < 16, i ≠ j → 1#32 <<< i &&& 1#32 <<< j = 0)
    ∧ (∀ w ∈ placed.warps, w.status ≠ .trapped)
    ∧ (let s := { faulted 0 .trapped cBOUNDS with regions := [{ region1 with trapmode := 1 }] }
       (s.trapmodeOf s.warp.rid).getLsbD 0 = true ∧ s.others = [] ∧ s.warp.status = .trapped ∧ s.warp.records = record cBOUNDS :: []) := by
  decide +kernel

theorem witness_HaltResults :
    (let s := faulted 2 .draining cUE
     s.warp.status = .draining ∧ s.warp.wait = none ∧ s.warp.pending = record cUE :: [] ∧ (∀ c ∈ s.myCore.copies, c.cw ≠ s.warp.cw)
      ∧ (s.gang? s.warp.launch s.warp.gang).isSome = true ∧ (s.blockAt? s.warp.launch s.warp.gang s.warp.block).isSome = true
      ∧ s.policyOf s.warp.rid = 2 ∧ (s.region? s.warp.rid).isSome = true ∧ (faulted 0 .draining cUE).policyOf 1 = 0
      ∧ (faulted 1 .draining cUE).policyOf 1 = 1 ∧ (faulted 3 .draining cUE).policyOf 1 = 3 ∧ s.launch? s.warp.launch = some launch1)
    ∧ (let s := { placed with gangs := [{ gang1 with asked := true }], subject := { launch := 1 } }
       ∃ g, s.gang? s.subject.launch s.subject.gang = some g ∧ g.asked = true ∧ g.state = .placed)
    ∧ (let s := { placed with subject := { launch := 1 } }
       ∃ g, s.gang? s.subject.launch s.subject.gang = some g ∧ g.asked = false ∧ g.state = .placed ∧ s.monarch.power = .run ∧ s.subject.seq = none)
    ∧ (let s := { placed with gangs := [{ gang1 with state := .halting, toHalt := [0], dumpDue := true }], subject := { launch := 1 } }
       ∃ g, s.gang? s.subject.launch s.subject.gang = some g ∧ g.state = .halting ∧ s.subject.pcn ∈ g.toHalt
        ∧ s.cores.all (fun c => c.copies.isEmpty) = true ∧ (s.warps.map fun w => (w.pcn, w.cw)).Nodup
        ∧ (∀ p ∈ g.toHalt, p = s.subject.pcn) ∧ (s.region? g.rid).isSome = true)
    ∧ (let s := faulted 2 .halted cUE; s.warp.status = .halted ∧ s.warp.records = record cUE :: [])
    ∧ (∃ p ∈ [0, 1], p ≠ 0)
    ∧ (let j : DumpJob := ⟨1, 0, none, 0, some (record cUE), []⟩
       let s := { placed with regions := [{ region1 with dumps := [j] }], subject := { rid := 1 } }
       (s.region? s.subject.rid).map Region.dumps = some (j :: []) ∧ (s.gang? j.launch j.gang).isSome = true
        ∧ (s.warps.map fun w => (w.pcn, w.cw)).Nodup ∧ region1.dumpbase + region1.dumplen < region1.dumpPtr + 256 ∧ s.subject.seq = none) :=
  ⟨by decide +kernel, ⟨_, rfl, rfl, rfl⟩, ⟨_, rfl, rfl, rfl, rfl, rfl⟩, ⟨_, rfl, rfl, by decide, by decide, by decide +kernel, by decide, by decide +kernel⟩,
    by decide +kernel, ⟨1, by decide, by decide⟩, by decide +kernel⟩

/-- Page tables at 0x1B000 whose one leaf maps the first 2 MiB to those at 2 MiB. -/
def wideTables : List Host.Cell :=
  (cellsFrom 0x1B000 (bytesOf 8 0x1C001) ++ cellsFrom 0x1C000 (bytesOf 8 0x1D001) ++ cellsFrom 0x1D000 (bytesOf 8 0x20001F)).filter fun c => c.2 != 0

/-- A region whose dump area is `len` bytes from 0, with one dump owed. -/
def dumpRegion (len : Nat) : Region :=
  { region1 with ptroot := 0x1B000, dumpbase := 0, dumplen := len, dumpPtr := 0, dumps := [⟨1, 0, none, 0, some (record cUE), []⟩] }

/-- Its gang, halted, with a window of `units` units. -/
def dumpGang (units : Nat) : Gang := { gang1 with state := .halting, halt := some (record cUE), blocks := [{ block0 with scratch := units }] }

def dumping (units len : Nat) (poison : List Nat) : State :=
  { placed with
    homes := { Homes.reset with mem := wideTables }, subject := { rid := 1 }, regions := [dumpRegion len], gangs := [dumpGang units]
    warp := { placed.warp with varch := 0, status := .halted }, cores := placed.cores.map fun c => { c with sramPoison := poison } }

/-- The place of the k-th byte of that area. -/
def dumpAt (k : Nat) : Phys := ⟨0x200000 + k, 0, false⟩

/-- A state whose tables at 0x1B000 are the wide ones. -/
def wideB (s : State) : Bool :=
  s.tableEntry 0x1B000 0 0 == 0x1C001#64 && s.tableEntry 0x1C000 1 0 == 0x1D001#64 && s.tableEntry 0x1D000 2 0 == 0x20001F#64
    && !malformed s.monarch 0 0x1C001#64 && !malformed s.monarch 1 0x1D001#64 && !malformed s.monarch 2 0x20001F#64

theorem wide_walk {s : State} (hs : wideB s = true) {k : Nat} (h : k < 2 ^ 21) :
    s.walk 0x1B000 k = .ok (2, 0x20001F#64) ∧ ∀ x ∈ entriesOf s k 5 0 0x1B000, x < 0x200000 := by
  simp only [wideB, Bool.and_eq_true, beq_iff_eq, Bool.not_eq_true'] at hs
  obtain ⟨⟨⟨⟨⟨e0, e1⟩, e2⟩, m0⟩, m1⟩, m2⟩ := hs
  have i : ∀ l, l = 0 ∨ l = 1 ∨ l = 2 → tableIndex l k = tableIndex l 0 := by
    intro l hl
    rcases hl with rfl | rfl | rfl <;> simp [tableIndex] <;> omega
  have t : ∀ table l, l = 0 ∨ l = 1 ∨ l = 2 → s.tableEntry table l k = s.tableEntry table l 0 := by
    intro table l hl
    unfold State.tableEntry
    rw [i l hl]
  have p0 : ptePa 0x1C001#64 = 0x1C000 := by decide
  have p1 : ptePa 0x1D001#64 = 0x1D000 := by decide
  have v0 : pteValid 0x1C001#64 = true ∧ pteLeaf 0x1C001#64 = false := by decide
  have v1 : pteValid 0x1D001#64 = true ∧ pteLeaf 0x1D001#64 = false := by decide
  have v2 : pteValid 0x20001F#64 = true ∧ pteLeaf 0x20001F#64 = true := by decide
  constructor
  · simp [State.walk, State.walkFrom, t, e0, e1, e2, m0, m1, m2, v0, v1, v2, p0, p1]
  · intro x hx
    simp only [entriesOf, t 0x1B000 0 (by simp), e0, v0, p0, Nat.zero_add, t 0x1C000 1 (by simp), e1, v1, p1, t 0x1D000 2 (by simp), e2, v2,
      i 0 (by simp), i 1 (by simp), i 2 (by simp), List.mem_append, List.mem_map, List.mem_range, Nat.reduceAdd] at hx
    simp [tableIndex] at hx
    omega

/-- Its pages written, and none of them poisoned. -/
theorem writable {s : State} {r : Region} {n : Nat} (hs : wideB s = true) (hp : s.homes.poison = []) (ho : s.homes.owners = [])
    (hr : r.ptroot = 0x1B000) (hk : r.keyid = 0) (h : n ≤ 2 ^ 21) : Writable s r 0 n dumpAt := by
  refine ⟨fun k hk' => ⟨?_, ?_⟩, fun k _ m _ hne => ?_, fun k _ m hm hx => ?_⟩
  · have hk2 : k < 2 ^ 21 := by omega
    have hf : forbids r.keyid .write 0x20001F#64 = none := by rw [hk]; decide
    have hl : ptePa 0x20001F#64 = 0x200000 ∧ pteKey 0x20001F#64 = 0 ∧ (pteAttr 0x20001F#64 == 1) = false := by decide
    unfold State.dumpPlace
    rw [Nat.zero_add, if_neg (by omega), hr, (wide_walk hs hk2).1]
    simp only [hf, State.leafPa, leafBits, hl, dumpAt]
    simp
    omega
  · simp [State.agentPoison, State.poisonedAt, State.ownerOf, hp, ho, poisonSet]
  · simp only [dumpAt]; omega
  · rw [Nat.zero_add, hr] at hx
    have := (wide_walk hs (by omega)).2 _ hx
    simp only [dumpAt] at this
    omega

theorem witness_DumpContents :
    (∀ row ∈ [(0, 2 ^ 21, []), (1, 2 ^ 21, [8195]), (0, 512, ([] : List Nat))],
      let s := dumping row.1 row.2.1 row.2.2
      let y := dumpRegion row.2.1
      let g := dumpGang row.1
      s.region? s.subject.rid = some y ∧ y.dumps.length = 1 ∧ s.gang? 1 0 = some g ∧ (s.warps.map fun w => (w.pcn, w.cw)).Nodup ∧ s.subject.flag = false
        ∧ plainB s = true ∧ (g.blocks.map Block.index).Pairwise (· < ·) ∧ (g.blocks.map Block.pcn).Nodup ∧ (∀ c ∈ s.cores, c.copies = [])
        ∧ (∀ v ∈ s.warps, v.stores = []) ∧ g.halt ≠ none ∧ wideB s = true)
    ∧ (let s := dumping 0 (2 ^ 21) []
       let b := { block0 with scratch := 0 }
       let xs := sectionsOf s 1 0 b (s.blockHeader 1 0 b) fun _ => true
       sectionStarts 256 xs = [256, 3776, 3840] ∧ xs.map (fun x => x.body.length) = [3456, 0, 192] ∧ s.myCore.sramPoison = [])
    ∧ (let s := dumping 0 512 []
       let b := { block0 with scratch := 0 }
       let xs := sectionsOf s 1 0 b (s.blockHeader 1 0 b) fun _ => true
       (sectionStarts 256 xs)[0]? = some 256 ∧ 256 + 32 ≤ 512 ∧ (xs[0]?.map fun x => decide (512 < 256 + 32 + x.body.length)) = some true) := by
  decide +kernel

theorem witness_DumpContents_places : Writable (dumping 0 (2 ^ 21) []) (dumpRegion (2 ^ 21)) 0 4064 dumpAt
    ∧ Writable (dumping 0 512 []) (dumpRegion 512) 0 512 dumpAt ∧ Writable (dumping 1 (2 ^ 21) [8195]) (dumpRegion (2 ^ 21)) 0 36832 dumpAt :=
  ⟨writable (by decide +kernel) rfl rfl rfl rfl (by decide), writable (by decide +kernel) rfl rfl rfl rfl (by decide),
    writable (by decide +kernel) rfl rfl rfl rfl (by decide)⟩

/-- With a window of one unit, whose word 3 is poisoned. -/
theorem witness_DumpContents_poison :
    let s := dumping 1 (2 ^ 21) [8195]
    let b := { block0 with scratch := 1 }
    let xs := sectionsOf s 1 0 b (s.blockHeader 1 0 b) fun _ => true
    let poisoned := fun (b : Block) (w : Nat) => b.unit * 8192 ≤ w ∧ w < (b.unit + b.scratch) * 8192 ∧ w ∈ (s.core b.pcn).sramPoison
    xs.map (fun x => x.body.length) = [3456, 32768, 192] ∧ xs.map DumpPart.kind = [1, 2, 3]
      ∧ poisoned b 8195 ∧ ∀ v < 8195, ¬ poisoned b v := by
  refine ⟨?_, ?_, by decide +kernel, fun v hv h => ?_⟩
  · simp only [sectionsOf, List.map_append, List.map_cons, List.map_nil, List.length_map, List.length_range]
    decide +kernel
  · decide +kernel
  · have := h.2.2
    have hc : ((dumping 1 (2 ^ 21) [8195]).core block0.pcn).sramPoison = [8195] := by decide +kernel
    simp only [hc, List.mem_singleton] at this
    omega

/-- A control block (R328) of region `rid`. -/
def controlBlock (rid : Nat) : List Byte :=
  bytesOf 4 0x52474E42 ++ bytesOf 4 rid ++ List.replicate 67 0 ++ [2] ++ List.replicate 12 0 ++ bytesOf 4 1000 ++ bytesOf 4 2000 ++ bytesOf 8 0x4000
    ++ List.replicate 8 0 ++ bytesOf 8 0x1000 ++ bytesOf 8 0x1B000 ++ bytesOf 8 0x1800 ++ bytesOf 8 0x400 ++ List.replicate 112 0

/-- A module in RUN with bytes of a block, or a record, at 0x30000, and region 1. -/
def monarchs (bs : List Byte) (rid : Nat) : State :=
  { tables (cellsFrom 0x30000 []) with
    homes := { Homes.reset with mem := (State.codeCells [] ++ cellsFrom 0x30000 bs).filter fun c => c.2 != 0 }
    monarch := { Monarch.reset with power := .run }, regions := [{ region1 with rid := rid }], subject := { rid := 1, addr := 0x30000 } }

theorem witness_RegionEventResults :
    (let s := monarchs (controlBlock 1) 2
     let bs := s.agentRead 0 s.subject.addr 256
     blockOk bs = true ∧ (∀ o, o ∈ [40, 44, 48, 52, 104, 108] → byteField bs o 4 = 0) ∧ byteField bs 76 2 = 0
      ∧ (∀ q ∈ s.regions, q.rid ≠ (regionOf s.subject.addr bs).rid) ∧ (regionOf s.subject.addr bs).parent = 0 ∧ s.monarch.power = .run
      ∧ s.subject.seq = none)
    ∧ blockOk ((monarchs [] 2).agentRead 0 0x30000 256) = false
    ∧ (let s := monarchs (controlBlock 1) 1
       let new := regionOf 0x30000 (s.agentRead 0 0x30000 256)
       (s.region? s.subject.rid).map Region.addr = some 0x30000 ∧ new.rid = 1 ∧ (new.lqtail - new.lqhead).toNat ≤ 2 ^ new.lqorder)
    ∧ (regionOf 0x30000 ((monarchs (controlBlock 5) 1).agentRead 0 0x30000 256)).rid ≠ 1
    ∧ (let s := { monarchs (launchRecord 1 0x1F08 0x10000001) 1 with regions := [{ region1 with appends := [(0x30000, true)], lqtail := 3 }] }
       let bs := s.agentRead 0 0x30000 128
       byteField bs 0 4 = 0x4C4E4348 ∧ (∀ b ∈ (bs.drop 8).take 6, b = 0) ∧ (∀ b ∈ bs.drop 112, b = 0) ∧ s.monarch.hostAttached = true
        ∧ (s.region? 1).map Region.appends = some ((0x30000, true) :: []) ∧ ((3 : Word) - 0).toNat ≠ 2 ^ 2
        ∧ (s.monarchWritable { region1 with lqtail := 3 } (0x1000 + 128 * 3)).isSome = true)
    ∧ ((4 : Word) - 0).toNat = 2 ^ region1.lqorder ∧ ({ region1 with copied := true } : Region).copied = true := by decide +kernel

theorem witness_RegionEventResults_plain : Plain (monarchs (launchRecord 1 0x1F08 0x10000001) 1) := plain_of_plainB (by decide +kernel)

/-- A queue's first entry at 0x20000, where 0x1000 is mapped, and a code object at 0x1400 with one native kernel. -/
def queued (rec_ : List Byte) (code : List Byte) : State :=
  { monarchs [] 1 with
    homes := { Homes.reset with mem := (State.codeCells rec_ ++ cellsFrom 0x20400 code).filter fun c => c.2 != 0 }
    regions := [{ region1 with lqtail := 1 }], launches := [], gangs := [], others := [], warp := Warp.start }

/-- R82-R89: a header, a native image's descriptor, a kernel of a block of `warps` warps, and the kernel table. -/
def codeObject (warps : Byte) : List Byte :=
  bytesOf 4 0x4F424A31 ++ bytesOf 2 1 ++ bytesOf 2 1 ++ bytesOf 4 1 ++ List.replicate 52 0
    ++ bytesOf 4 0x4C370B02 ++ List.replicate 32 0 ++ bytesOf 8 0x80 ++ bytesOf 4 0x100 ++ bytesOf 4 0x80 ++ List.replicate 12 0
    ++ bytesOf 4 0x4B484C37 ++ [1, 1, 2, 1, warps, 1] ++ List.replicate 6 0 ++ bytesOf 4 64 ++ List.replicate 44 0
    ++ List.replicate 64 0 ++ bytesOf 4 0 ++ List.replicate 60 0

/-- The hypotheses of `LaunchTakeResults` on the record alone: COMPL in a lease, no field out of range. -/
def recordGood (s : State) : Bool :=
  let f := byteField (nextRecord s { region1 with lqtail := 1 })
  complOk (leasesOf (nextRecord s { region1 with lqtail := 1 })) (f 104 8)
    && !(f 20 4 == 0 || 2 ^ 24 < f 20 4 || f 14 1 == 0 || 4 < f 14 1 || f 15 1 == 0 || 16 < f 15 1)

/-- The state in which the record is looked at: LQHEAD has advanced. -/
def looking (s : State) : State :=
  (s.putBlock 0x30000 104 (bytesOf 4 1)).modifyRegion 1 fun r => { r with lqhead := r.lqhead + 1 }

theorem witness_LaunchTakeResults :
    (let s := queued (launchRecord 3 0x1F08 0x10000001) (codeObject 1)
     Plain s ∧ (s.region? s.subject.rid = some { region1 with lqtail := 1 } ∧ s.monarch.power = .run ∧ recordGood s = true
      ∧ (looking s).leasesFit 1 4096 false = true ∧ ¬ region1.chrylen < 1024 ∧ ((looking s).regionPhys 1 0x1F08).isSome = true
      ∧ (∃ k, (looking s).selectKernel 1 0x1400 0 = .ok k ∧ k.header.gang = 1 ∧ k.header.block = 1
          ∧ (looking s).gangNeverFits 1 1 1 k.header = false)))
    ∧ recordGood (queued (launchRecord 1 0x2F08 0x10000001) []) = false
    ∧ (let s := queued (launchRecord 0 0x1F08 0x10000001) []
       complOk (leasesOf (nextRecord s { region1 with lqtail := 1 })) 0x1F08 = true ∧ byteField (nextRecord s { region1 with lqtail := 1 }) 20 4 = 0)
    ∧ (looking (queued (launchRecord 3 0x1F08 0x1FFFFFFF) [])).leasesFit 1 (4096 * 0xFFFFFFF) false = false
    ∧ (looking (queued (launchRecord 3 0x1F08 0x10000001) [])).selectKernel 1 0x1400 0 = .error none
    ∧ (∃ c a, (looking (queued (launchRecord 3 0x1F08 0x10000001) [])).selectKernel 1 0x2400 0 = .error (some (c, a)))
    ∧ (∃ k, (looking (queued (launchRecord 3 0x1F08 0x10000001) (codeObject 2))).selectKernel 1 0x1400 0 = .ok k ∧ k.header.block ≠ 1) := by
  refine ⟨⟨plain_of_plainB (by decide +kernel), by decide +kernel, by decide +kernel, by decide +kernel, by decide +kernel, by decide +kernel,
    by decide +kernel, ?_⟩, by decide +kernel, by decide +kernel, by decide +kernel, error_of (by decide +kernel), ?_, ?_⟩
  · exact ⟨⟨0x1480, ⟨16, 32, 1, 1, 1, 0, 64, 0⟩, 0x1480, 0, ⟨0x1480, [⟨0x14C0, 16⟩], [0]⟩, false⟩, ok_of (by decide +kernel), by decide, by decide, by decide +kernel⟩
  · exact ⟨_, _, error_of (x := some ((cTRANSLATION : BitVec 16).toNat, 0x2400)) (by decide +kernel)⟩
  · exact ⟨⟨0x1480, ⟨16, 32, 1, 2, 1, 0, 64, 0⟩, 0x1480, 0, ⟨0x1480, [⟨0x14C0, 16⟩], [0]⟩, false⟩, ok_of (by decide +kernel), by decide⟩

/-- A launch about which the next step is. -/
def launched (l : Launch) (gs : List Gang) : State :=
  { tables [] with launches := [l], gangs := gs, subject := { launch := 1 } }

theorem witness_LaunchEndResults :
    (let s := launched launch1 [{ gang1 with state := .retired }]
     Plain s ∧ (s.launch? s.subject.launch = some launch1 ∧ launch1.state = .placing ∧ launch1.ending = none ∧ launch1.gangs ≤ launch1.nextGang
      ∧ (∀ g ∈ s.gangs.filter fun g => g.launch == 1, g.state = .retired) ∧ launch1.compl % 8 = 0
      ∧ (s.regionPhys launch1.rid launch1.compl).isSome = true))
    ∧ (∀ g ∈ (launched { launch1 with ending := some true } [{ gang1 with state := .ready }]).gangs.filter fun g => g.launch == 1,
        g.state ≠ .placed ∧ g.state ≠ .halting)
    ∧ (let l := { launch1 with ending := some true, stamp := 5, relaunches := 2 }
       l.relaunches < 3 ∧ l.stamp ≠ 0 ∧ l.poolHomes = [] ∧ ({ l with stamp := 0 } : Launch).stamp = 0)
    ∧ (let l := { launch1 with state := .taken, pinned := false, lease := [(1, 1)] }
       let s := launched l []
       l.state = .taken ∧ l.referral = none ∧ s.leasesFit 1 (l.lease.foldl (fun n x => n + 4096 * x.2) 0) true = true
        ∧ (s.regionPhys 1 (4096 * 1)).isSome = true ∧ s.inTier region1.ptroot (4096 * 1) = false
        ∧ (∀ q ∈ s.launches, q.id ≠ 1 → q.rid = 1 → q.state ≠ .taken))
    ∧ (let l := { launch1 with state := .taken, pinned := false, lease := [(1, 2)] }
       (launched l []).regionPhys 1 (4096 * 2) = none ∧ (launched l []).leasesFit 1 8192 true = true)
    ∧ (((launched { launch1 with referral := some 0x2000 } []).launch? 1).map Launch.referral = some (some 0x2000)
      ∧ (launched { launch1 with referral := some 0x2000 } []).monarch.power = .run
      ∧ (launched { launch1 with referral := some 0x2000 } []).subject.seq = none)
    ∧ (let l := { launch1 with ending := some false, stamp := 5 }
       let s := { launched l [] with homes := { (launched l []).homes with lines := [⟨0x20F08 / 192, 0, 0, 15⟩] } }
       let u := s.undo l
       s.launch? 1 = some l ∧ l.state ≠ .done ∧ l.stamp ≠ 0 ∧ l.poolHomes = [] ∧ tidyB u = true ∧ u.monarch.encryption = false ∧ u.monarch.integrity = false
        ∧ u.regionPhys l.rid l.compl = some ⟨0x20F08, 0, false⟩ ∧ l.compl % 8 = 0
        ∧ (∃ x ∈ u.homes.lines, x.line = lineOf 0x20F08 ∧ x.stamp = 0 ∧ x.key = 0) ∧ u.homes.owners = [])
    ∧ ({ launch1 with state := .done } : Launch).state = .done :=
  ⟨⟨plain_of_plainB (by decide +kernel), by decide +kernel⟩, by decide +kernel⟩

/-- With no link down, every module that is not recorded as lost is reached. -/
theorem not_lost {s : State} (p : Nat) (hl : s.fabric.lost.contains p = false) (hp : s.fabric.ports = []) : s.isLost p = false := by
  unfold State.isLost State.pathTo State.routes State.port
  rw [hl, hp]
  rfl

theorem witness_LaunchEndResults_homes :
    let l := { launch1 with ending := some true, stamp := 5, poolHomes := [Config.moduleNumber + 1] }
    l.ending.isSome = true ∧ l.stamp ≠ 0 ∧ (∃ p ∈ l.poolHomes, p ≠ Config.moduleNumber)
    ∧ (∀ p ∈ l.poolHomes, (launched l []).isLost p = false)
    ∧ ({ launched l [] with fabric := { (launched l []).fabric with lost := [Config.moduleNumber + 1] } } : State).isLost (Config.moduleNumber + 1)
        = true := by
  refine ⟨rfl, by decide, ⟨_, List.mem_singleton.2 rfl, by omega⟩, fun p _ => not_lost p rfl rfl, ?_⟩
  simp [State.isLost]

/-- A journaled launch under stamp 5, with a line of its writes at 1050048 and its journal, of one entry, in the pages from 2 MiB on. -/
def journaling (jrnlen : Nat) (marked : Bool) (relaunch : Bool) : State :=
  let l := { launch1 with stamp := 5, given := 5, ending := if relaunch then some true else none }
  let r := { region1 with ptroot := 0x1B000, jrnbase := 0, jrnlen := jrnlen, jrn := if relaunch then [1] else [] }
  { placed with
    regions := [r], launches := [l], gangs := if relaunch then [] else [gang1], subject := { launch := 1, n := 5469 }
    homes := { Homes.reset with
      mem := Memory.putCells wideTables (if relaunch then (cellsFrom 0x200000 (bytesOf 8 1050048)).filter fun c => c.2 != 0 else [])
      lines := if relaunch then [] else [⟨5469, 0, 5, 15⟩]
      fresh := if relaunch then [] else [(1050048, 9)]
      marks := if marked then [{ line := 5469, key := 0, stamp := 5 }] else [] } }

theorem witness_JournalResults :
    (∀ row ∈ [(4096, false), (4096, true), (0, false)],
      let s := journaling row.1 row.2 false
      tidyB s = true ∧ (s.launches.map Launch.id).Nodup ∧ s.sliceLine? 5469 = some ⟨5469, 0, 5, 15⟩ ∧ (s.stamped? 5).map Launch.id = some 1
        ∧ (s.region? 1).map Region.jrn = some [] ∧ (∃ c ∈ s.homes.fresh, lineOf c.1 = 5469) ∧ s.monarchPlace 0x1B000 0 = some (0x200000, 0)
        ∧ s.monarch.encryption = false ∧ s.monarch.integrity = false ∧ (∀ o < 256, placeOf s.monarch (0x200000 + o) = .direct 0)
        ∧ (∀ o < 192, placeOf s.monarch (192 * 5469 + o) = .direct 0) ∧ (∀ o < 256, lineOf (0x200000 + o) ≠ 5469))
    ∧ (((journaling 4096 true false).mark 5469).stamp = 5 ∧ ((journaling 4096 false false).mark 5469).stamp = 0 ∧ 256 * 0 + 256 ≤ 4096 ∧ 0 < 256 * 0 + 256)
    ∧ (let s := journaling 4096 true true
       let u := s.flushStamped 5
       (s.launch? 1).map (fun l => (l.ending, l.relaunches)) = some (some true, 0) ∧ s.gangs = [] ∧ tidyB u = true ∧ u.monarch.encryption = false
        ∧ u.monarch.integrity = false ∧ (u.region? 1).map Region.jrn = some [1] ∧ byteField (u.readRegion 1 0 256).bytes 0 8 = 192 * 5469) := by
  decide +kernel

theorem witness_JournalResults_places {o : Nat} (h : o < 256) :
    let u := (journaling 4096 true true).flushStamped 5
    (∃ p, u.regionPhys 1 (0 + 256 * 0 + o) = some p ∧ lineOf p.pa ≠ 5469) ∧ ∀ b ∈ entriesOf u (0 + 256 * 0 + o) 5 0 0x1B000, b < 0x200000 := by
  have hw : wideB ((journaling 4096 true true).flushStamped 5) = true := by decide +kernel
  have hr : (((journaling 4096 true true).flushStamped 5).region? 1).map Region.ptroot = some 0x1B000 := by decide +kernel
  have hk := wide_walk hw (k := 0 + 256 * 0 + o) (by omega)
  refine ⟨?_, hk.2⟩
  cases hg : ((journaling 4096 true true).flushStamped 5).region? 1 with
  | none => rw [hg] at hr; cases hr
  | some r =>
    rw [hg] at hr
    simp only [Option.map_some, Option.some.injEq] at hr
    refine ⟨⟨State.leafPa 2 0x20001F#64 (0 + 256 * 0 + o), pteKey 0x20001F#64, pteAttr 0x20001F#64 == 1⟩, ?_, ?_⟩
    · simp only [State.regionPhys, hg, hr, hk.1]
      rw [if_pos (by omega)]
    · have : State.leafPa 2 0x20001F#64 (0 + 256 * 0 + o) = 0x200000 + o := by
        have hl : ptePa 0x20001F#64 = 0x200000 := by decide
        simp only [State.leafPa, leafBits, hl]
        simp
        omega
      rw [this]
      show lineOf (0x200000 + o) ≠ 5469
      unfold lineOf
      omega

/-- The first gang of a launch, ready; no warp is resident. -/
def toPlace : State :=
  let l := { launch1 with scratch := 1, gangs := 2 }
  { tables [] with
    launches := [l], gangs := [State.newGang l 0 0], monarch := { Monarch.reset with power := .ready }, warp := Warp.start
    regions := [{ region1 with split := 8 }], cores := placed.cores.map fun c => { c with split := 8 } }

theorem witness_GangPlacement :
    toPlace.canonical = true ∧ toPlace.monarch.power = .ready ∧ (∀ v ∈ toPlace.gangs, v.victim = false)
    ∧ toPlace.readyGangs = [State.newGang { launch1 with scratch := 1, gangs := 2 } 0 0]
    ∧ (toPlace.gang? 1 0).map Gang.state = some .ready ∧ (toPlace.gang? 1 0).map Gang.blocks = some []
    ∧ toPlace.launch? 1 = some { launch1 with scratch := 1, gangs := 2 } ∧ toPlace.region? 1 = some { region1 with split := 8 }
    ∧ toPlace.bestFit 1 (State.freshShape { launch1 with scratch := 1, gangs := 2 }) = some [0]
    ∧ toPlace.budgetsAllow 1 [0] (State.freshShape { launch1 with scratch := 1, gangs := 2 }) 1 = true := by decide +kernel

/-- A gang of one block without scratchpad and one warp: the warp, and its image's bytes. -/
def member : Warp := { Warp.start with status := .ready, launch := 1, rid := 1, cw := 3, pc := 0x1040 }

/-- A victim, about which the next step is. -/
def victim : State :=
  let g := { gang1 with victim := true, blocks := [{ block0 with scratch := 0 }] }
  { tables [] with
    gangs := [g], others := [member], warp := Warp.start, regions := [{ region1 with chrylen := 8192 }], subject := { launch := 1 } }

/-- The bytes of an image of that gang: the header, the block's header, and a warp's image of which three bytes are given. -/
def imageBytes : List Byte :=
  [1] ++ List.replicate 191 0 ++ [0, 1, 0, 0, 1] ++ List.replicate 187 0 ++ List.replicate 64 0 ++ [0, 0, 1, 1]

/-- The gang evicted, its image at the start of the Chrysalis area. -/
def evicted : State :=
  let g := { gang1 with state := .evicted, blocks := [{ block0 with scratch := 0 }], image := some (0, 6144), places := [0] }
  { tables [] with
    homes := { Homes.reset with mem := (State.codeCells [] ++ cellsFrom 0x20800 imageBytes).filter fun c => c.2 != 0 }
    gangs := [g], warp := Warp.start, regions := [{ region1 with chrylen := 8192 }], subject := { launch := 1 }
    monarch := { Monarch.reset with power := .run } }

theorem witness_EvictionAndRestore :
    (victim.canonical = true ∧ (victim.gang? 1 0).map Gang.victim = some true ∧ (victim.region? 1).isSome = true
      ∧ (victim.warps.map fun w => (w.pcn, w.cw)).Nodup ∧ victim.cores.all (fun c => c.copies.isEmpty) = true
      ∧ (∀ w ∈ victim.warps, w.pin = 0 ∧ w.status ≠ .draining ∧ w.status ≠ .halted ∧ w.stack.length ≤ 32 ∧ w.wait = none)
      ∧ (∀ c ∈ victim.cores, ∀ q : Fin 4, (c.queues.get q).entries.length ≤ 16)
      ∧ (victim.gang? 1 0).map (fun g => (g.asked, g.image, fitArea region1.chryUsed region1.chrybase 8192 64 (victim.gangImageLen g))) = some (false, none, some 0)
      ∧ (victim.gang? 1 0).map (fun g => fitArea region1.chryUsed region1.chrybase 1024 64 (victim.gangImageLen g)) = some none)
    ∧ (let g := { gang1 with state := .evicted, blocks := [{ block0 with scratch := 0 }], image := some (0, 6144), places := [0] }
       let bs := evicted.savedGang g
       evicted.gang? 1 0 = some g ∧ evicted.readyGangs = [g] ∧ (∀ v ∈ evicted.gangs, v.victim = false)
        ∧ (∀ q ∈ evicted.regions, q.migrating = false) ∧ bs.length = 1 ∧ g.places.Nodup ∧ (bs.map SavedBlock.index).Nodup
        ∧ (∀ b ∈ bs, b.window.bytes.length = b.scratch * 32768) ∧ evicted.warps = [] ∧ (∀ b ∈ g.blocks, b.retired = false)
        ∧ (bs.map fun b => b.warps.length) = [1] ∧ (∀ b ∈ bs, ∀ x ∈ b.warps, x.queues = [])
        ∧ evicted.bestFit 1 (State.savedShape bs g.places) = some [0]
        ∧ evicted.budgetsAllow 1 [0] (State.savedShape bs g.places) 0 = true) := by decide +kernel

theorem witness_ImageLayouts :
    Warp.start.stack.length ≤ 32 ∧ Warp.start.varch ≤ 128
    ∧ (∀ q : Fin 4, ((placed.core 0).queues.get q).entries.length ≤ 16 ∧ ((placed.core 0).queues.get q).prog.length ≤ 64)
    ∧ (let v := { placed.warp with cw := 1, index := some 1 }
       let s := { placed with others := [v] }
       ((s.warps.filter fun w => w.launch == 1 && w.gang == 0 && w.block == 0).filterMap Warp.index) = [0, 1]
        ∧ (∀ w ∈ s.warps, w.index.all fun i => decide (i < 16)))
    ∧ (let s := withQueue { Queue.empty with owner := some 0, prog := program true, entries := [(Vector.replicate 32 7, false)] }
       ((List.range 4).filter fun q => (s.queueOf 0 (BitVec.ofNat 2 q)).owner = some s.warp.cw) = [1]) := by decide +kernel

theorem witness_WarpImagesHoldTheWarp :
    (∀ i : Fin 64, (Warp.start.sshd.get i).encloses (Warp.start.sreg.get i).toInt)
    ∧ (∀ i : Fin 128, ∀ j : Fin 32, (Warp.start.vshd.get i).encloses ((Warp.start.vreg.get i).get j).toInt)
    ∧ State.reset.ownedQueues Warp.start = [] ∧ Warp.start.varch % 16 = 0 ∧ 16 ≤ Warp.start.varch ∧ Warp.start.varch ≤ 128
    ∧ Warp.start.vren % 16 = 0 ∧ Warp.start.vren ≤ 128 ∧ Warp.start.stack.length ≤ 32 ∧ Warp.start.tdepth ≤ 32 ∧ Warp.start.block < 4
    ∧ (∀ i, Warp.start.index = some i → i < 16) ∧ Warp.start.khdr < 2 ^ 48 ∧ Warp.start.recVa < 2 ^ 48 ∧ 255 < 256 := by
  refine ⟨fun i => encloses_of ?_, fun i j => encloses_of ?_, by decide +kernel, by decide, by decide, by decide, by decide, by decide, by decide,
    by decide, by decide, fun i h => ?_, by decide, by decide, by decide⟩
  · revert i; decide +kernel
  · have hs : ∀ i : Fin 128, Warp.start.vshd.get i = .bounded 0 0 := by decide +kernel
    have hv : ∀ i : Fin 128, Warp.start.vreg.get i = Vector.replicate 32 0 := by decide +kernel
    have hz : ∀ j : Fin 32, (Vector.replicate 32 (0 : Word)).get j = 0 := by decide +kernel
    rw [hs, hv, hz]
    decide
  · cases h; decide

theorem witness_PlacementTimeResults :
    (let s := { placed with subject := { launch := 1 }, gtime := 10 ^ 9 }
     s.gang? s.subject.launch s.subject.gang = some gang1 ∧ s.region? gang1.rid = some region1 ∧ gang1.state = .placed
      ∧ gang1.placedAt + quantum s region1 ≤ s.gtime)
    ∧ (let r := { region1 with quantum := 100 }
       let s := { placed with regions := [r] }
       s.gtime < gang1.placedAt + quantum s r)
    ∧ (let r := { region1 with quantum := 100 }
       let g := { gang1 with state := .ready, aging := 2 }
       let s := { placed with regions := [r], gtime := 3 * quantum { placed with regions := [r] } r }
       g.aging < 3 ∧ g.readyAt + (g.aging + 1) * quantum s r ≤ s.gtime)
    ∧ ({ gang1 with state := .evicted, aging := 3 } : Gang).aging = 3
    ∧ (let h := { gang1 with index := 1, state := .evicted, image := some (0, 192) }
       let g := { gang1 with blocks := [{ block0 with scratch := 0 }] }
       let r := { region1 with quantum := 100, chrylen := 32768 }
       let w := { placed.warp with status := .waiting, wait := some (.waitw 0 0) }
       let s := { placed with gangs := [g, h], regions := [r], warp := w, clock := 10 ^ 6, subject := { launch := 1 } }
       s.gang? 1 0 = some g ∧ s.region? 1 = some r ∧ g.asked = false ∧ g.victim = false ∧ s.imageFits g = true ∧ s.evictedHead 1 = some h ∧ h.favoured = false
        ∧ (({ s with gangs := [g, { h with favoured := true }] } : State).evictedHead 1).map Gang.favoured = some true
        ∧ s.gang? 1 1 = some h ∧ s.warp.status ≠ .halted ∧ s.others = []
        ∧ s.warp.waitSince + quantum s r / 1000 * s.monarch.clockMHz ≤ s.clock) := by decide +kernel

/-! ## Witnesses: translation, the Monarch, tools, the fabric, steps -/

/-- A module in RUN with `placed` on it. -/
def running : State := { placed with monarch := { Monarch.reset with power := .run } }

/-- `placed` with page tables of two levels: the first 1 GiB of virtual addresses is one leaf that names the GiB of HBM4E at 1 GiB. -/
def walked : State :=
  { placed with homes := { Homes.reset with mem := [(0x1B000, 0x01), (0x1B002, 0x02), (0x20000, 0x1F), (0x20003, 0x40)] } }

theorem witness_TranslationMaintenance :
    (running.monarch.power = .run ∧ running.subject.seq = none ∧ running.region? 1 = some region1)
    ∧ (let s := { walked with
         warp := Warp.start, others := [], launches := [], gangs := [], monarch := { Monarch.reset with scores := [(2 ^ 36 + 1, 1, [2])] }
         subject := { rid := 1, addr := 0x1000, value := 128 * gib } }
     let page := region1.rid * 2 ^ 36 + (s.subject.addr - s.subject.addr % 2 ^ 30) / 4096
     let pages := 2 ^ 30 / 4096
     Plain s ∧ (s.region? s.subject.rid = some region1 ∧ (∀ w ∈ s.warps, w.stores = []) ∧ (s.warps.map fun w => (w.pcn, w.cw)).Nodup
      ∧ s.cores.all (fun c => c.copies.isEmpty) = true ∧ s.subject.seq = none
      ∧ s.leafAt s.subject.addr 5 0 region1.ptroot = some (1, 0x4000001F, 0x20000) ∧ leafBits 1 = 30
      ∧ placeOf s.monarch (ptePa 0x4000001F) = .direct 0 ∧ placeOf s.monarch s.subject.value = .direct 2 ∧ pteFix 0x4000001F = false
      ∧ s.pinsPage region1 (s.subject.addr - s.subject.addr % 2 ^ 30) (2 ^ 30) = false ∧ s.holdsTables (ptePa 0x4000001F) (2 ^ 30) = false
      ∧ 2 / 2 = s.bestDie page pages ∧ 0 / 2 ≠ s.bestDie page pages ∧ 2 * s.scoreOf page pages (0 / 2) ≤ s.scoreOf page pages (s.bestDie page pages)
      ∧ 2 = (if s.subject.list.getD 0 0 < s.subject.list.getD 1 0 then 2 * s.bestDie page pages + 1 else 2 * s.bestDie page pages)
      ∧ s.subject.value % 2 ^ 30 = 0 ∧ mappable s.monarch s.subject.value (2 ^ 30) = true ∧ s.homes.poison = []
      ∧ (region1.addr + 78 < s.subject.value ∧ 0x20000 + 8 < s.subject.value) ∧ ¬ region1.addr + 78 ≤ 0x20000 ∧ 0x20000 + 8 ≤ region1.addr + 76))
    ∧ (let f : Footprint := ⟨some (0, 2), 1, 0x1000, 8192, 6⟩
       let s := placed.modifyCore 0 fun c => { c with footprint := [f] }
       (∃ c, s.cores = [c] ∧ c.footprint = [f]) ∧ 0 < f.bytes ∧ s.monarch.scores = []) :=
  ⟨by decide +kernel, ⟨plain_of_plainB (by decide +kernel), by decide +kernel⟩, ⟨_, rfl, rfl⟩, by decide +kernel⟩

theorem witness_PowerResults :
    State.reset.monarch.power = .off ∧ running.monarch.power = .run ∧ running.monarch.power ≠ .recovery ∧ running.subject.seq = none
    ∧ (let s := { running with monarch := { Monarch.reset with power := .recovery } }
       s.monarch.power = .recovery ∧ s.subject.seq = none)
    ∧ (running.cores.map Core.pcn).Nodup
    ∧ ({ running with monarch := { running.monarch with standby := true } } : State).monarch.standby = true
    ∧ (let s := { running with monarch := { running.monarch with stopped := true } }
       s.monarch.stopped = true ∧ s.agenda = [])
    ∧ (let s := { running with subject := { seq := some 4 }, monarch := { running.monarch with seen := [4] } }
       s.subject.seq = some 4 ∧ 4 ∈ s.monarch.seen) := by decide +kernel

theorem witness_MonarchServices :
    Plain running ∧ running.monarch.power = .run ∧ running.subject.seq = none ∧ running.monarch.hostAttached = true
    ∧ running.monarch.encryption = false ∧ running.subject.flag = false ∧ running.subject.addr < 2 ^ 24
    ∧ (let s := { running with subject := { id := 63, flag := true, addr := 2 ^ 24 - 1 } }
       1 ≤ s.subject.id ∧ s.subject.id ≤ 63 ∧ s.subject.flag = true ∧ s.subject.addr < 2 ^ 24 ∧ s.subject.seq = none) :=
  ⟨plain_of_plainB (by decide +kernel), by decide +kernel⟩

/-- A warp about to run a word with its stop bit set. -/
def atStop : State :=
  let s := State.reset.placeInstr (bytesOf 4 0xA6000006)
  { s with warp := { s.warp with stepping := true } }

theorem witness_TraceAndDebugResults :
    (∃ w ∈ placed.warps, w.pcn / 4 = placed.subject.n ∧ w.status = .ready)
    ∧ (let s := { placed with subject := { n := 3 } }; ∀ w ∈ s.warps, w.pcn / 4 = s.subject.n → w.status ≠ .ready)
    ∧ (let s := { placed with subject := { rid := 1, list := [1, 2, 3, 4, 5, 6, 7, 8] } }
       s.subject.list.length ≤ 8 ∧ s.region? s.subject.rid = some region1 ∧ s.subject.seq = none)
    ∧ (let s := faulted 1 .trapped cBOUNDS
       let s := { s with warp := { s.warp with wait := some (.inWarpStop 2) } }
       s.subject.pcn = s.warp.pcn ∧ s.subject.cw = s.warp.cw ∧ s.warp.status = .trapped ∧ s.warp.wait = some (.inWarpStop 2))
    ∧ atStop.fetchWord 0 atStop.warp.pc.toNat = .ok (0xA6000006, 0x20000)
    ∧ (atStop.warp.status = .ready ∧ atStop.warp.rep = none ∧ (0xA6000006 : Word).getLsbD 31 = true ∧ atStop.warp.resumed = false ∧ atStop.warp.rerun = false
      ∧ (0xA6000006 : Word).extractLsb' 25 6 ≠ 0x12#6 ∧ atStop.warp.stepping = true ∧ atStop.region? atStop.warp.rid = none)
    ∧ (4096 ≤ 4096 ∧ 4096 ≤ 2 ^ 32) ∧ 4095 < 4096
    ∧ (let k := (placed.cluster 0)
       placed.subject.n < 64 ∧ k.thisCycle.1 ≠ ({ placed with clock := 9 } : State).clock ∧ k.left = none
        ∧ (({ placed with clusters := [{ k with left := some 0, dropped := 2 }] } : State).cluster 0).left = some 0)
    ∧ (atStop.warp.wait = none ∧ (staying placed (.cwait 0)).warp.wait ≠ none ∧ atStop.subject.pcn = atStop.warp.pcn ∧ atStop.subject.cw = atStop.warp.cw)
    ∧ placed.subject.pcn < 256 :=
  ⟨by decide +kernel, by decide +kernel, by decide +kernel, by decide +kernel, ok_of (by decide +kernel), by decide +kernel⟩

theorem witness_DebuggerRegisters :
    let s := faulted 1 .trapped cBOUNDS
    let s := { s with warp := { s.warp with wait := some (.inWarpStop 2) } }
    let at_ := fun (x : Subject) => ({ s with subject := x } : State)
    s.subject.seq = none ∧ s.subject.pcn = s.warp.pcn ∧ s.subject.cw = s.warp.cw ∧ s.warp.status = .trapped ∧ s.warp.wait = some (.inWarpStop 2)
    ∧ (at_ { id := 0, n := 63, flag := true }).subject.n < 64 ∧ (at_ { id := 1, n := 127, len := 31 }).subject.n < 128
    ∧ (at_ { id := 2, n := 6, flag := true }).subject.n < 7 ∧ (at_ { id := 3 }).subject.id = 3 ∧ (at_ { id := 4 }).subject.id = 4
    ∧ (let t := faulted 1 .trapped cBOUNDS; t.warp.status = .trapped ∧ State.debugHeld t.warp = false ∧ t.subject.seq = none)
    ∧ ((systemWrites s.warp 0).map fun r => r.1.toNat) = [0x30, 0x31, 0x32, 0x33] := by
  decide +kernel

/-- An experiment on region 1. -/
def experiment : Causal := ⟨1, 0x1000, 0, 9, 128, []⟩

theorem witness_ExperimentAndTranslatorResults :
    (let s := { running with subject := { flag := true, value := 256, rid := 1 } }
     s.subject.seq = none ∧ s.subject.flag = true ∧ s.subject.value ≤ 256 ∧ s.monarch.causal = none)
    ∧ (let s := { running with monarch := { running.monarch with causal := some experiment } }
       s.subject.seq = none ∧ s.subject.flag = false ∧ s.monarch.causal = some experiment)
    ∧ (let s := { running with monarch := { running.monarch with functions := [⟨0, 0, 0, 0, 64, 0, 0, ⟨0, [], []⟩⟩] } }
       ∃ f ∈ s.monarch.functions, f.rid = s.subject.rid ∧ f.code = s.subject.addr ∧ f.fn = s.subject.n ∧ (s.monarch.power = .ready ∨ s.monarch.power = .run))
    ∧ (∀ f ∈ running.monarch.functions, ¬ (f.rid = running.subject.rid ∧ f.code = running.subject.addr ∧ f.fn = running.subject.n)) := by
  decide +kernel

/-- A module with one port. -/
def ported (p : Port) : State := { running with fabric := { running.fabric with ports := [p] } }

/-- A module all of whose links are down. -/
def cutOff : State := { running with fabric := { running.fabric with ports := (List.range 16).map fun k => { running.port k with down := true } } }

theorem port_down {k : Nat} (h : k < 16) : (cutOff.port k).down = true := by
  have all : ∀ j < 16, (cutOff.port j).down = true := by decide +kernel
  exact all k h

theorem witness_LinkResults :
    ((running.port 0).down = false ∧ (running.port 0).retraining = false ∧ (running.port 0).sparedLane = none
      ∧ (running.port 0).nextSeq = BitVec.ofNat 32 (byteField (List.replicate 256 0) 8 4)
      ∧ BitVec.ofNat 32 (byteField (List.replicate 256 1) 8 4) ≠ (running.port 0).nextSeq)
    ∧ (let p := { running.port 0 with sparedLane := some 3 }
       ((ported p).port 0).down = false ∧ ((ported p).port 0).retraining = false ∧ ((ported p).port 0).sparedLane = some 3)
    ∧ ((ported { running.port 0 with sparedLane := some 3, retraining := true }).port 0).retraining = true
    ∧ ((ported { running.port 0 with down := true }).port 0).down = true := by decide +kernel

/-- A flit still in the replay buffer, asked for again by its number. -/
theorem witness_LinkResults_again (f : Flit) (h0 : f.seq = 0) :
    let s := { ported { running.port 0 with buffer := [f] } with subject := { flag2 := true } }
    (s.port 0).down = false ∧ (s.port 0).retraining = false ∧ s.subject.flag2 = true
    ∧ (s.port 0).buffer.dropWhile (fun g => g.seq != BitVec.ofNat 32 s.subject.n) ≠ []
    ∧ (s.port 0).buffer.dropWhile (fun g => g.seq != BitVec.ofNat 32 5) = [] ∧ (s.port 0).replays = [] := by
  refine ⟨rfl, rfl, rfl, ?_, ?_, rfl⟩
  · show [f].dropWhile (fun g => g.seq != BitVec.ofNat 32 0) ≠ []
    simp [List.dropWhile, h0]
  · show [f].dropWhile (fun g => g.seq != BitVec.ofNat 32 5) = []
    simp [List.dropWhile, h0]

/-- Such a flit is the first one that a port composes. -/
theorem witness_LinkResults_flit : (flitOf (running.port 0) 3 (.restored 5) 0 none).seq = 0 := rfl

theorem witness_LinkResults_paths : (∀ peer, cutOff.pathTo peer = none) ∧ ∀ peer, ∃ k, running.pathTo peer = some k := by
  constructor
  · intro peer
    unfold State.pathTo
    rw [List.find?_eq_none]
    intro k hk
    have hk16 : k < 16 := by
      simp only [State.routes, List.mem_cons, List.mem_map] at hk
      rcases hk with h | h | ⟨x, _, h⟩ <;> omega
    simp [port_down hk16]
  · intro peer
    exact ⟨_, rfl⟩

/-- A pool table whose row 1 has a home, and a copy that reads or adds to it, with what it has asked for. -/
def pool (home : Nat) (moving : List RowMove) : PoolTable :=
  { id := 7, rowSize := 64, current := 1, versions := [⟨1, 8, [(1, home)]⟩], grants := [(1, true, true)], data := [(1, 1, List.replicate 64 5)],
    bad := [], moving := moving, journal := [] }

def poolCopy (op : CopyOp) (asked : List (Nat × Nat)) : Copy :=
  { held op { ArrayReg.start with esize := 6, base := 64, extent := 8 } [] (some [1, 1]) with version := some (7, 1), todo := [0, 1], asked := asked }

/-- `copies1` of that copy in a module with that table, of whose peers 4 is lost. -/
def pooled (op : CopyOp) (home : Nat) (asked : List (Nat × Nat)) (x : Subject) : State :=
  { copies1 (poolCopy op asked) with fabric := { running.fabric with tables := [pool home []], lost := [4] }, subject := x }

theorem witness_PoolRowResults_home (op : CopyOp) :
    (pooled op Config.moduleNumber [] {}).rowHome 7 1 (State.indexOf (poolCopy op []) 0).toNat = some Config.moduleNumber := rfl

theorem witness_CopySectorResults_pool :
    (let c := { poolCopy .scatterAdd [] with dv := some (0, 32776) }
     let s := pooled .scatterAdd 5 [] {}
     let d := { c with indices := some [9, 1] }
     Plain (copies1 c) ∧ 5 ≤ c.areg.esize.toNat ∧ c.indices = some [1, 1] ∧ 0 ∈ c.todo ∧ s.poolDropped c (State.indexOf c (0 / (c.size / 4))) = false
      ∧ s.poolDropped d (State.indexOf d (0 / (d.size / 4))) = true ∧ d.dv = some (0, 32776) ∧ 0 % (d.size / 4) = 0)
    ∧ (let c := poolCopy .gather []
       let s := pooled .gather 5 [] {}
       let d := { c with rows := [(0, List.replicate 128 7)] }
       5 ≤ c.areg.esize.toNat ∧ c.op = .gather ∧ c.suppressed = false ∧ 0 < c.chunk 0 ∧ c.dv = none ∧ s.copy? 0 0 = some c
        ∧ (∃ j < c.chunk 0, s.dropped 0 c ((0 + j) / c.size) = false ∧ ¬ (c.rows.lookup ((0 + j) / c.size)).any (c.size ≤ List.length ·) = true)
        ∧ (∀ j < d.chunk 0, s.dropped 0 d ((0 + j) / d.size) = false → (d.rows.lookup ((0 + j) / d.size)).any (d.size ≤ List.length ·) = true)) :=
  ⟨⟨plain_of_plainB (by decide +kernel), by decide +kernel⟩, by decide +kernel⟩

/-- Operands of a copy: array register 2 and the registers 4, 5 and 6. -/
def copyOf (a : ArrayReg) (first side x : DWord) : State :=
  let s := (untranslated (tables [])).writeA 2 a
  { s with warp := { s.warp with sreg := ((s.warp.sreg.set 4 first).set 5 side).set 6 x } }

/-- Words of `placed` from an address. -/
def words (base extent : Nat) (esize : BitVec 4) (check : BitVec 2) : ArrayReg :=
  { ArrayReg.start with base := BitVec.ofNat 48 base, extent := BitVec.ofNat 31 extent, esize := esize, check := check }

theorem witness_CopyChecks :
    (let c := operands (copyOf (words 0x1000 32 2 1) 0 0 (2 ^ 41 + 8)) .copyIn 2 4
     c.dv ≠ none ∧ (operands (copyOf (words 0x1000 32 2 1) 0 0 (2 ^ 18 + 8)) .copyOut 2 4).aw ≠ none)
    ∧ (let c := operands (copyOf (words 64 32 6 1) 0 0 8) .copyIn 2 4
       c.dv = none ∧ c.dvaddr = 0 ∧ 5 ≤ c.areg.esize.toNat
        ∧ (operands (copyOf (words 0x1000 32 1 1) 0 0 8) .scatterAdd 2 4).areg.esize.toNat ≤ 1
        ∧ (copyOf (words 0x1000 32 2 1) 0 0 8).et = 0)
    ∧ (let c := operands (copyOf (words 0x1000 32 2 1) 0 2 8) .copyIn 2 4
       c.dv = none ∧ c.dvaddr = 0 ∧ c.areg.esize.toNat < 5 ∧ c.side % min (Machine.sizeOf c.areg.esize.toNat) 16 ≠ 0)
    ∧ (let s := copyOf (words 0x1000 32 2 1) 0 0xFFF0 8
       let c := operands s .copyIn 2 4
       c.side % 4 = 0 ∧ c.dvaddr % 4 = 0 ∧ c.awaddr % 16 = 0 ∧ rangeTrouble s (c.side, c.count * 4) = some ⟨cSCRATCH, 0, 0x10000⟩)
    ∧ ((operands (copyOf (words 0x1000 32 2 1) (-1) 0 8) .copyIn 2 4).first < 0
      ∧ (let c := operands (copyOf (words 0x1000 32 2 1) 30 0 8) .copyIn 2 4; (c.areg.extent.toNat : Int) < c.first + c.count))
    ∧ (let s := copyOf { words 0x1000 32 2 1 with ro := true } 0 0 8
       s.launch? s.warp.launch = some launch1 ∧ (operands s .copyOut 2 4).areg.ro = true)
    ∧ (let s := copyOf (words 64 8 6 1) 0 0 1
       let c := operands s .gather 2 4
       5 ≤ c.areg.esize.toNat ∧ c.areg.ro = false ∧ c.areg.base ≠ 0 ∧ s.fabric.tables.find? (·.id == c.areg.base.toNat) = none
        ∧ (pooled .gather 5 [] {}).fabric.tables.find? (·.id == 7) = some (pool 5 []) ∧ (pool 5 []).grants.find? (·.1 == 1) = some (1, true, true)
        ∧ (pool 5 []).rowSize = Machine.sizeOf 5 ∧ (pool 5 []).rowSize ≠ Machine.sizeOf 6 ∧ (pool 5 []).grants.find? (·.1 == 2) = none
        ∧ ({ pool 5 [] with grants := [(1, false, false)] } : PoolTable).grants.find? (·.1 == 1) = some (1, false, false))
    ∧ (operands (copyOf (words 0x10 32 2 2) 0 0 8) .copyIn 2 4).areg.check = 2 := by decide +kernel

theorem witness_CopyChecks_leases :
    let out := fun (lo n va : Nat) => lo ≤ va ∧ va < lo + n ∧ ∀ r ∈ launch1.lease, va / 4096 < r.1 ∨ r.1 + r.2 ≤ va / 4096
    (∀ va, ¬ out 0x1000 32 va) ∧ out 0x7FF0 0x20 0x8000 ∧ ∀ y, out 0x7FF0 0x20 y → 0x8000 ≤ y := by
  refine ⟨fun va h => ?_, by decide, fun y h => ?_⟩
  · have := h.2.2 (0, 8) (by decide)
    omega
  · have := h.2.2 (0, 8) (by decide)
    omega

theorem witness_CopyChecks_pages :
    (let s := copyOf (words 0x1000 32 2 1) 0 0 4
     TlbsTrue s 0 ∧ s.warp.pcn = 0 ∧ firstLost s 0x1000 16 = none)
    ∧ (let s := copyOf (words 0x1FF8 32 2 1) 0 0 4
       firstLost s 0x1FF8 16 = some 0x2000) :=
  ⟨⟨tlbs_true (by decide +kernel) (by decide +kernel), by decide +kernel⟩, by decide +kernel⟩

theorem witness_PoolRowResults_peers :
    (∀ op asked x, (pooled op 5 asked x).isLost 5 = false ∧ (pooled op 4 asked x).isLost 4 = true)
    ∧ (pooled .gather 5 [] { n := 5 }).subject.n ∉ (pooled .gather 5 [] { n := 5 }).fabric.lost := by
  refine ⟨fun op asked x => ⟨not_lost 5 rfl rfl, ?_⟩, by decide +kernel⟩
  simp [State.isLost, pooled]

theorem witness_PoolRowResults :
    (let s := pooled .gather 4 [] { n := 4 }
     let c := poolCopy .gather []
     s.subject.flag = false ∧ s.copy? 0 0 = some c ∧ c.areg.pooled = true ∧ c.op = .gather ∧ c.version = some (7, 1) ∧ c.indices = some [1, 1]
      ∧ c.size % 4 = 0 ∧ 1 < c.count ∧ s.dropped 0 c 1 = false ∧ s.rowHome 7 1 (State.indexOf c 1).toNat = some s.subject.n
      ∧ ((c.rows.lookup 1).getD []).length < c.size ∧ c.rowAsked 1 = [])
    ∧ (let s := pooled .gather 5 [(1, 5)] { n := 1, flag2 := true }
       let c := poolCopy .gather [(1, 5)]
       s.copy? 0 0 = some c ∧ s.subject.n < c.count ∧ s.dropped 0 c 1 = false ∧ s.rowHome 7 1 (State.indexOf c 1).toNat = some 5 ∧ c.asked.lookup s.subject.n = some 5
        ∧ s.subject.flag2 = true ∧ s.subject.flag = false ∧ (poolCopy .gather []).asked.lookup 1 = none)
    ∧ (let s := pooled .scatterAdd 5 [(1, 5)] { n := 1 }
       let c := poolCopy .scatterAdd [(1, 5)]
       s.copy? 0 0 = some c ∧ s.subject.n ∈ c.todo ∧ s.dropped 0 c (1 / (c.size / 4)) = false
        ∧ s.rowHome 7 1 (State.indexOf c (1 / (c.size / 4))).toNat = some 5 ∧ (s.launch? c.launch).isSome = true
        ∧ (∃ o ∈ c.todo, o / (c.size / 4) = 0) ∧ c.asked.lookup s.subject.n = some 5)
    ∧ (let s := pooled .gather 5 [] { n := 9, flag := true, list := [7, 1, 1, 0, 0, 0, 0, 3, 0, 5, 0] }
       s.subject.flag = true ∧ s.rowHome 7 1 1 = some 5 ∧ 4 * 0 + 4 ≤ (s.poolRow 7 1 1).length ∧ BitVec.ofNat 6 5 ≠ 0)
    ∧ (let s := pooled .gather 4 [] { n := 4, flag := true }; s.subject.flag = true) := by
  decide +kernel

/-- Of what a copy has asked for, what a lost peer was asked, and what is lost where the launch restores. -/
theorem witness_PoolRowResults_lost :
    (∀ op, LostAlone (pooled op 4 [] { n := 4 }) (poolCopy op []) 1 4)
    ∧ (let s := pooled .gather 4 [(1, 4)] { n := 1, flag2 := true }
       s.subject.flag2 = true ∧ ∀ p, (poolCopy .gather [(1, 4)]).asked.lookup s.subject.n = some p → s.isLost p = true) := by
  refine ⟨fun op p hp => by simp [poolCopy, Copy.rowAsked, held] at hp, rfl, fun p hp => ?_⟩
  have : p = 4 := by simpa [poolCopy, held, pooled] using hp.symm
  simp [this, State.isLost, pooled]

/-- A module with a pool table, and a step about it. -/
def tabled (home : Nat) (moving : List RowMove) (x : Subject) : State :=
  { running with fabric := { running.fabric with tables := [pool home moving] }, subject := x }

/-- A region that arrives. -/
def arriving (rid : Nat) : Arrival :=
  { region := { region1 with rid := rid, addr := 0x30100 }, launches := [{ launch1 with id := 4, rid := rid }], gangs := [], cells := [(0, [(0x20000, 9)])],
    poison := [0x20004], functions := [], gtime := 5 }

/-- A region on its way, its memory sent or not. -/
def leaving (copied : Bool) (gs : List Gang) (ls : List Launch) : State :=
  { running with regions := [{ region1 with migrating := true, copied := copied }], gangs := gs, launches := ls, subject := { rid := 1, flag := copied } }

theorem witness_TableAndMigrationResults :
    (let s := tabled 5 [] { id := 65535, len := 4096 }
     s.subject.seq = none ∧ 1 ≤ s.subject.id ∧ s.subject.id ≤ 65535 ∧ 64 ≤ s.subject.len ∧ s.subject.len ≤ 4096 ∧ tableOf s s.subject.id = none)
    ∧ (let s := tabled 5 [] { id := 7, rid := 3, flag := true }; tableOf s s.subject.id = some (pool 5 []) ∧ s.subject.seq = none)
    ∧ (let s := { running with subject := { rid := 1 } }
       s.subject.seq = none ∧ s.monarch.power = .run ∧ s.subject.arrival = none ∧ s.region? s.subject.rid = some region1 ∧ region1.migrating = false)
    ∧ (let s := leaving false [gang1] [{ launch1 with stamp := 3, given := 3 }]
       ∃ l ∈ s.launches, l.rid = s.subject.rid ∧ l.state ≠ .done ∧ l.given ≠ 0)
    ∧ (let s := leaving false [gang1] [launch1]
       (¬ ∃ l ∈ s.launches, l.rid = s.subject.rid ∧ l.state ≠ .done ∧ l.given ≠ 0) ∧ ∃ g ∈ s.gangs, g.rid = 1 ∧ g.state = .placed)
    ∧ (let s := { leaving true [] [] with subject := { rid := 1, n := 4, flag2 := true } }
       s.subject.flag2 = true ∧ s.monarch.power = .run ∧ (s.region? 1).map Region.migrating = some true ∧ (s.region? 1).map Region.copied = some true)
    ∧ (∀ copied, (leaving copied [] []).gangs = [] ∧ ((leaving copied [] []).region? 1).map Region.copied = some copied
        ∧ (leaving copied [] []).subject.flag = copied)
    ∧ ((let s := { running with subject := { arrival := some (arriving 2) } }
       let a := arriving 2
       s.subject.arrival = some a ∧ (a.region.feat[0].toNat ||| devFeat) = devFeat ∧ a.region.feat[1] = 0 ∧ a.region.feat[2] = 0
        ∧ a.region.feat[3] = 0 ∧ (∀ r ∈ s.regions, r.rid ≠ a.region.rid))
    ∧ (∃ r ∈ running.regions, r.rid = (arriving 1).region.rid)) := by decide +kernel

/-- A row's move and its handover, asked for where the row's home is this module, by another module's number and by its own. -/
theorem witness_TableAndMigrationResults_move :
    let m : RowMove := ⟨1, 1, Config.moduleNumber + 1, []⟩
    let s := tabled Config.moduleNumber [m] { id := 7, value := 1, n := 1, addr := Config.moduleNumber + 1 }
    s.rowHome 7 1 1 = some Config.moduleNumber ∧ s.subject.addr ≠ Config.moduleNumber ∧ tableOf s 7 = some (pool Config.moduleNumber [m])
    ∧ (pool Config.moduleNumber [m]).moving.find? (fun y => y.version == s.subject.value && y.row == s.subject.n && y.member == s.subject.addr) = some m
    ∧ (tabled (Config.moduleNumber + 2) [] { id := 7, value := 1, n := 1 }).rowHome 7 1 1 ≠ some Config.moduleNumber
    ∧ (tabled 5 [] { addr := Config.moduleNumber }).subject.addr = Config.moduleNumber
    ∧ Plain { running with subject := { arrival := some (arriving 2) } } := by
  refine ⟨rfl, Nat.succ_ne_self _, rfl, ?_, ?_, rfl, plain_of_plainB (by decide +kernel)⟩
  · simp [pool, tabled]
  · intro h
    have e : (tabled (Config.moduleNumber + 2) [] { id := 7, value := 1, n := 1 }).rowHome 7 1 1 = some (Config.moduleNumber + 2) := rfl
    rw [e, Option.some.injEq] at h
    omega

/-- Values of every kind that the claims of floating arithmetic tell apart: NaN, infinities, zeros, subnormals under DZ, an exact result
and one to be rounded. -/
theorem witness_FloatArithmetic :
    (∀ F ∈ [F32, F16, BF16, F8A, F8B], Formats F) ∧ (5 : Nat) < 6 ∧ 2 ^ 24 - 1 < 2 ^ 24
    ∧ F32.read false 0x7FC00000 = .nan ∧ F32.read false 0xFF800000 = .inf true ∧ F32.read false 0x80000000 = .fin true 0 (-149)
    ∧ F32.read true 1 = .fin false 0 (-149) ∧ F32.read false 1 = .fin false 1 (-149) ∧ F8A.read false 0x7E = .fin false 14 5
    ∧ (F32.sum 0 0 false [F32.read false 0x3F800000, F32.read false 1]) = (0x3F800000, fNX)
    ∧ (F32.mul 2 0 false (F32.read false 0x3FC00000) (F32.read false 0x3FC00000)) = (0x40100000, 0)
    ∧ (F32.sqrt 0 0 false (F32.read false 0x40000000)) = (0x3FB504F3, fNX) := by
  refine ⟨fun F h => h, by decide +kernel⟩

theorem witness_FloatConversions :
    (intTy 0).lo ≤ 0 ∧ 0 < (intTy 0).hi ∧ F16.minMax true false 0x8000 0x0000 = 0x8000 ∧ F16.minMax true false 0x7E00 0x3C00 = 0x3C00
    ∧ 0x8000 < 2 ^ F16.width ∧ (FVal.fin true 3 0).cmp (.fin false 1 0) < 0
    ∧ (convertFI F32 (intTy 0) 0 0 false 0x4F800000).2 = fNV := by decide +kernel

/-- Arguments of the approximate functions: a power of two, another, an integer, and enclosures within and beyond a format. -/
theorem witness_FloatApproximations :
    F16.read false 0x4000 = .fin false 1024 (-9) ∧ Deq 1024 (-9) 1 1 ∧ F16.read false 0x4200 = .fin false 1536 (-9) ∧ Deq 1536 (-9) 3 0
    ∧ (let X : Enclosed := encRcp false 1536 (-9); 2 ^ 64 ≤ X.y.natAbs ∧ Dle X.y.natAbs X.e (largest F16).1 (largest F16).2)
    ∧ (let X : Enclosed := encExp2 false 24 0; 2 ^ 64 ≤ X.y.natAbs ∧ ¬ Dle X.y.natAbs X.e (largest F16).1 (largest F16).2)
    ∧ (∀ k : Int, ¬ Deq 1536 (-9) 1 k) := by
  refine ⟨by decide +kernel, by unfold Deq; decide +kernel, by decide +kernel, by unfold Deq; decide +kernel, by unfold Dle; decide +kernel,
    by unfold Dle; decide +kernel, fun k h => ?_⟩
  unfold Deq at h
  rcases Int.le_total (-9) k with hk | hk
  · rw [Int.min_eq_left hk] at h
    obtain ⟨n, hn⟩ := Int.eq_ofNat_of_zero_le (show 0 ≤ k - -9 by omega)
    rw [hn] at h
    have h : 1536 = 2 ^ n := by simpa using h
    rcases Nat.lt_or_ge n 11 with hn | hn
    · have := Nat.pow_le_pow_right (n := 2) (by decide) (show n ≤ 10 by omega)
      omega
    · have := Nat.pow_le_pow_right (n := 2) (by decide) hn
      omega
  · rw [Int.min_eq_right hk] at h
    obtain ⟨n, hn⟩ := Int.eq_ofNat_of_zero_le (show 0 ≤ -9 - k by omega)
    rw [hn] at h
    have h : 1536 * 2 ^ n = 1 := by simpa using h
    have := Nat.one_le_two_pow (n := n)
    omega

/-- Tiles that pass, that a compare mends, and that fail, with what `mop` and `tsst` need. -/
theorem witness_ChecksumResults :
    (let s := pinned1 false 5
     s.warp.pin.getLsbD 0 = true ∧ s.warp.tileAcc = s.acc ∧ s.effMask = 0xFFFFFFFF#32 ∧ Sums32 (s.sumsOf 0) ∧ (formatK s.fa).isSome = true
      ∧ formatK s.fa = formatK s.fb ∧ s.rm < 6 ∧ s.myCore.dupn = 0 ∧ s.beyondVarch [127] = false ∧ s.acc = false ∧ (s.readA 2).esize.toNat < 5)
    ∧ (let s := pinned1 true 1; Sums32 (s.sumsOf 0) ∧ s.acc = true ∧ s.warp.tileAcc = s.acc ∧ s.effMask = 0xFFFFFFFF#32 ∧ s.myCore.dupn = 0)
    ∧ (let s := damaged [(3, 4)]; compare s.acc (tileCells s.warp s.acc 0) (s.sumsOf 0) = .corrects 3 4 0) := by
  unfold Sums32
  decide +kernel

/-- A column whose sum is not its checksum, and one whose sum is. -/
theorem witness_CompareResults :
    Sums32 ((damaged [(3, 4)]).sumsOf 0) ∧ LineFails true 0 [.fin false 1 0] ⟨0, 0⟩ ∧ SumIs ⟨1, 0⟩ [⟨1, 0⟩]
    ∧ LineFails false 0 [.fin false (2 ^ 23) 0] ⟨0, 0⟩ := by
  refine ⟨by unfold Sums32; decide +kernel, ⟨?_, .inl ⟨rfl, fun h => ?_⟩⟩, fun L _ _ => by simp [inUnits], ?_, .inr ⟨rfl, 23, 0, by decide, ?_, .inr ⟨false, 2 ^ 23, 0, ?_⟩, ?_⟩⟩
  · simp [IsFinite]
  · have := h 0 (.inl rfl) (by simp [Fits, num])
    simp [inUnits, num] at this
  · simp [IsFinite]
  · intro s m x h _
    simp at h
    obtain ⟨-, rfl, rfl⟩ := h
    decide +kernel
  · refine ⟨by simp, by decide, by decide +kernel⟩
  · refine ⟨by decide, .inl rfl, by simp [Fits, num], ?_⟩
    simp [inUnits, num]

theorem witness_EncodeOfDecode :
    decode 0x82081CC2#32 = decode (withStop 0x82081CC2#32) ∧ (0x80000000#32 &&& 0x7FFFFFFF#32) = 0
    ∧ (0x77FFFFFF#32).extractLsb' 25 6 = 0x3B#6 := ⟨by rfl, by decide, by decide⟩

theorem witness_StepRunsDecoded :
    (let s := State.reset.placeInstr (bytesOf 4 0x26000006)
     (dispatched s).fetchWord 0 s.warp.pc.toNat = .ok (0x26000006, 0x20000) ∧ decode 0x26000006 = .ok .nop)
    ∧ (let s := State.reset.placeInstr (bytesOf 4 0x26000006)
       s.halted = false ∧ (∀ w ∈ s.warps, w.rerun = true → w.status ≠ .ready) ∧ s.warp.status = .ready ∧ s.warp.hold ≤ s.clock ∧ s.agenda = []
        ∧ s.warp.rep = none ∧ (dispatched s).stopReason 0x26000006 = none ∧ s.monarch.causal = none ∧ s.others = [] ∧ s.warp.wait = none)
    ∧ (let s := { State.reset.placeInstr [] with warp := { (State.reset.placeInstr []).warp with pc := 0x2000 } }
       (∃ x, (dispatched s).fetchWord 0 s.warp.pc.toNat = .error x) ∧ s.warp.status = .ready)
    ∧ (let s := State.reset.placeInstr (bytesOf 4 0x240C0041)
       let s := { s with warp := { s.warp with rep := some ⟨4, 1, 1, 1, 0x28200040⟩, xrep := 3 }, agenda := [.warp 0 0] }
       repWord s.warp ⟨4, 1, 1, 1, 0x28200040⟩ = some 0x282C1870 ∧ s.stopReason 0x28200040 = none ∧ s.agenda = .warp s.warp.pcn s.warp.cw :: [])
    ∧ decode 0x282C1870 = .ok (.vadd 11 3 7)
    ∧ (let s := { running with agenda := [.event .lunaSync {}] }
       s.halted = false ∧ s.agenda = .event .lunaSync {} :: [] ∧ encode .lunaSync = none) :=
  ⟨⟨ok_of (by decide +kernel), by rfl⟩, by decide +kernel, ⟨⟨⟨cTRANSLATION, 4, 0x2000⟩, error_of (by decide +kernel)⟩, by decide +kernel⟩, by decide +kernel, by rfl,
    by decide +kernel⟩

theorem witness_StepRunsDecoded_others :
    (let s := State.reset.placeInstr (bytesOf 4 0x12000000); (dispatched s).fetchWord 0 s.warp.pc.toNat = .ok (0x12000000, 0x20000))
    ∧ (let s := { placed with agenda := [.ahead 0 0 false 0x600 4] }
       s.halted = false ∧ (∀ w ∈ s.warps, w.rerun = true → w.status ≠ .ready) ∧ s.warp.status ≠ .free ∧ s.warp.stores = []
        ∧ s.agenda = .ahead s.warp.pcn s.warp.cw false 0x600 4 :: [])
    ∧ decode 0x12000000 = .error .unassigned
    ∧ (let s := { placed with warp := { placed.warp with wait := some (.cwait 0) }, agenda := [.warp 0 0] }
       State.tries s.warp = true ∧ s.halted = false ∧ (∀ w ∈ s.warps, w.rerun = true → w.status ≠ .ready) ∧ s.warp.status ≠ .free)
    ∧ (let r : Rep := ⟨64, 1, 0, 0, 0x2BF00040⟩; repWord { ready0.warp with rep := some r, xrep := 63 } r = none) :=
  ⟨ok_of (by decide +kernel), by decide +kernel, by rfl, by decide +kernel, by decide +kernel⟩

theorem witness_DecodeOfEncode : wellFormed (.mseti 127 127 9) = false ∧ wellFormed (.mseti 1 127 9) = true := by decide

theorem witness_StepKeepsMemoryForm : State.reset.canonical = true ∧ ∃ t, step State.reset = .next t := by
  have h : (match step State.reset with | .next _ => true | _ => false) = true := by decide +kernel
  refine ⟨by decide, ?_⟩
  cases hs : step State.reset with
  | next t => exact ⟨t, rfl⟩
  | fault f => rw [hs] at h; cases h
  | refused r => rw [hs] at h; cases h

/-! ## The spec's worked examples of encodings, and ill-formed terms -/

/-- The words the encoding chapters work out. -/
theorem test_decode_examples :
    [0x1820B406#32, 0x20402005#32, 0x1C000002#32, 0x240C0041#32, 0x28200040#32, 0x661C1802#32, 0x660C3011#32, 0x6614C812#32,
     0x783C0005#32, 0x7C08C202#32, 0x780D4004#32, 0x7A150602#32, 0x7A1E811F#32, 0x78200007#32, 0x520C2003#32, 0x52142006#32,
     0x40100823#32, 0x2E040832#32, 0x72300002#32, 0x74141800#32, 0x74280002#32, 0xF4280002#32, 0x7E000240#32, 0x6E081803#32,
     0x26000006#32].map decode =
    ([.bcc 4 5 5 6, .brp 1 4 5, .jmp 2, .rep 3 1 0 1, .vadd 8 0 4, .sspill 7 3, .abinds 3 6, .aqry 5 3 1,
      .mxon 15, .fld 2 3 4 2, .fmov 3 40, .tsld 5 1 0 3 2, .tsst 7 2 1 0 31, .tcvt 8 0, .vredadd 3 4, .vscan 5 4,
      .vfma 4 1 2, .vcmp 1 1 3 2, .cseal 12, .bar 5 3, .gbar 10 0, .gbar 10 0, .tretR, .dwb 2 3, .nop] : List Instr).map .ok := by rfl

/-- One ill-formed term for each check of `wellFormed`, with the last value the check lets pass. -/
theorem test_wellFormed_refuses :
    wellFormed (.sadd 64 1 1) = false ∧ wellFormed (.sadd 63 1 1) = true
    ∧ wellFormed (.sadd 0 0 0) = false ∧ wellFormed (.sadd 0 0 1) = true
    ∧ wellFormed (.xseed 63) = false ∧ wellFormed (.xseed 62) = true
    ∧ wellFormed (.acopyIn 0 62) = false ∧ wellFormed (.acopyIn 0 61) = true
    ∧ wellFormed (.pnot 8 0) = false ∧ wellFormed (.pnot 7 0) = true
    ∧ wellFormed (.sshli 1 1 64) = false ∧ wellFormed (.sshli 1 1 63) = true
    ∧ wellFormed (.bcc 0 0 6 0) = false ∧ wellFormed (.bcc 0 0 5 0) = true
    ∧ wellFormed (.rep 0 5 0 0) = false ∧ wellFormed (.rep 0 4 0 0) = true
    ∧ wellFormed (.mseti 0 0 10) = false ∧ wellFormed (.mseti 0 8 0) = false ∧ wellFormed (.mseti 0 7 0) = true
    ∧ wellFormed (.vcvt 1 1 11) = false ∧ wellFormed (.vcvt 1 1 10) = true
    ∧ wellFormed (.vcmp 1 1 1 6) = false ∧ wellFormed (.vcmp 1 1 1 5) = true
    ∧ wellFormed (.vfcmp 1 1 1 8) = false ∧ wellFormed (.vfcmp 1 1 1 7) = true
    ∧ wellFormed (.aqry 1 1 6) = false ∧ wellFormed (.aqry 1 1 5) = true := by decide

/-- R52: `acas` names a pair of registers; past the last register it is no instruction. -/
theorem test_wellFormed_refuses_pairs :
    wellFormed (.acasVg 127 3 5 0) = false ∧ wellFormed (.acasVg 126 3 5 0) = true
    ∧ wellFormed (.acasVs 127 5 0) = false ∧ wellFormed (.acasVs 126 5 0) = true
    ∧ wellFormed (.acasSg 63 3 5 0) = false ∧ wellFormed (.acasSg 62 3 5 0) = true
    ∧ wellFormed (.acasSs 63 5 0) = false ∧ wellFormed (.acasSs 62 5 0) = true := by decide

/-- The published example of SHA-384 (FIPS 180-4): the message "abc". -/
theorem test_sha384 :
    (sha384 [0x61, 0x62, 0x63]).take 8 = [0xcb, 0x00, 0x75, 0x3f, 0x45, 0xa3, 0x5e, 0x8b] := by decide +kernel

/-- The published example of AES-256 (FIPS 197, C.3): the last round key, and the three parts of its first round with their inverses. -/
theorem test_aes :
    (roundKeys (bytesBE 32 0x000102030405060708090a0b0c0d0e0f101112131415161718191a1b1c1d1e1f)).getD 14 []
      = bytesBE 16 0x24fc79ccbf0979e9371ac23c6d68de36 := by decide +kernel

theorem test_aes_round :
    (let start := bytesBE 16 0x00102030405060708090a0b0c0d0e0f0
     let boxed := bytesBE 16 0x63cab7040953d051cd60e0e7ba70e18c
     let moved := bytesBE 16 0x6353e08c0960e104cd70b751bacad0e7
     let mixed := bytesBE 16 0x5f72641557f5bc92f7be3b291db9f91a
     start.map subByte = boxed ∧ shiftRows false boxed = moved ∧ mixColumns [2, 3, 1, 1] moved = mixed
      ∧ boxed.map unsubByte = start ∧ shiftRows true moved = boxed ∧ mixColumns [14, 11, 13, 9] mixed = moved) := by decide +kernel

/-- The base point lies on the curve. -/
theorem test_curve : onCurve basePoint = true := by decide +kernel

/-- Words that decode to nothing: no instruction, an unassigned major, an unassigned function, a register out of range. -/
theorem test_decode_refuses :
    decode 0#32 = .error .zeroWord ∧ decode 0x12000000#32 = .error .unassigned ∧ decode 0x0000000F#32 = .error .unassigned
    ∧ decode 0x01000010#32 = .error .badField :=
  ⟨by rfl, by rfl, by rfl, by rfl⟩

/-! ## Results worked out by hand -/

/-- The state an instruction leaves, or the state before it. -/
def after (i : Instr) (s : State) : State :=
  match exec i s with
  | .next t => t
  | _ => s

/-- R93: −2^63 ÷ −1 is −2^63 with OF; a remainder by 0 is the dividend with DZ. -/
theorem test_division_corners :
    (let t := after (.sdiv 3 1 2) (withS ready0 0x8000000000000000 0xFFFFFFFFFFFFFFFF 7); t.readS 3 = 0x8000000000000000 ∧ t.warp.flg = 4)
    ∧ (let t := after (.srem 3 1 2) (withS ready0 0xFFFFFFFFFFFFFFF9 0 7); t.readS 3 = 0xFFFFFFFFFFFFFFF9 ∧ t.warp.flg = 2) := by decide +kernel

/-- R93: −7 ÷ 2 truncates to −3, remainder −1. -/
theorem test_division_truncates :
    let s := withS ready0 0xFFFFFFFFFFFFFFF9 2 7
    (after (.sdiv 3 1 2) s).readS 3 = 0xFFFFFFFFFFFFFFFD ∧ (after (.srem 3 1 2) s).readS 3 = 0xFFFFFFFFFFFFFFFF := by decide +kernel

/-- R120: the high half of −1 × −1 is 0, of (2^64 − 1)² is 2^64 − 2. -/
theorem test_multiply_high :
    let s := withS ready0 0xFFFFFFFFFFFFFFFF 0xFFFFFFFFFFFFFFFF 7
    (after (.smulh 3 1 2) s).readS 3 = 0 ∧ (after (.smulhu 3 1 2) s).readS 3 = 0xFFFFFFFFFFFFFFFE := by decide +kernel

/-- R20: s0 reads 0 and discards a write; the source may be the destination. -/
theorem test_zero_register_and_self :
    let s := withS ready0 5 7 7
    (after (.sadd 0 1 2) s).readS 0 = 0 ∧ (after (.ssub 1 1 2) s).readS 1 = 0xFFFFFFFFFFFFFFFE := by decide +kernel

/-- R121: a sum of bounds that leaves the int32 range is unbounded. -/
theorem test_interval_overflow :
    let s := { ready0 with warp := { ready0.warp with sshd := ready0.warp.sshd.set 1 (.bounded 0 2147483647) } }
    (after (.saddi 3 1 0) s).shadowS 3 = .bounded 0 2147483647 ∧ (after (.saddi 3 1 1) s).shadowS 3 = .unbounded := by decide +kernel

/-- R92: 200 + 100 in U8 saturates to 255 with SA (bit 5), and wraps to 44 with OF (bit 2). -/
theorem test_narrowing :
    let lanes := fun (x : Word) => (Vector.replicate 32 0 : Lanes).set 0 x
    let s := fun (sat : Nat) => let s := withS ready0 0 0 (BitVec.ofNat 64 (7 + 8 * 5 + 1024 * sat))
      { s with warp := { s.warp with vreg := (s.warp.vreg.set 1 (lanes 200)).set 2 (lanes 100) } }
    (let t := after (.vadd 3 1 2) (s 1); lane (t.readV 3) 0 = 255 ∧ t.warp.flg = 0x20)
    ∧ (let t := after (.vadd 3 1 2) (s 0); lane (t.readV 3) 0 = 44 ∧ t.warp.flg = 0x04) := by decide +kernel

/-- R163, R97: 1.1 as F32, 0x3F8CCCCD, is 0x3F8D in BF16 to nearest and 0x3F8C toward zero. -/
theorem test_convert_rounds :
    let s := fun (rm : Nat) => let s := withS ready0 0 0 (BitVec.ofNat 64 (7 + 8 * 6 + 128 * rm))
      { s with warp := { s.warp with vreg := s.warp.vreg.set 1 (Vector.replicate 32 0x3F8CCCCD) } }
    lane ((after (.vcvt 3 1 8) (s 0)).readV 3) 31 = 0x3F8D ∧ lane ((after (.vcvt 3 1 8) (s 1)).readV 3) 31 = 0x3F8C := by decide +kernel

/-- R170: 1 × 2 + (−2) is exactly 0; 1 + 1 is 2. -/
theorem test_float_arithmetic :
    let s := let s := withS ready0 0 0 (BitVec.ofNat 64 (7 + 8 * 6))
      { s with warp := { s.warp with vreg := ((s.warp.vreg.set 1 (Vector.replicate 32 0x3F800000)).set 2 (Vector.replicate 32 0x40000000)).set 3
                                       (Vector.replicate 32 0xC0000000) } }
    lane ((after (.vfma 3 1 2) s).readV 3) 0 = 0 ∧ lane ((after (.vfadd 3 1 1) s).readV 3) 9 = 0x40000000 := by decide +kernel

/-- R130, R131: a split under p1 = 0xF runs the other lanes first and joins back. -/
theorem test_divergence :
    let s := { ready0 with warp := { ready0.warp with preg := ready0.warp.preg.set 1 0xF } }
    let t := after (.brp 1 4 8) s
    let at_ := fun (u : State) (pc : BitVec 48) => ({ u with warp := { u.warp with pc := pc } } : State)
    let u := after .join (at_ t 0x1020)
    let v := after .join (at_ u 0x1020)
    t.warp.pc = 0x1004 ∧ t.warp.active = 0xFFFFFFF0 ∧ u.warp.pc = 0x1010 ∧ u.warp.active = 0xF ∧ v.warp.pc = 0x1024 ∧ v.warp.active = 0xFFFFFFFF
      ∧ v.warp.stack = [] := by decide +kernel

/-- R196, R197: `trap 7` enters the handler at the header's address plus TRAPVEC with SOFTWARE, DETAIL 7. -/
theorem test_trap_enters :
    let t := after (.trap 7) handled
    t.warp.pc = 0x40 + 128 ∧ t.warp.xpc = 0x1000 ∧ t.warp.xcause = 0x20 ∧ t.warp.xmask = 0xFFFFFFFF ∧ t.warp.xrec = 0x1800
      ∧ (t.warp.records.map FaultRec.detail) = [7] := by decide +kernel

/-- R198: `tret.s` goes on past the faulting word, and the handler is left. -/
theorem test_tret_skips :
    let t := after .tretS (after (.trap 7) { handled with homes := { Homes.reset with mem := [(0x101000, 0x47)] } })
    t.warp.pc = 0x1004 ∧ t.warp.xcause = 0 := by decide +kernel

/-- R189 (log 12): the check value of CRC-32C of the digits 1 to 9 is 0xE3069283. -/
theorem test_crc32c : crc32c [0x31, 0x32, 0x33, 0x34, 0x35, 0x36, 0x37, 0x38, 0x39] = 0xE3069283#32 := by decide +kernel

/-- R184: `lda` of little-endian bytes, and of a suppressed lane. -/
theorem test_load_array :
    let s := { loads 0 1 with homes := { Homes.reset with mem := [(0x100600, 0x78), (0x100601, 0x56), (0x100602, 0x34), (0x100603, 0x12)] } }
    let t := after (.lda 5 2 3 0) s
    lane (t.readV 5) 0 = 0x12345678 ∧ lane (t.readV 5) 1 = 0 ∧ (t.readA 2).vcount = 31 := by decide +kernel

/-- R185, R45: of two lanes that store in one place the higher lane's bytes stay, and the warp's own load sees them. -/
theorem test_store_forwards :
    let s := { loads 1 32 with warp := { (loads 1 32).warp with vreg := (loads 1 32).warp.vreg.set 3 (Vector.replicate 32 0) } }
    let s := { s with warp := { s.warp with vreg := s.warp.vreg.set 4 (Vector.ofFn fun i => BitVec.ofNat 32 (100 + i.val)) } }
    lane ((after (.lda 5 2 3 0) (after (.sta 4 2 3 0) s)).readV 5) 7 = 131 := by decide +kernel

/-- R300, R301: `aadd` twice in one word gives the lanes rising old values. -/
theorem test_atomic_order :
    let s := { placed with warp := { placed.warp with vreg := placed.warp.vreg.set 4 (Vector.replicate 32 3), active := 0x11 } }
    let t := after (.aaddVs 4 3 0) s
    lane (t.readV 4) 0 = 0 ∧ lane (t.readV 4) 4 = 3 ∧ (t.core 0).sram.get 32768 = 6 := by decide +kernel

/-- R49, R38: what a warp starts with: XS from its place, a lane number register, the sizes of a barrier's word. -/
theorem test_system_registers :
    (after (.srd 3 0x06) ({ ready0 with warp := { ready0.warp with cw := 31 } } : State)).readS 3 = 31
    ∧ (after (.srd 3 0x05) ({ ready0 with warp := { ready0.warp with pcn := 255 } } : State)).readS 3 = 3
    ∧ (after (.srd 3 0x04) ({ ready0 with warp := { ready0.warp with pcn := 255 } } : State)).readS 3 = 15 := by decide +kernel

/-- The BX8 example beside R216: from tile 0 at 0, `mop t0, fa0, fb0` makes every cell 1.0 × 2.0 + 2.0 × 0.75 = 3.5. -/
theorem test_mop_example :
    let image := fun (a b c : Word) => Vector.ofFn fun i : Fin 32 => if i.val < 8 then a else if i.val < 16 then b else if i.val = 16 then c else 0
    let fa := image 0x10101010 0x20202020 0x7F7F7F7F
    let fb := image 0x90909090 0x18181818 0x7F7E807F
    let t := after (.mop 0 0 0) { pinned1 false 1 with warp := { (pinned1 false 1).warp with feeds := #v[fa, fa, fb, fb] } }
    lane (t.readV 0) 0 = 0x40600000 ∧ lane (t.readV 31) 31 = 0x40600000 ∧ lane (t.readV 32) 0 = 0 := by decide +kernel

/-- The first step after reset with `sli s3, 100` placed runs it. -/
theorem test_step_runs :
    (match step (State.reset.withFetchWord 32 0x0C0C0064) with
      | .next t => decide (t.readS 3 = 100) && decide (t.warp.pc = 0x1004)
      | _ => false) = true := by decide +kernel

end Sys2Proof.Tests
end

section
/-!
PROOFS. The encoding and the assembly of words (R50-R79): a well-formed instruction decodes from its word, and whatever decodes
encodes back to the word it was read from. The second rests on one lemma per major (`encodes_shape..`): whatever the shape of
the major gives, its word is the word of the major's format (R51) with the fields the shape was given.
-/

namespace Sys2Proof.Laws.RoundTrip

/-- The lemmas of the constructors, put together in the order of the opcode table. -/
theorem decode_encode (i : Instr) : Statement i :=
  i.casesOn
    sadd ssub smul smulh smulhu sand sor sxor sshl sshr ssra smin smax sminu smaxu sdiv sdivu srem sremu spopc sclz
    sshli sshri ssrai ssetEq ssetNe ssetLt ssetGe ssetLtu ssetGeu saddi sandi sori sxori sli slih iwidenUS iwidenLS
    iwidenBS iwidenUV iwidenLV iwidenBV iclampS iclampV ishqS ishqV bcc bcci jmp call brp bany ball rep jmpi calli
    spawn spawnW launch vadd vsub vmul vmulh vand vor vxor vandn vshl vshr vsra vmin vmax vmad vabs vneg vpopc vclz
    vbrev vmov vlane vbcast vextr vcvt vsel vcmp vmovi vaddi vandi vshli vshri vsrai vfadd vfsub vfmul vfma vfms vfnma
    vfnms vfmin vfmax vfdiv vfabs vfneg vfrcp vfrsq vfsqrt vfexp2 vflog2 vfsin vfcos vfrnd vfclass vfcmp pand por pxor
    pnot pandn pset pget ppopc pfirst vshfl vshflx vrot vredadd vredmin vredmax vscan lda sta ldb stb slda ssta lds
    sts slds ssts vspill vfill sspill sfill abind abinds aqry aaddVg aaddfVg aminVg amaxVg aminuVg amaxuVg aandVg
    aorVg axorVg axchVg acasVg aappVg aaddSg aaddfSg aminSg amaxSg aminuSg amaxuSg aandSg aorSg axorSg axchSg acasSg
    aaddVs aaddfVs aminVs amaxVs aminuVs amaxuVs aandVs aorVs axorVs axchVs acasVs aappVs aaddSs aaddfSs aminSs amaxSs
    aminuSs amaxuSs aandSs aorSs axorSs axchSs acasSs dwb iinv acopyIn acopyOut agather ascadd qstream qpop qstat
    cseal cwait armw waitg waitw waitwG bar bara gbar mop mopn tzero mchk fmov mxon tcvt tsld tsst fld flds tld tst
    tstA tldv mset mseti mget srd swr flgr flgc xseed trap pmark ret join tfence exit nop facq frel ffull fetchb mxoff
    tretR tretS tretX bkpt branchMispredict trapEntry constantCacheFill storeRegistration lineFill uncorrectableError
    correctedError copySlotGrant copySectorWrite arrival copyComplete csealUnblock cwaitSatisfied waitgSatisfied
    waitwSatisfied waitwGSatisfied queueFill qpopEntryReady spawnWRetry tstATry tstAVersionStore tldvTry
    barrierPhaseComplete gangBarrierPhaseComplete rotatedDuplicate duplicatePipeHold spareColumnRemap
    partitionWithdrawal gangPlace gangEvict gangRestore launchCompletion trapDelivery backoffExpiry coalescerDrain
    retry skip exclude halt warpHalt gangHalt gangHaltReceipt monarchGangHalt dump dumpAreaReset regionCreate
    regionReread appendDoorbell appendRequest launchTake leasePin quantumExpiry priorityAging waiterYield relaunch
    invalidate footprintRead pageMove dbiWindowEnd dbiModeSwitch selfRefreshEntry selfRefreshExit controllerWrite
    mscRequest scrubPatrol powerOn recoveryImageWrite rebootRequest standbyTakeover attestationReport keyLoad
    powerSample lunaRecord lunaSync lunaRearm freezeMaskSet clusterWatchdog breakpointSet singleStep safePointStop
    samplePeriodSet samplePeriodEnd debugRegisterAccess trapModeSet causalExperiment causalPeriodEnd translateFunction
    hostMemoryAccess hostRegisterWrite hostLinkLost hostAttach flitReceive laneSpare linkRetrain linkDown peerLost
    lostRequestCompletion poolRowRead poolRowAdd tableCreate tableGrant tablePublish rowMove rowHandover migrateRegion
    powerLoss standbyDieFailure leaseReferralAnswer linkRetrainDone

end Sys2Proof.Laws.RoundTrip

namespace Sys2Proof.Laws

/-! ## Decoding, inverted -/

theorem decode_eq_ok_iff {w : Word} {i : Instr} :
    decode w = .ok i ↔ field w 0 31 ≠ 0#31 ∧ decodeShape w = some i ∧ wellFormed i = true := by
  constructor
  · intro h
    unfold decode at h
    split at h
    next => cases h
    next hz =>
      split at h
      next => cases h
      next hs =>
        split at h
        next hw =>
          cases h
          exact ⟨hz, hs, hw⟩
        next => cases h
  · rintro ⟨hz, hs, hw⟩
    exact decode_of_shape hs hw hz

/-! ## Bits [30:0] of a word -/

theorem and_lowBits_toNat (w : Word) : (w &&& 0x7FFFFFFF#32).toNat = w.toNat % 2 ^ 31 :=
  Nat.and_two_pow_sub_one_eq_mod w.toNat 31

theorem field_lowBits_eq_zero_iff {w : Word} : field w 0 31 = 0#31 ↔ w &&& 0x7FFFFFFF#32 = 0#32 := by
  rw [← BitVec.toNat_inj, ← BitVec.toNat_inj, field_toNat, and_lowBits_toNat, Nat.pow_zero, Nat.div_one]
  rfl

theorem decode_of_lowBits_zero {w : Word} (h : w &&& 0x7FFFFFFF#32 = 0#32) : decode w = .error .zeroWord :=
  if_pos (field_lowBits_eq_zero_iff.mpr h)

/-- R50: a field below bit 31 is the same with the stop bit set. -/
theorem field_withStop (w : Word) {lo n : Nat} (h : lo + n ≤ 31) : field (withStop w) lo n = field w lo n := by
  ext i hi
  have hstop : Nat.testBit 2147483648 (lo + i) = false := Nat.testBit_two_pow_of_ne (n := 31) (by omega)
  simp [field, withStop, ← Nat.shiftRight_eq_div_pow, BitVec.getElem_eq_testBit_toNat, hstop]

theorem decodeShape_withStop (w : Word) : decodeShape (withStop w) = decodeShape w := by
  simp [decodeShape, field_withStop]

theorem decode_withStop (w : Word) : decode (withStop w) = decode w := by
  unfold decode
  rw [field_withStop w (by decide), decodeShape_withStop]

/-! ## A word is the word of its fields, format by format (R51) -/

theorem ofNat_eq_lowBits {w : Word} {n : Nat} (h : n = w.toNat % 2 ^ 31) : BitVec.ofNat 32 n = w &&& 0x7FFFFFFF#32 := by
  refine BitVec.eq_of_toNat_eq ?_
  rw [and_lowBits_toNat, BitVec.toNat_ofNat, h]
  omega

section Formats
variable {w : Word} {maj : Nat} (hM : (field w 25 6).toNat = maj)
include hM

theorem encV3_of_fields :
    encV3 maj (field w 18 7) (field w 11 7) (field w 4 7) (field w 0 4) = w &&& 0x7FFFFFFF#32 := by
  subst hM
  exact ofNat_eq_lowBits (by simp only [field_toNat]; omega)

theorem encV2I_of_fields :
    encV2I maj (field w 18 7) (field w 11 7) (field w 0 11) = w &&& 0x7FFFFFFF#32 := by
  subst hM
  exact ofNat_eq_lowBits (by simp only [field_toNat]; omega)

theorem encSI_of_fields :
    encSI maj (field w 18 7) (field w 0 18) = w &&& 0x7FFFFFFF#32 := by
  subst hM
  exact ofNat_eq_lowBits (by simp only [field_toNat]; omega)

theorem encBC_of_fields :
    encBC maj (field w 19 6) (field w 13 6) (field w 10 3) (field w 0 10) = w &&& 0x7FFFFFFF#32 := by
  subst hM
  exact ofNat_eq_lowBits (by simp only [field_toNat]; omega)

theorem encBCI_of_fields :
    encBCI maj (field w 19 6) (field w 13 6) (field w 10 3) (field w 0 10) = w &&& 0x7FFFFFFF#32 := by
  subst hM
  exact ofNat_eq_lowBits (by simp only [field_toNat]; omega)

theorem encJ_of_fields :
    encJ maj (field w 0 25) = w &&& 0x7FFFFFFF#32 := by
  subst hM
  exact ofNat_eq_lowBits (by simp only [field_toNat]; omega)

theorem encBP_of_fields :
    encBP maj (field w 22 3) (field w 11 11) (field w 0 11) = w &&& 0x7FFFFFFF#32 := by
  subst hM
  exact ofNat_eq_lowBits (by simp only [field_toNat]; omega)

theorem encM_of_fields :
    encM maj (field w 18 7) (field w 14 4) (field w 7 7) (field w 0 7) = w &&& 0x7FFFFFFF#32 := by
  subst hM
  exact ofNat_eq_lowBits (by simp only [field_toNat]; omega)

theorem encTS_of_fields :
    encTS maj (field w 18 7) (field w 16 2) (field w 15 1) (field w 9 6) (field w 0 9) = w &&& 0x7FFFFFFF#32 := by
  subst hM
  exact ofNat_eq_lowBits (by simp only [field_toNat]; omega)

theorem encX_of_fields :
    encX maj (field w 18 7) (field w 11 7) (field w 0 11) = w &&& 0x7FFFFFFF#32 := by
  subst hM
  exact ofNat_eq_lowBits (by simp only [field_toNat]; omega)

end Formats

/-! ## An operand is the value of its parts -/

/-- An operand split at bit `lo`, with the upper part known. -/
theorem ofNat_parts {m lo n : Nat} {x : BitVec m} {c : BitVec n} (h : field x lo n = c) (hm : lo + n = m := by rfl) :
    BitVec.ofNat m (c.toNat * 2 ^ lo + (field x 0 lo).toNat) = x := by
  subst h hm
  have hx := x.isLt
  have hhigh : x.toNat / 2 ^ lo < 2 ^ n := Nat.div_lt_of_lt_mul (by rwa [← Nat.pow_add])
  refine BitVec.eq_of_toNat_eq ?_
  rw [BitVec.toNat_ofNat, field_toNat, field_toNat, Nat.mod_eq_of_lt hhigh, Nat.pow_zero, Nat.div_one, Nat.div_add_mod']
  exact Nat.mod_eq_of_lt hx

/-- An operand with a zero upper part is its lower part. -/
theorem ofNat_low {m lo n : Nat} {x : BitVec m} (h : field x lo n = 0#n) (hm : lo + n = m := by rfl) :
    BitVec.ofNat m (field x 0 lo).toNat = x := by
  simpa using ofNat_parts h hm

/-- R72: the last seven bits of an atomic are its operation, its order and a zero. -/
theorem ofNat_atomic {m : BitVec 7} {op : BitVec 4} (hop : field m 3 4 = op) (hz : field m 0 1 = 0#1) :
    BitVec.ofNat 7 (op.toNat * 8 + (field m 1 2).toNat * 2) = m := by
  subst hop
  have hm := m.isLt
  have hz := congrArg BitVec.toNat hz
  refine BitVec.eq_of_toNat_eq ?_
  simp only [field_toNat, BitVec.toNat_ofNat] at *
  omega

theorem ofNat_atomic_zero {m : BitVec 7} (hop : field m 3 4 = 0#4) (hz : field m 0 1 = 0#1) :
    BitVec.ofNat 7 ((field m 1 2).toNat * 2) = m := by
  simpa using ofNat_atomic hop hz

/-- R63: the strides of a `rep`. -/
theorem ofNat_strides {g : BitVec 11} (h : field g 9 2 = 0#2) :
    BitVec.ofNat 11 ((field g 6 3).toNat * 64 + (field g 3 3).toNat * 8 + (field g 0 3).toNat) = g := by
  have hg := g.isLt
  have h := congrArg BitVec.toNat h
  refine BitVec.eq_of_toNat_eq ?_
  simp only [field_toNat, BitVec.toNat_ofNat] at *
  omega

/-! ## Whatever a major's shape gives has the word of its fields -/

/-- The instruction that a shape gives, if any, encodes to `w`. -/
def Encodes (o : Option Instr) (w : Word) : Prop := ∀ i, o = some i → encode i = some w

theorem encodes_none (w : Word) : Encodes none w := fun _ h => by cases h

theorem encodes_some {i : Instr} {w : Word} (h : encode i = some w) : Encodes (some i) w := by
  rintro _ ⟨⟩
  exact h

/-- A row of a major's table: its instruction encodes to `w` where its fixed fields are as the row has them, and the rows after
it do. -/
theorem encodes_ite {c : Prop} [Decidable c] {i : Instr} {o : Option Instr} {w : Word}
    (hi : c → encode i = some w) (ho : Encodes o w) : Encodes (if c then some i else o) w := by
  split
  · exact encodes_some (hi ‹c›)
  · exact ho

theorem encodes_shape00 {d a b : BitVec 7} {f : BitVec 4} : Encodes (shape00 d a b f) (encV3 0x00 d a b f) := by
  unfold shape00
  iterate 15 refine encodes_ite (by rintro rfl; rfl) ?_
  exact encodes_none _

theorem encodes_shape01 {d a b : BitVec 7} {f : BitVec 4} : Encodes (shape01 d a b f) (encV3 0x01 d a b f) := by
  unfold shape01
  iterate 4 refine encodes_ite (by rintro rfl; rfl) ?_
  iterate 2 refine encodes_ite (by rintro ⟨rfl, rfl⟩; rfl) ?_
  iterate 9 refine encodes_ite (by rintro rfl; rfl) ?_
  exact encodes_none _

theorem encodes_shape08 {d a b : BitVec 7} {f : BitVec 4} : Encodes (shape08 d a b f) (encV3 0x08 d a b f) := by
  unfold shape08
  iterate 6 refine encodes_ite (by rintro ⟨rfl, rfl, rfl⟩; rfl) ?_
  iterate 2 refine encodes_ite (by rintro rfl; rfl) ?_
  iterate 2 refine encodes_ite (by rintro ⟨rfl, rfl⟩; rfl) ?_
  exact encodes_none _

theorem encodes_shape11 {p : BitVec 3} {t j : BitVec 11} : Encodes (shape11 p t j) (encBP 0x11 p t j) := by
  unfold shape11
  iterate 2 refine encodes_ite (by rintro rfl; rfl) ?_
  exact encodes_none _

theorem encodes_shape12 {d a : BitVec 7} {g : BitVec 11} : Encodes (shape12 d a g) (encX 0x12 d a g) := by
  refine encodes_ite ?_ (encodes_none _)
  rintro ⟨hcount, rfl, hstrides⟩
  exact congr (congrArg (some <| encX 0x12 · 0#7 ·) (ofNat_low hcount)) (ofNat_strides hstrides)

theorem encodes_shape13 {d a : BitVec 7} {g : BitVec 11} : Encodes (shape13 d a g) (encX 0x13 d a g) := by
  unfold shape13
  iterate 2 refine encodes_ite (by rintro ⟨rfl, rfl⟩; rfl) ?_
  iterate 5 refine encodes_ite (by rintro ⟨rfl, rfl, rfl⟩; rfl) ?_
  iterate 3 refine encodes_ite (by rintro rfl; rfl) ?_
  exact encodes_none _

theorem encodes_shape14 {d a b : BitVec 7} {f : BitVec 4} : Encodes (shape14 d a b f) (encV3 0x14 d a b f) := by
  unfold shape14
  iterate 13 refine encodes_ite (by rintro rfl; rfl) ?_
  exact encodes_none _

theorem encodes_shape15 {d a b : BitVec 7} {f : BitVec 4} : Encodes (shape15 d a b f) (encV3 0x15 d a b f) := by
  unfold shape15
  refine encodes_ite (by rintro rfl; rfl) ?_
  iterate 6 refine encodes_ite (by rintro ⟨rfl, rfl⟩; rfl) ?_
  refine encodes_ite (by rintro ⟨rfl, rfl, rfl⟩; rfl) ?_
  refine encodes_ite (by rintro ⟨rfl, rfl⟩; rfl) ?_
  refine encodes_ite (by rintro rfl; rfl) ?_
  refine encodes_ite (by rintro ⟨hb, rfl⟩; exact congrArg (some <| encV3 0x15 d a · 10#4) (ofNat_low hb)) ?_
  exact encodes_none _

theorem encodes_shape16 {d a b : BitVec 7} {f : BitVec 4} : Encodes (shape16 d a b f) (encV3 0x16 d a b f) :=
  encodes_ite (fun hf => congrArg (some <| encV3 0x16 d a b ·) (ofNat_low hf)) (encodes_none _)

theorem encodes_shape1B {d a : BitVec 7} {i : BitVec 11} : Encodes (shape1B d a i) (encV2I 0x1B d a i) := by
  unfold shape1B
  refine encodes_ite (fun hi => congrArg (some <| encV2I 0x1B d a ·) (ofNat_low hi)) ?_
  iterate 2 refine encodes_ite (fun hi => congrArg (some <| encV2I 0x1B d a ·) (ofNat_parts hi)) ?_
  exact encodes_none _

theorem encodes_shape20 {d a b : BitVec 7} {f : BitVec 4} : Encodes (shape20 d a b f) (encV3 0x20 d a b f) := by
  unfold shape20
  iterate 10 refine encodes_ite (by rintro rfl; rfl) ?_
  exact encodes_none _

theorem encodes_shape21 {d a b : BitVec 7} {f : BitVec 4} : Encodes (shape21 d a b f) (encV3 0x21 d a b f) := by
  unfold shape21
  iterate 11 refine encodes_ite (by rintro ⟨rfl, rfl⟩; rfl) ?_
  exact encodes_none _

theorem encodes_shape28 {d a b : BitVec 7} {f : BitVec 4} : Encodes (shape28 d a b f) (encV3 0x28 d a b f) := by
  unfold shape28
  iterate 3 refine encodes_ite (by rintro rfl; rfl) ?_
  refine encodes_ite (by rintro ⟨rfl, rfl⟩; rfl) ?_
  refine encodes_ite (by rintro rfl; rfl) ?_
  iterate 4 refine encodes_ite (by rintro ⟨rfl, rfl⟩; rfl) ?_
  exact encodes_none _

theorem encodes_shape29 {d a b : BitVec 7} {f : BitVec 4} : Encodes (shape29 d a b f) (encV3 0x29 d a b f) := by
  unfold shape29
  iterate 3 refine encodes_ite (by rintro rfl; rfl) ?_
  iterate 4 refine encodes_ite (by rintro ⟨rfl, rfl⟩; rfl) ?_
  exact encodes_none _

theorem encodes_shape32 {d : BitVec 7} {k : BitVec 4} {x m : BitVec 7} :
    Encodes (shape32 d k x m) (encM 0x32 d k x m) := by
  unfold shape32
  iterate 4 refine encodes_ite (by rintro rfl; rfl) ?_
  exact encodes_none _

theorem encodes_shape33 {d a : BitVec 7} {g : BitVec 11} : Encodes (shape33 d a g) (encX 0x33 d a g) := by
  unfold shape33
  iterate 4 refine encodes_ite (by rintro rfl; rfl) ?_
  iterate 2 refine encodes_ite (by rintro ⟨hd, rfl⟩; exact congrArg (some <| encX 0x33 · a _) (ofNat_low hd)) ?_
  refine encodes_ite (by rintro rfl; exact congrArg (some <| encX 0x33 d · 18#11) (ofNat_parts rfl)) ?_
  exact encodes_none _

theorem encodes_shape34 {d : BitVec 7} {k : BitVec 4} {x m : BitVec 7} :
    Encodes (shape34 d k x m) (encM 0x34 d k x m) := by
  unfold shape34
  refine encodes_ite (fun ⟨hop, hz⟩ => congrArg (some <| encM 0x34 d k x ·) (ofNat_atomic_zero hop hz)) ?_
  iterate 11 refine encodes_ite (fun ⟨hop, hz⟩ => congrArg (some <| encM 0x34 d k x ·) (ofNat_atomic hop hz)) ?_
  exact encodes_none _

theorem encodes_shape35 {d : BitVec 7} {k : BitVec 4} {x m : BitVec 7} :
    Encodes (shape35 d k x m) (encM 0x35 d k x m) := by
  unfold shape35
  refine encodes_ite (fun ⟨hop, hz⟩ => congrArg (some <| encM 0x35 d k x ·) (ofNat_atomic_zero hop hz)) ?_
  iterate 10 refine encodes_ite (fun ⟨hop, hz⟩ => congrArg (some <| encM 0x35 d k x ·) (ofNat_atomic hop hz)) ?_
  exact encodes_none _

/-- The vector atomics on a scratchpad (array field 0), then the scalar ones (array field 8). -/
theorem encodes_shape36 {d : BitVec 7} {k : BitVec 4} {x m : BitVec 7} :
    Encodes (shape36 d k x m) (encM 0x36 d k x m) := by
  unfold shape36
  refine encodes_ite (by rintro ⟨rfl, hop, hz⟩; exact congrArg (some <| encM 0x36 d _ x ·) (ofNat_atomic_zero hop hz)) ?_
  iterate 11
    refine encodes_ite (by rintro ⟨rfl, hop, hz⟩; exact congrArg (some <| encM 0x36 d _ x ·) (ofNat_atomic hop hz)) ?_
  refine encodes_ite (by rintro ⟨rfl, hop, hz⟩; exact congrArg (some <| encM 0x36 d _ x ·) (ofNat_atomic_zero hop hz)) ?_
  iterate 10
    refine encodes_ite (by rintro ⟨rfl, hop, hz⟩; exact congrArg (some <| encM 0x36 d _ x ·) (ofNat_atomic hop hz)) ?_
  exact encodes_none _

theorem encodes_shape37 {d a : BitVec 7} {g : BitVec 11} : Encodes (shape37 d a g) (encX 0x37 d a g) := by
  unfold shape37
  iterate 3 refine encodes_ite (by rintro ⟨rfl, rfl, rfl⟩; rfl) ?_
  iterate 2 refine encodes_ite (by rintro rfl; rfl) ?_
  refine encodes_ite (by rintro ⟨rfl, rfl, rfl⟩; rfl) ?_
  exact encodes_none _

theorem encodes_shape38 {d a : BitVec 7} {g : BitVec 11} : Encodes (shape38 d a g) (encX 0x38 d a g) := by
  unfold shape38
  iterate 5 refine encodes_ite (by rintro ⟨hd, rfl⟩; exact congrArg (some <| encX 0x38 · a _) (ofNat_low hd)) ?_
  exact encodes_none _

theorem encodes_shape39 {d a : BitVec 7} {g : BitVec 11} : Encodes (shape39 d a g) (encX 0x39 d a g) := by
  unfold shape39
  iterate 2 refine encodes_ite (by rintro ⟨ha, rfl⟩; exact congrArg (some <| encX 0x39 d · _) (ofNat_low ha)) ?_
  iterate 2 refine encodes_ite (by rintro ⟨rfl, rfl⟩; rfl) ?_
  iterate 4 refine encodes_ite (by rintro rfl; rfl) ?_
  exact encodes_none _

theorem encodes_shape3A {d a : BitVec 7} {g : BitVec 11} : Encodes (shape3A d a g) (encX 0x3A d a g) := by
  unfold shape3A
  refine encodes_ite (by rintro ⟨ha, rfl⟩; exact congrArg (some <| encX 0x3A d · _) (ofNat_low ha)) ?_
  refine encodes_ite (by rintro ⟨rfl, ha, rfl⟩; exact congrArg (some <| encX 0x3A _ · _) (ofNat_low ha)) ?_
  refine encodes_ite (by rintro ⟨ha, rfl⟩; exact congrArg (some <| encX 0x3A d · _) (ofNat_low ha)) ?_
  exact encodes_none _

/-- R75: `mop` and `mopn`, whose three operands are all narrower than their fields. -/
theorem encV3_of_low {f : BitVec 4} {d a b : BitVec 7} (hd : field d 2 5 = 0#5) (ha : field a 1 6 = 0#6)
    (hb : field b 1 6 = 0#6) :
    encV3 0x3C (BitVec.ofNat 7 (field d 0 2).toNat) (BitVec.ofNat 7 (field a 0 1).toNat) (BitVec.ofNat 7 (field b 0 1).toNat) f
      = encV3 0x3C d a b f := by
  rw [ofNat_low hd, ofNat_low ha, ofNat_low hb]

theorem encodes_shape3C {d a b : BitVec 7} {f : BitVec 4} : Encodes (shape3C d a b f) (encV3 0x3C d a b f) := by
  unfold shape3C
  iterate 2 refine encodes_ite (by rintro ⟨hd, ha, hb, rfl⟩; exact congrArg some (encV3_of_low hd ha hb)) ?_
  iterate 2
    refine encodes_ite (by rintro ⟨hd, rfl, rfl, rfl⟩; exact congrArg (some <| encV3 0x3C · _ _ _) (ofNat_low hd)) ?_
  refine encodes_ite (by rintro ⟨hd, rfl, rfl⟩; exact congrArg (some <| encV3 0x3C · a _ _) (ofNat_low hd)) ?_
  refine encodes_ite (by rintro ⟨hd, rfl, rfl, rfl⟩; exact congrArg (some <| encV3 0x3C · _ _ _) (ofNat_low hd)) ?_
  refine encodes_ite (by rintro ⟨rfl, rfl, rfl, rfl⟩; rfl) ?_
  refine encodes_ite (by rintro ⟨ha, rfl, rfl⟩; exact congrArg (some <| encV3 0x3C d · _ _) (ofNat_low ha)) ?_
  exact encodes_none _

theorem encodes_shape3D {v : BitVec 7} {t : BitVec 2} {r : BitVec 1} {x : BitVec 6} {m : BitVec 9} :
    Encodes (shape3D v t r x m) (encTS 0x3D v t r x m) := by
  unfold shape3D
  refine encodes_ite (fun hm => congrArg (some <| encTS 0x3D v t r x ·) (ofNat_low hm)) ?_
  refine encodes_ite (fun hm => congrArg (some <| encTS 0x3D v t r x ·) (ofNat_parts hm)) ?_
  exact encodes_none _

theorem encodes_shape3E {d : BitVec 7} {k : BitVec 4} {x m : BitVec 7} :
    Encodes (shape3E d k x m) (encM 0x3E d k x m) := by
  unfold shape3E
  refine encodes_ite (fun hd => congrArg (some <| encM 0x3E · k x m) (ofNat_low hd)) ?_
  refine encodes_ite (by rintro ⟨hd, rfl⟩; exact congrArg (some <| encM 0x3E · _ x m) (ofNat_parts hd)) ?_
  iterate 3 refine encodes_ite (fun hd => congrArg (some <| encM 0x3E · k x m) (ofNat_parts hd)) ?_
  refine encodes_ite
    (fun ⟨hd, hm⟩ => congr (congrArg (some <| encM 0x3E · k x ·) (ofNat_parts hd)) (ofNat_low hm)) ?_
  exact encodes_none _

theorem encodes_shape3F {d a : BitVec 7} {g : BitVec 11} : Encodes (shape3F d a g) (encX 0x3F d a g) := by
  unfold shape3F
  refine encodes_ite (by rintro ⟨rfl, rfl⟩; rfl) ?_
  refine encodes_ite (fun hg => congrArg (some <| encX 0x3F d a ·) (ofNat_parts hg)) ?_
  refine encodes_ite (by rintro ⟨rfl, rfl⟩; rfl) ?_
  iterate 2 refine encodes_ite (by rintro rfl; rfl) ?_
  iterate 3 refine encodes_ite (by rintro ⟨rfl, rfl⟩; rfl) ?_
  refine encodes_ite (by rintro ⟨rfl, rfl, hg⟩; exact congrArg (some <| encX 0x3F _ _ ·) (ofNat_parts hg)) ?_
  iterate 4 refine encodes_ite (by rintro ⟨rfl, rfl, rfl⟩; rfl) ?_
  refine encodes_ite (by rintro ⟨rfl, rfl, hg⟩; exact congrArg (some <| encX 0x3F _ _ ·) (ofNat_parts hg)) ?_
  exact encodes_none _

/-! ## All majors -/

/-- R51, R56: the instruction a word's shape gives has that word, the stop bit apart. A major of one row needs no lemma of its
own: its fields are the operands. -/
theorem encodes_decodeShape (w : Word) : Encodes (decodeShape w) (w &&& 0x7FFFFFFF#32) := by
  unfold decodeShape
  split
  next hM => exact encV3_of_fields hM ▸ encodes_shape00
  next hM => exact encV3_of_fields hM ▸ encodes_shape01
  next hM => exact encV2I_of_fields hM ▸ encodes_some rfl
  next hM => exact encV2I_of_fields hM ▸ encodes_some rfl
  next hM => exact encV2I_of_fields hM ▸ encodes_some rfl
  next hM => exact encV2I_of_fields hM ▸ encodes_some rfl
  next hM => exact encSI_of_fields hM ▸ encodes_some rfl
  next hM => exact encSI_of_fields hM ▸ encodes_some rfl
  next hM => exact encV3_of_fields hM ▸ encodes_shape08
  next hM => exact encBC_of_fields hM ▸ encodes_some rfl
  next hM => exact encBCI_of_fields hM ▸ encodes_some rfl
  next hM => exact encJ_of_fields hM ▸ encodes_some rfl
  next hM => exact encJ_of_fields hM ▸ encodes_some rfl
  next hM => exact encBP_of_fields hM ▸ encodes_some rfl
  next hM => exact encBP_of_fields hM ▸ encodes_shape11
  next hM => exact encX_of_fields hM ▸ encodes_shape12
  next hM => exact encX_of_fields hM ▸ encodes_shape13
  next hM => exact encV3_of_fields hM ▸ encodes_shape14
  next hM => exact encV3_of_fields hM ▸ encodes_shape15
  next hM => exact encV3_of_fields hM ▸ encodes_shape16
  next hM => exact encV3_of_fields hM ▸ encodes_some rfl
  next hM => exact encSI_of_fields hM ▸ encodes_some rfl
  next hM => exact encV2I_of_fields hM ▸ encodes_some rfl
  next hM => exact encV2I_of_fields hM ▸ encodes_some rfl
  next hM => exact encV2I_of_fields hM ▸ encodes_shape1B
  next hM => exact encV3_of_fields hM ▸ encodes_shape20
  next hM => exact encV3_of_fields hM ▸ encodes_shape21
  next hM => exact encV3_of_fields hM ▸ encodes_some rfl
  next hM => exact encV3_of_fields hM ▸ encodes_shape28
  next hM => exact encV3_of_fields hM ▸ encodes_shape29
  next hM => exact encM_of_fields hM ▸ encodes_some rfl
  next hM => exact encM_of_fields hM ▸ encodes_some rfl
  next hM => exact encM_of_fields hM ▸ encodes_some rfl
  next hM => exact encM_of_fields hM ▸ encodes_some rfl
  next hM => exact encM_of_fields hM ▸ encodes_some rfl
  next hM => exact encM_of_fields hM ▸ encodes_some rfl
  next hM => exact encM_of_fields hM ▸ encodes_shape32
  next hM => exact encX_of_fields hM ▸ encodes_shape33
  next hM => exact encM_of_fields hM ▸ encodes_shape34
  next hM => exact encM_of_fields hM ▸ encodes_shape35
  next hM => exact encM_of_fields hM ▸ encodes_shape36
  next hM => exact encX_of_fields hM ▸ encodes_shape37
  next hM => exact encX_of_fields hM ▸ encodes_shape38
  next hM => exact encX_of_fields hM ▸ encodes_shape39
  next hM => exact encX_of_fields hM ▸ encodes_shape3A
  next hM => exact encV3_of_fields hM ▸ encodes_shape3C
  next hM => exact encTS_of_fields hM ▸ encodes_shape3D
  next hM => exact encM_of_fields hM ▸ encodes_shape3E
  next hM => exact encX_of_fields hM ▸ encodes_shape3F
  next => exact encodes_none _

theorem wellFormed_and_encode_of_decode {w : Word} {i : Instr} (h : decode w = .ok i) :
    wellFormed i = true ∧ encode i = some (w &&& 0x7FFFFFFF#32) := by
  obtain ⟨-, hshape, hwf⟩ := decode_eq_ok_iff.mp h
  exact ⟨hwf, encodes_decodeShape w i hshape⟩

/-! ## Words that are none -/

/-- R56: the majors that are not assigned. -/
def unassignedMajors : List (BitVec 6) :=
  [0x09#6, 0x0A#6, 0x0B#6, 0x1C#6, 0x1D#6, 0x1E#6, 0x1F#6, 0x23#6, 0x24#6, 0x25#6, 0x26#6, 0x27#6, 0x2A#6, 0x2B#6, 0x3B#6]

theorem decodeShape_of_unassigned {w : Word} (h : field w 25 6 ∈ unassignedMajors) : decodeShape w = none := by
  simp only [unassignedMajors, List.mem_cons, List.not_mem_nil, or_false] at h
  unfold decodeShape
  rcases h with h | h | h | h | h | h | h | h | h | h | h | h | h | h | h <;> rw [h] <;> rfl

theorem decode_of_unassigned {w : Word} (h : field w 25 6 ∈ unassignedMajors) (i : Instr) : decode w ≠ .ok i := by
  intro hok
  obtain ⟨-, hs, -⟩ := decode_eq_ok_iff.mp hok
  rw [decodeShape_of_unassigned h] at hs
  cases hs

theorem field_eq_extractLsb' (w : Word) (lo n : Nat) : field w lo n = w.extractLsb' lo n :=
  congrArg (BitVec.ofNat n) (Nat.shiftRight_eq_div_pow w.toNat lo).symm

/-! ## The obligations -/

/-- Settles O1, constructor by constructor. -/
theorem decodeOfEncode : Obligations.DecodeOfEncode := RoundTrip.decode_encode

/-- Settles O2, major by major. -/
theorem encodeOfDecode : Obligations.EncodeOfDecode := by
  intro w
  refine ⟨fun _ h => wellFormed_and_encode_of_decode h, decode_withStop w, decode_of_lowBits_zero, fun h => ?_⟩
  exact decode_of_unassigned (field_eq_extractLsb' w 25 6 ▸ h)

/-- Settles O8: each word is the word of the instruction it stands for, with or without the stop bit, or has zero bits [30:0]. -/
theorem decodeWords : Obligations.DecodeWords :=
  ⟨RoundTrip.decode_encode (.ssub 3 4 5) rfl _ rfl,
    RoundTrip.decode_encode (.saddi 2 1 0x7FF) rfl _ rfl,
    (decode_withStop 0x0C1C0064#32).trans (RoundTrip.decode_encode (.sli 7 100) rfl _ rfl),
    RoundTrip.decode_encode (.bcc 1 2 1 4) rfl _ rfl,
    RoundTrip.decode_encode (.jmp 0x1FFFFFE) rfl _ rfl,
    RoundTrip.decode_encode (.lda 5 2 6 3) rfl _ rfl,
    decode_of_lowBits_zero rfl,
    decode_of_lowBits_zero rfl⟩

end Sys2Proof.Laws
end
